-- ==== Sys2Proof/Word.lean ====
section
/-! DEFINITION. Word and byte types, and the sparse map in one canonical form that holds memory, synchronisation objects
and every other large, mostly default, piece of state. -/

namespace Sys2Proof

abbrev Byte := BitVec 8
abbrev Word := BitVec 64
abbrev F32 := BitVec 32

/-- A sparse map: pairs with strictly rising keys, none holding the default. Memory is the map at `Byte`, whose pairs
are `Host.Cell`s. -/
abbrev SMap (α : Type) := List (Nat × α)

namespace SMap

variable {α : Type}

/-- The value at a key; an unlisted key holds the default. -/
def get (dflt : α) : SMap α → Nat → α
  | [], _ => dflt
  | (k, v) :: m, a => if a = k then v else get dflt m a

/-- Removes a key. -/
def erase : SMap α → Nat → SMap α
  | [], _ => []
  | (k, v) :: m, a => if a = k then m else (k, v) :: erase m a

/-- Puts a value at a key, in its place in the order. -/
def put : SMap α → Nat → α → SMap α
  | [], a, x => [(a, x)]
  | (k, v) :: m, a, x =>
    if a < k then (a, x) :: (k, v) :: m
    else if a = k then (a, x) :: m
    else (k, v) :: put m a x

/-- Writes a key and keeps the canonical form: the default is never listed. -/
def set [DecidableEq α] (dflt : α) (m : SMap α) (a : Nat) (x : α) : SMap α :=
  if x = dflt then m.erase a else m.put a x

/-- The keys lie strictly above `lo - 1` and rise strictly. -/
def sorted : SMap α → Nat → Bool
  | [], _ => true
  | (k, _) :: m, lo => decide (lo ≤ k) && sorted m (k + 1)

/-- The canonical form. -/
def wf [DecidableEq α] (dflt : α) (m : SMap α) : Bool :=
  sorted m 0 && m.all (fun c => decide (c.2 ≠ dflt))

end SMap

/-- A bit field [msb:lsb] of a number (R9). -/
def bits (w msb lsb : Nat) : Nat := (w >>> lsb) % 2 ^ (msb + 1 - lsb)

/-- One bit of a number. -/
def bit (w i : Nat) : Bool := (w >>> i) % 2 == 1

/-- The little-endian number that a run of bytes holds (R8). -/
def leNat : List Byte → Nat
  | [] => 0
  | b :: bs => b.toNat + 256 * leNat bs

/-- The n little-endian bytes of a number (R8). -/
def leBytes : Nat → Nat → List Byte
  | 0, _ => []
  | n + 1, w => BitVec.ofNat 8 w :: leBytes n (w / 256)

/-- Ceiling division; by zero it is 0. -/
def ceilDiv (a b : Nat) : Nat := (a + b - 1) / b

/-- The first index at which a list satisfies a test. -/
def findIdxFrom {α : Type} (p : α → Bool) : List α → Nat → Option Nat
  | [], _ => none
  | x :: xs, i => if p x then some i else findIdxFrom p xs (i + 1)

/-- Applies a change to the element at an index. -/
def modifyAt {α : Type} (f : α → α) : List α → Nat → List α
  | [], _ => []
  | x :: xs, 0 => f x :: xs
  | x :: xs, i + 1 => x :: modifyAt f xs i

/-- Runs of at most n elements, the last possibly short; fuel bounds the number of runs. -/
def chunksOf {α : Type} (n : Nat) : Nat → List α → List (List α)
  | 0, _ => []
  | _ + 1, [] => []
  | fuel + 1, xs => xs.take n :: chunksOf n fuel (xs.drop n)

end Sys2Proof
end

