-- ==== Sys2Proof/Syntax.lean ====
section
/-! DEFINITION. The commands of the module: one constructor per row of spec/opcode_table.json, and the packets, frames,
records and measurements they carry. A descriptor's row names its queue (the descriptor itself stands in memory, R70); a
host command's row names its channel and sequence (its record stands in the channel, R379); a dictionary row names the
access path whose request it serves (R396). -/

namespace Sys2Proof

abbrev DieId := Fin 20
/-- Source dies of remote operations: CD00 to CD19, and 20 the host edge die (R256). -/
abbrev SrcDie := Fin 21
abbrev CtxId := Fin 8
abbrev QuireId := Fin 4
abbrev PortId := Fin 48
abbrev ChanId := Fin 64
/-- 0 CTL-A, 1 CTL-B. -/
abbrev CtlId := Fin 2
/-- Queue-bearing units of a die in the order of R68: MX0-3, VX0-1, CB, GT, CV, HS, DM0-7. -/
abbrev UnitId := Fin 18

/-- A queue: its die, its context and its queue record, 4 × unit + queue number (R68, R74). -/
structure QueueId where
  die : DieId
  ctx : CtxId
  slot : Fin 72
  deriving DecidableEq, Repr

/-- The two paths to the dictionary (R396): a command of channel 0 by its sequence, or the CAN FD transfer in hand. -/
inductive Access where
  | host (seq : Nat)
  | can
  deriving DecidableEq, Repr

/-- A gated operation: the front descriptor of a queue, or a host command (R49). -/
inductive Gated where
  | queue (q : QueueId)
  | command (c : ChanId) (seq : Nat)
  deriving DecidableEq, Repr

/-- A time symbol (R41), with the neighbour's lock, time epoch, hops to the master, node and schedule identity (R43, R51). -/
structure TimeSymbol where
  depart : Nat
  rxDepart : Nat
  rxArrive : Nat
  locked : Bool
  epoch : Nat
  hops : Nat
  node : Nat
  schedule : Nat
  deriving DecidableEq, Repr

/-- The kinds of gutter action, in the order of priority 1 to 7 (R55). -/
inductive GutterKind where
  | steer | move | slotReturn | withdrawal | retrain | eyeScan | selfTest
  deriving DecidableEq, Repr

/-- What a gutter action claims: a port, a slot of a port, a channel of a stack, a bridge section, an engine (R55). -/
inductive GutterRes where
  | port (p : PortId)
  | slot (p : PortId) (k : Fin 18)
  | channel (d : DieId) (c : Nat)
  | section_ (bridge sec : Nat)
  | engine (d : DieId) (e : Fin 4)
  deriving DecidableEq, Repr

/-- A cell fault that self-test finds in an engine (R126, R128). -/
inductive CellFault where
  | cell (row col : Fin 256)
  | row (r : Fin 256)
  | column (c : Fin 256)
  | checkRow
  | checkColumn
  deriving DecidableEq, Repr

/-- What is measured as the window's actions run: ports whose switch did not settle or whose discovery failed,
the link delay measured on steered ports (ps), cell faults of the slices' engines. -/
structure WindowObs where
  unsettled : List PortId
  delays : List (PortId × Int)
  faults : List (DieId × CellFault)
  /-- spine sections and fabric slots whose eye scan is due -/
  scans : List GutterRes
  /-- slots whose move or withdrawal the far end has not acknowledged before the gutter started (R349, R358) -/
  unacked : List GutterRes := []
  deriving DecidableEq, Repr

/-- The comparison of one physical row or column at drain, of the engine or of a folio's higher engine: its difference and
magnitude sum as FP32 bits, or as exact integers (R123, R124). -/
structure CheckObs where
  higher : Bool
  row : Bool
  index : Fin 256
  diff : Nat
  mag : Nat
  deriving DecidableEq, Repr

/-- A data cell, of the engine or of a folio's higher engine, in which a fault of the hardware changed the accumulator: the value that it
drains. -/
structure CellObs where
  higher : Bool
  row : Fin 256
  column : Fin 256
  value : Nat
  deriving DecidableEq, Repr

/-- The rails' comparison of an output group: agree, disagree once, disagree again after the recompute (R220). -/
inductive RailObs where
  | agree
  | once
  | twice
  deriving DecidableEq, Repr

/-- A queue, and how many element blocks its unit runs now; none for all that are left (R96). -/
structure BlockRun where
  queue : QueueId
  blocks : Option Nat
  deriving DecidableEq, Repr

/-- A queue, and its rails' comparisons of the output groups that a command writes (R220). -/
structure RailRun where
  queue : QueueId
  rails : List RailObs
  deriving DecidableEq, Repr

/-- A context, and the rails' comparisons of the output groups that a command writes (R220). -/
structure RailCtx where
  ctx : CtxId
  rails : List RailObs
  deriving DecidableEq, Repr

/-- How a retrain ended: whether the channel works again, and the lanes found failed, by group and lane (R245, R248). -/
structure RetrainObs where
  restored : Bool
  lanes : List (Nat × Nat)
  deriving DecidableEq, Repr

/-- What a tile's drain finds: the cells that a fault changed; comparisons that differ from zero (rows and columns not listed differ by
0; for integer operands, by what the changed cells make); and the rails' comparison of CB's output groups in order (groups not
listed agree). -/
structure TileObs where
  cells : List CellObs := []
  checks : List CheckObs
  rails : List RailObs
  deriving DecidableEq, Repr

/-- A remote request: the header of R271 and its payload. `size` is the payload size field; for a load, the bytes it
asks for (log 10). `release` is the release FT of a signal, for which the header
shows no field (log 10). -/
structure Request where
  target : Nat
  attemptFt : Nat
  firstFt : Nat
  srcNode : Nat
  srcDie : Nat
  stream : Nat
  srcEpoch : Nat
  op : Nat
  clasp : Bool
  retry : Bool
  fresh : Bool
  wide : Bool
  signed : Bool
  seq : Nat
  floor : Nat
  tag : Nat
  attempt : Nat
  size : Nat
  payload : List Byte
  release : Nat
  crc : Nat
  /-- the reserved bits of the header in order: bytes 0x1A, 0x1F and 0x2B; not used (R12) -/
  reserved : Nat := 0
  deriving DecidableEq, Repr

/-- A source's sequence state is kept per stream and destination key (R277). -/
inductive DestKey where
  | die (node die : Nat)
  | window (node tag : Nat)
  | group (g : Nat)
  deriving DecidableEq, Repr

/-- A reply: the header of R272 and its payload. `key` is the request's destination key, for which the header shows no
field (log 10). -/
structure Reply where
  /-- the partition tag of the request, for the routing word (R298) -/
  tag : Nat
  replyFt : Nat
  node : Nat
  die : Nat
  stream : Nat
  key : DestKey
  seq : Nat
  epoch : Nat
  status : Nat
  hot : Bool
  cached : Bool
  nk : Bool
  payload : List Byte
  crc : Nat
  /-- the reserved bits of the header in order: byte 0x13, bytes 0x16 and 0x17; not used (R12) -/
  reserved : Nat := 0
  deriving DecidableEq, Repr

/-- What travels behind a routing word or over the spine. -/
inductive Body where
  | request (r : Request)
  | reply (r : Reply)
  deriving DecidableEq, Repr

/-- A packet in the spine: the compute die it leaves the grid at and the quire it belongs to (R26, R29). -/
structure SpinePacket where
  dst : DieId
  /-- its virtual channel, true for 1; none where it enters the grid (R26) -/
  vc : Option Bool
  body : Body
  deriving DecidableEq, Repr

/-- A packet on a fabric or service link: the routing word of R298 and what follows. -/
structure FabricPacket where
  dst : Nat
  tag : Nat
  hops : Nat
  vc : Bool
  detour : Bool
  ring : Nat
  wrap : Bool
  body : Body
  deriving DecidableEq, Repr

structure KeyRef where
  stream : Nat
  key : DestKey
  deriving DecidableEq, Repr

/-- A chunk trailer or 64-byte control record (R324). -/
structure Trailer where
  planId : Nat
  inst : Nat
  stage : Nat
  kind : Nat
  sender : Nat
  chunk : Nat
  bytes : Nat
  residue : Nat
  payloadCrc : Nat
  originCrc : Nat
  crc : Nat
  /-- the reserved bytes 0x0A, 0x0B and 0x28 to 0x3B; not used (R12) -/
  reserved : Nat := 0
  deriving DecidableEq, Repr

/-- A chunk as it has arrived in its receive slot: trailer, payload, the rails' comparison of its combination, and those of the output
groups that CB can now write, in order (groups not listed agree, R220). -/
structure ChunkObs where
  trailer : Trailer
  payload : List Byte
  rails : RailObs
  groups : List RailObs := []
  deriving DecidableEq, Repr

/-- A discovery word (R290). -/
structure DiscoveryWord where
  node : Nat
  port : Nat
  exit : Nat
  kind : Nat
  dim : Nat
  shared : Bool
  plan : Nat
  tag : Nat
  deriving DecidableEq, Repr

/-- Why a port goes down (R292, R361, R360, R27). -/
inductive PortDownCause where
  | lockLost | retries | combFailed | slotsBelowEight | spineLost
  deriving DecidableEq, Repr

/-- A received data frame: decodes, passes its CRC, the slot number it carries; uncorrectable codewords in it (R353, R356). -/
structure FrameObs where
  decodes : Bool
  crcOk : Bool
  slot : Nat
  uncorrectable : Bool
  deriving DecidableEq, Repr

/-- A UDP datagram to the module's host port with its transport packet (R372, R373). -/
structure HostPacket where
  srcAddr : Nat
  srcPort : Nat
  dstAddr : Nat
  dstPort : Nat
  udpOk : Bool
  plain : Bool
  version : Nat
  type : Nat
  channel : ChanId
  tagged : Bool
  retrans : Bool
  session : Nat
  seq : Nat
  ack : Nat
  gap : Nat
  senderTime : Nat
  echoTime : Nat
  payload : List Byte
  crc : Nat
  hmac : List Byte
  /-- the reserved bits of the header in order: [7:6] of byte 0x02, [5:0] of byte 0x03, bytes 0x2A and 0x2B; not used (R12) -/
  reserved : Nat := 0
  /-- the IPv6 traffic class (R372) -/
  tclass : Nat := 0
  deriving DecidableEq, Repr

/-- A CAN FD frame with an 11-bit identifier; `fd` is false for a classical frame, which the module ignores (R400). -/
structure CanFrame where
  ident : Nat
  fd : Bool
  data : List Byte
  deriving DecidableEq, Repr

/-- A stitch management record (R466). -/
structure MgmtRecord where
  type : Nat
  tag : Nat
  node : Nat
  seq : Nat
  identity : Nat
  ft : Nat
  count : Nat
  lastCommitted : Nat
  result : Nat
  quireByte : Nat
  mgrEpoch : Nat
  leaseEpoch : Nat
  crc : Nat
  /-- the reserved bytes 0x2C to 0x3B; not used (R12) -/
  reserved : Nat := 0
  deriving DecidableEq, Repr

/-- The vendor part of the configuration record (R31, R418), and the bytes its signature covers. -/
structure VendorPart where
  grade : Nat
  /-- folio index 2 × die + folio, with the reserve mark (R33) -/
  disabled : List (Nat × Bool)
  serial : List Byte
  revision : Nat
  /-- internal transmit and receive path difference per port, ps (R42) -/
  asym : List Int
  /-- minimum power of each comb line, 20 × comb + line, 0.1 dB (R357) -/
  lineMin : List Int
  /-- channels the map removes: 68 × stack + channel; sections: 32 × bridge direction + section -/
  badChannels : List Nat
  badSections : List Nat
  /-- its per-wire map, one 8-byte entry per net that is not good (R510) -/
  map : List Nat
  /-- correction of each temperature sensor, 0.1 °C: die number of R440, site, correction -/
  sensorCal : List (Nat × Nat × Int)
  raw : List Byte
  identityKey : List Byte
  vendorKey : List Byte
  sigR : List Byte
  sigS : List Byte
  deriving DecidableEq, Repr

/-- What the interconnect test's patterns show of a net that is not good (R508, R509): a spine wire by bridge direction, section and
net, or a hybrid bond by stack, channel and bond; whether it reads 0 in the all-1 vector, 1 in the all-0 vector, the net it follows
(in the other direction of the bridge, section or channel, net), and whether it passes at the middle three and at the outer margin
points. -/
structure NetObs where
  bond : Bool
  unit : Nat
  middle : Nat
  net : Nat
  low : Bool
  high : Bool
  partner : Option (Bool × Nat × Nat)
  middlePass : Bool
  outerPass : Bool
  deriving DecidableEq, Repr

/-- What the boot step's own tests found (R410, R411, R417 to R420, R227, R24). -/
structure BootObs where
  failedDies : List DieId
  failedEngines : List (DieId × Fin 4 × CellFault)
  failedChannels : List (DieId × Nat)
  /-- stack, channel, lane 37 × group + i (R508) -/
  failedLanes : List (DieId × Nat × Nat)
  /-- bridge direction, section, wire w, 272 and 273 the clock wires (R508, R511) -/
  failedWires : List (Nat × Nat × Nat)
  /-- nets of the interconnect test, in an extended boot -/
  nets : List NetObs
  ctlFailed : List CtlId
  pufFailed : List CtlId
  fieldOk : Bool
  storeKeysOk : Bool
  deriving DecidableEq, Repr

/-- Where a lease renewal arrives (R474). -/
inductive LeaseParty where
  | die (d : DieId)
  | ctl (c : CtlId)
  deriving DecidableEq, Repr

/-- A power sample: 10 mV, 10 mA, watts, 10 ms average watts, and the clock that meets the limit (R430). -/
structure PowerObs where
  volts : Nat
  amps : Nat
  watts : Nat
  average : Nat
  deriving DecidableEq, Repr

/-- A die's sensors: die number (0-19 compute, 20-21 control, 22-29 optical edge, 30 host edge), readings in 0.1 °C after calibration
(R31) in site order with the median of each site's four nearest neighbours (R440). -/
structure SensorObs where
  die : Nat
  readings : List (Int × Int)
  deriving DecidableEq, Repr

/-- Symbol errors of a codeword read: how many, and the corrected bytes (R225). -/
inductive EccObs where
  | clean
  | corrected
  | uncorrectable
  deriving DecidableEq, Repr

/-- A die's copy of its state block and granules as restored for a rollback (R470). -/
structure RestoreObs where
  die : DieId
  /-- granule, slot read, its bytes -/
  granules : List (Nat × Nat × List Byte)
  deriving DecidableEq, Repr

/-- Measures of the health components: slack, spine eye, DRAM eye (tenths of a percent), line margin (0.1 dB),
log10 of the corrected rate (thousandths) (R484). -/
structure HealthObs where
  slack : Nat
  spine : Nat
  dram : Nat
  logRate : Nat
  deriving DecidableEq, Repr

/-- An occupancy measured by a sample: die, histogram number in the record's order, numerator and denominator; 111 to 114 are the
feeder stall cycles of MX0 to MX3 since the last sample (R492). -/
structure OccObs where
  die : DieId
  hist : Nat
  num : Nat
  den : Nat
  deriving DecidableEq, Repr

/-- What a ribbon's trigger matches on (R497). -/
inductive Trigger where
  | event (code unit : Nat)
  | halt (status : Nat)
  | tagStart (tag : Nat)
  | instant
  | flag (n s : Bool)
  | once
  deriving DecidableEq, Repr

/-- What asks for a post-mortem image: the command, or a fatal event (R501). -/
inductive PmCause where
  | command (seq : Nat)
  | fatal (code : Nat)
  deriving DecidableEq, Repr

/-- Levels at the contacts of the boundary register, and a value shifted in (R504). -/
structure TapPins where
  levels : Nat
  shiftIn : Nat
  deriving DecidableEq, Repr

/-- TEST_UNLOCK captures a challenge, or updates with 512 bits (R506). -/
inductive UnlockPhase where
  | capture
  | update (sigR sigS : List Byte)
  deriving DecidableEq, Repr

/-- An ICMPv6 packet: type 128 echo request, 135 neighbour solicitation (R372). -/
structure Icmp where
  type : Nat
  srcAddr : Nat
  dstAddr : Nat
  target : Nat
  plain : Bool
  data : List Byte
  deriving DecidableEq, Repr

/-- A member's report to its manager (R309). -/
inductive MemberReport where
  | congestion (record : List Byte)
  | discovery (port outcome : Nat)
  | frozen (held stopFt : Nat)
  | event (record : List Byte)
  deriving DecidableEq, Repr

/-- The commands, in the order of spec/opcode_table.json. -/
inductive Instr where
  /-- FT_ALIGNMENT_SYMBOL (R38). -/
  | ftAlignmentSymbol
  /-- FIRST_LOCK (R40). -/
  | firstLock
  /-- TIME_SYMBOL_SEND (R41). -/
  | timeSymbolSend (p : PortId)
  /-- TIME_SYMBOL_RECEIVE (R41). -/
  | timeSymbolReceive (p : PortId) (sym : TimeSymbol)
  /-- DEGRADED_HOLDOVER_ENTRY (R45). -/
  | degradedHoldoverEntry
  /-- MASTER_LOSS_TIMEOUT (R47). -/
  | masterLossTimeout
  /-- FT_STEP (R46). -/
  | ftStep (seq : Nat)
  /-- GATE_FT_REACHED (R49). -/
  | gateFtReached (g : Gated)
  /-- GUTTER_EFFECTIVE_FT_WRITE (R51). -/
  | gutterEffectiveFtWrite (a : Access)
  /-- GUTTER_SCHEDULE_TAKES_EFFECT (R51). -/
  | gutterScheduleTakesEffect
  /-- ONE_OFF_GUTTER (R58). -/
  | oneOffGutter (t : Nat) (ports : Nat)
  /-- GUTTER_START (R54). -/
  | gutterStart
  /-- ACTION_WINDOW_OPEN (R55). -/
  | actionWindowOpen (obs : WindowObs)
  /-- ACTION_WINDOW_CLOSE (R54). -/
  | actionWindowClose (running : List GutterRes)
  /-- GUTTER_END (R54). -/
  | gutterEnd
  /-- STITCH (R87). -/
  | stitch (q : QueueId)
  /-- STITCH_REACHED (R59). -/
  | stitchReached (k : QuireId)
  /-- STITCH_HOLD_TIMEOUT (R60). -/
  | stitchHoldTimeout (k : QuireId)
  /-- STITCH_RELEASE (R87). -/
  | stitchRelease (k : QuireId) (identity ft : Nat)
  /-- FREEZE (R61). -/
  | freeze (seq : Nat)
  /-- FREEZE_INSTANT (R62). -/
  | freezeInstant
  /-- ENGINE_STOP_AT_BOUNDARY (R62). -/
  | engineStopAtBoundary (d : DieId) (u : UnitId)
  /-- MODULE_FROZEN (R64). -/
  | moduleFrozen
  /-- FREEZE_SETTLE_TIMEOUT (R64). -/
  | freezeSettleTimeout
  /-- THAW (R65). -/
  | thaw (seq : Nat)
  /-- THAW_INSTANT (R65). -/
  | thawInstant
  /-- SPINE_HOP (R26). -/
  | spineHop (d : DieId) (pkt : SpinePacket)
  /-- QUIRE_ASSIGNMENT_WRITE (R37). -/
  | quireAssignmentWrite (a : Access)
  /-- QUIRE_ZEROING_COMPLETE (R37). -/
  | quireZeroingComplete
  /-- FOLIO_JOIN_WRITE (R109). -/
  | folioJoinWrite (a : Access)
  /-- SEED_WRITE (R176). -/
  | seedWrite (a : Access)
  /-- REGION_SIZE_WRITE (R232). -/
  | regionSizeWrite (a : Access)
  /-- SPREAD_SHARE_WRITE (R234). -/
  | spreadShareWrite (a : Access)
  /-- FLAG_WORD_READ (R156). -/
  | flagWordRead (a : Access)
  /-- EVENT_LOG_READ (R456). -/
  | eventLogRead (a : Access)
  /-- SAVE_SETTINGS (R397). -/
  | saveSettings (a : Access)
  /-- ERASE_SETTINGS (R397). -/
  | eraseSettings (a : Access)
  /-- SETTINGS_SAVE_COMPLETE (R397). -/
  | settingsSaveComplete
  /-- DICT_WRITE (R394). -/
  | dictWrite (a : Access)
  /-- DICT_READ (R406). -/
  | dictRead (a : Access)
  /-- NOP (R79). -/
  | nop (q : QueueId)
  /-- WAIT (R79). -/
  | wait (q : QueueId)
  /-- SIGNAL (R86). -/
  | signal (q : QueueId)
  /-- HELD_RELEASE_APPLY (R85). -/
  | heldReleaseApply (d : DieId)
  /-- COND (R89). -/
  | cond (q : QueueId)
  /-- RETURN (R92). -/
  | ret (q : QueueId)
  /-- DESCRIPTOR_COMPLETE (R80). -/
  | descriptorComplete (q : QueueId)
  /-- LOAD (R77). -/
  | load (c : ChanId) (seq : Nat)
  /-- START (R77). -/
  | start (c : ChanId) (seq : Nat)
  /-- STOP (R95). -/
  | stop (c : ChanId) (seq : Nat)
  /-- UNLOAD (R77). -/
  | unload (c : ChanId) (seq : Nat)
  /-- CLEAR (R77). -/
  | clear (c : ChanId) (seq : Nat)
  /-- PREEMPTION (R95). -/
  | preemption (d : DieId) (u : UnitId) (x : CtxId)
  /-- ENGINE_SAVE_COMPLETE (R96). -/
  | engineSaveComplete (d : DieId) (u : UnitId) (memError : Bool)
  /-- ENGINE_RESTORE_COMPLETE (R96). -/
  | engineRestoreComplete (d : DieId) (u : UnitId) (memError : Bool)
  /-- MMA (R119). -/
  | mma (q : QueueId)
  /-- TILE_DRAIN (R113). -/
  | tileDrain (d : DieId) (e : Fin 4) (obs : TileObs)
  /-- MXTEST (R128). -/
  | mxtest (q : QueueId) (found : List (Bool × CellFault))
  /-- MATRIX_SPARE_TIP_IN (R126). -/
  | matrixSpareTipIn (d : DieId) (e : Fin 4)
  /-- VPROG (R200); the element blocks that it runs now, none for all that are left (R96). -/
  | vprog (q : BlockRun)
  /-- GATHER (R209); the element blocks that it runs now, none for all that are left (R96). -/
  | gather (q : BlockRun)
  /-- ROUTE_COUNT (R212). -/
  | routeCount (q : QueueId)
  /-- DISPATCH (R212). -/
  | dispatch (q : QueueId)
  /-- SET_SIZE (R213). -/
  | setSize (q : QueueId)
  /-- GT_COMBINE (R214). -/
  | gtCombine (q : QueueId) (rails : List RailObs)
  /-- CONVERT (R215); the element blocks that it runs now, none for all that are left (R96). -/
  | convert (q : BlockRun)
  /-- CB_COMBINE (R219); the blocks of 64 output groups that it writes now, none for all that are left (R221). -/
  | cbCombine (q : BlockRun) (rails : List RailObs)
  /-- COPY (R262). -/
  | copy (q : QueueId)
  /-- ATOMIC (R263). -/
  | atomic (q : QueueId)
  /-- REDUCE (R264). -/
  | reduce (q : QueueId) (rails : List RailObs)
  /-- HASH_LEAVES (R179). -/
  | hashLeaves (q : QueueId)
  /-- HASH_ROOT (R180). -/
  | hashRoot (q : QueueId)
  /-- COLOPHON_OPEN (R181). -/
  | colophonOpen (q : QueueId)
  /-- COLOPHON_SEAL (R182). -/
  | colophonSeal (q : QueueId)
  /-- SIGNATURE_COMPLETE (R182). -/
  | signatureComplete
  /-- ALL_REDUCE (R315). -/
  | allReduce (q : RailRun)
  /-- REDUCE_SCATTER (R315). -/
  | reduceScatter (q : RailRun)
  /-- ALL_GATHER (R315). -/
  | allGather (q : QueueId)
  /-- BROADCAST (R315). -/
  | broadcast (q : QueueId)
  /-- ALL_TO_ALL (R315). -/
  | allToAll (q : QueueId)
  /-- BARRIER (R320). -/
  | barrier (q : QueueId)
  /-- STREAM_OPEN (R331). -/
  | streamOpen (q : QueueId)
  /-- CHUNK_SEND (R324). -/
  | chunkSend (d : DieId) (x : CtxId) (dst : Nat)
  /-- STREAM_CHUNK_RELEASE (R332). -/
  | streamChunkRelease (d : DieId) (x : RailCtx)
  /-- CHUNK_ARRIVAL (R329). -/
  | chunkArrival (d : DieId) (x : CtxId) (k : ChunkObs)
  /-- GRANT_ARRIVAL (R325). -/
  | grantArrival (d : DieId) (x : CtxId) (t : Trailer)
  /-- ACKNOWLEDGEMENT_ARRIVAL (R326). -/
  | acknowledgementArrival (d : DieId) (x : CtxId) (t : Trailer)
  /-- RETRANSMIT_REQUEST_ARRIVAL (R330). -/
  | retransmitRequestArrival (d : DieId) (x : CtxId) (t : Trailer)
  /-- ABORT_NOTICE_ARRIVAL (R338). -/
  | abortNoticeArrival (d : DieId) (x : CtxId) (t : Trailer)
  /-- BARRIER_TOKEN_ARRIVAL (R320). -/
  | barrierTokenArrival (d : DieId) (x : CtxId) (t : Trailer)
  /-- PARTNER_PROGRESS_TIMEOUT (R336). -/
  | partnerProgressTimeout (d : DieId) (x : CtxId) (rank : Nat)
  /-- REQUEST_INJECT (R273). -/
  | requestInject (d : SrcDie) (id : Nat)
  /-- CLASP_SEND (R269). -/
  | claspSend (d : SrcDie) (id : Nat)
  /-- REMOTE_REQUEST_ARRIVAL (R276). -/
  | remoteRequestArrival (d : DieId) (r : Request)
  /-- LANE_APPLY (R275). -/
  | laneApply (d : DieId) (lane : Fin 32) (rails : RailObs)
  /-- CLASP_APPLY (R269). -/
  | claspApply (d : DieId) (id : Nat)
  /-- REMOTE_REPLY_ARRIVAL (R281). -/
  | remoteReplyArrival (d : SrcDie) (r : Reply)
  /-- RETRY_TIMEOUT (R281). -/
  | retryTimeout (d : SrcDie) (id : Nat)
  /-- NK_BACKOFF_EXPIRY (R281). -/
  | nkBackoffExpiry (d : SrcDie) (id : Nat)
  /-- HOT_HOLD_EXPIRY (R274). -/
  | hotHoldExpiry (d : SrcDie) (key : KeyRef)
  /-- SETTLE_SEND (R279). -/
  | settleSend (d : SrcDie) (key : KeyRef)
  /-- SEQUENCE_STATE_DISCARD (R279). -/
  | sequenceStateDiscard (d : SrcDie) (key : KeyRef)
  /-- RECORD_RECLAIM (R279). -/
  | recordReclaim (d : DieId) (rec : Nat)
  /-- DISCOVERY_WORD_SEND (R290). -/
  | discoveryWordSend (p : PortId)
  /-- DISCOVERY_WORD_RECEIVE (R291). -/
  | discoveryWordReceive (p : PortId) (w : DiscoveryWord)
  /-- PORT_TRAINED (R292). -/
  | portTrained (p : PortId)
  /-- PORT_TRAINING_TIMEOUT (R291). -/
  | portTrainingTimeout (p : PortId)
  /-- PORT_TRAINING_RETRY (R292). -/
  | portTrainingRetry (p : PortId)
  /-- PORT_DOWN (R306). -/
  | portDown (p : PortId) (why : PortDownCause)
  /-- PLAN_EFFECTIVE_FT_WRITE (R288). -/
  | planEffectiveFtWrite (a : Access)
  /-- PLAN_COMMIT (R288). -/
  | planCommit
  /-- FABRIC_PACKET_ROUTE (R299). -/
  | fabricPacketRoute (arrival : Option PortId) (pkt : FabricPacket)
  /-- DIMENSION_STATE_WORD_SEND (R301). -/
  | dimensionStateWordSend
  /-- DIMENSION_STATE_WORD_RECEIVE (R301). -/
  | dimensionStateWordReceive (p : PortId) (dim mask : Nat)
  /-- RING_LINK_MAP_RECEIVE (R301). -/
  | ringLinkMapReceive (p : PortId) (origin map : Nat)
  /-- CONGESTION_SAMPLE (R308). -/
  | congestionSample
  /-- CONGESTION_RECORD_CLOSE (R308). -/
  | congestionRecordClose
  /-- MANAGER_HEARTBEAT (R310). -/
  | managerHeartbeat (heard : Option (Nat × Nat))
  /-- MANAGER_LOSS_TIMEOUT (R310). -/
  | managerLossTimeout
  /-- HEATER_UPDATE (R347). -/
  | heaterUpdate (p : PortId) (ring : Fin 36) (reading : Int)
  /-- CALIBRATION_OFFSET_SAVE (R347). -/
  | calibrationOffsetSave
  /-- CALIBRATION_REQUEST (R349). -/
  | calibrationRequest (p : PortId)
  /-- CALIBRATION_SWEEP_COMPLETE (R349). -/
  | calibrationSweepComplete (p : PortId) (slot : Fin 18) (offsets : List Int) (markersOk farOk : Bool)
  /-- CALIBRATION_STALE (R351). -/
  | calibrationStale (p : PortId) (slot : Fin 18)
  /-- IDENTITY_MARKER_RECEIVE (R353). -/
  | identityMarkerReceive (p : PortId) (slot : Fin 18) (marker : Word)
  /-- DATA_FRAME_RECEIVE (R353). -/
  | dataFrameReceive (p : PortId) (slot : Fin 18) (f : FrameObs)
  /-- RETIREMENT_REPORT_RECEIVE (R354). -/
  | retirementReportReceive (p : PortId) (slot : Fin 18)
  /-- SLOT_LOSS_OF_SIGNAL (R356). -/
  | slotLossOfSignal (p : PortId) (slot : Fin 18)
  /-- GUIDED_SWEEP_COMPLETE (R355). -/
  | guidedSweepComplete (p : PortId) (slot : Fin 18) (locked : Bool) (offsets : List Int)
  /-- LINE_MARGIN_AVERAGE (R357). -/
  | lineMarginAverage (comb : Fin 16) (line : Fin 20) (power : Int)
  /-- MOVE_REQUEST (R358). -/
  | moveRequest (p : PortId) (fromSlot toSlot : Fin 18) (gutter : Nat)
  /-- FIBRE_LOSS_OF_LIGHT (R363). -/
  | fibreLossOfLight (p : PortId)
  /-- PROBE_START (R364). -/
  | probeStart (p : PortId) (neighbourProbe : Bool)
  /-- PROBE_ANSWERED (R364). -/
  | probeAnswered (p : PortId)
  /-- OUTPUT_POWER_TRIP (R365). -/
  | outputPowerTrip (p : PortId)
  /-- HOST_LINK_UP (R370). -/
  | hostLinkUp
  /-- HOST_LINK_DOWN (R370). -/
  | hostLinkDown
  /-- COMMAND_PACKET (R377). -/
  | commandPacket (k : HostPacket)
  /-- BULK_PACKET (R382). -/
  | bulkPacket (k : HostPacket)
  /-- ACK_PACKET (R378). -/
  | ackPacket (k : HostPacket)
  /-- ACK_DELAY_EXPIRY (R378). -/
  | ackDelayExpiry (c : ChanId)
  /-- HOST_RETRANSMIT_TIMEOUT (R378). -/
  | hostRetransmitTimeout (c : ChanId) (seq : Nat)
  /-- OPEN (R376). -/
  | openChan (k : HostPacket)
  /-- CLOSE (R375). -/
  | closeChan (k : HostPacket)
  /-- RESYNC (R386). -/
  | resync (k : HostPacket)
  /-- PUSH (R382). -/
  | push (c : ChanId) (seq : Nat)
  /-- PULL (R382). -/
  | pull (c : ChanId) (seq : Nat)
  /-- HOST_SIGNAL (R381). -/
  | hostSignal (c : ChanId) (seq : Nat)
  /-- HOST_COMMAND_COMPLETE (R383). -/
  | hostCommandComplete (c : ChanId) (seq : Nat)
  /-- CAN_WRITE_INITIATE (R402). -/
  | canWriteInitiate (f : CanFrame)
  /-- CAN_READ_INITIATE (R402). -/
  | canReadInitiate (f : CanFrame)
  /-- CAN_SEGMENT (R403). -/
  | canSegment (f : CanFrame)
  /-- CAN_SEGMENT_ACCEPTED (R403). -/
  | canSegmentAccepted (f : CanFrame)
  /-- CAN_TRANSFER_TIMEOUT (R403). -/
  | canTransferTimeout
  /-- CAN_HEARTBEAT (R405). -/
  | canHeartbeat
  /-- INPUT_POWER_APPLIED (R401). -/
  | inputPowerApplied (straps : Fin 64)
  /-- WAKE_PIN (R439). -/
  | wakePin
  /-- CAN_WAKE_FRAME (R439). -/
  | canWakeFrame (f : CanFrame)
  /-- WAKE_CONDITIONS_MET (R446). -/
  | wakeConditionsMet (input bank : Nat)
  /-- BOOT_STEP_COMPLETE (R410). -/
  | bootStepComplete (obs : BootObs)
  /-- BOOT_STEP_LIMIT (R410). -/
  | bootStepLimit (unfinished : List Nat)
  /-- CTL_B_BOOT_CLAIM (R414). -/
  | ctlBBootClaim
  /-- LEASE_RENEWAL (R474). -/
  | leaseRenewal
  /-- LEASE_RENEWAL_RECEIVE (R474). -/
  | leaseRenewalReceive (at_ : LeaseParty) (epoch : Nat) (holder : CtlId)
  /-- LEASE_EXPIRY (R474). -/
  | leaseExpiry (d : DieId)
  /-- LEASE_CLAIM_REQUEST (R475). -/
  | leaseClaimRequest (who : CtlId)
  /-- LEASE_CONFIRM_RECEIVE (R475). -/
  | leaseConfirmReceive (r : MgmtRecord)
  /-- LEASE_ANSWER_RECEIVE (R475). -/
  | leaseAnswerReceive (confirmed viaCan : Bool) (epoch : Nat)
  /-- LEASE_CONFIRM_TIMEOUT (R475). -/
  | leaseConfirmTimeout
  /-- LEASE_CLAIM_RECEIVE (R476). -/
  | leaseClaimReceive (d : DieId) (who : CtlId) (epoch : Nat)
  /-- FW_WRITE (R424). -/
  | fwWrite (seq : Nat)
  /-- FW_COMMIT (R424). -/
  | fwCommit (seq : Nat)
  /-- FW_COMMIT_COPY_COMPLETE (R424). -/
  | fwCommitCopyComplete
  /-- ATTEST (R422). -/
  | attest (seq : Nat)
  /-- RESTART (R426). -/
  | restart (seq : Nat)
  /-- CONFIG_WRITE (R425). -/
  | configWrite (seq : Nat) (part : Option VendorPart)
  /-- POWER_SAMPLE (R430). -/
  | powerSample (m : PowerObs)
  /-- INPUT_OVERVOLTAGE (R431). -/
  | inputOvervoltage (millivolts : Nat)
  /-- OVERCURRENT_TRIP (R432). -/
  | overcurrentTrip
  /-- SAG (R444). -/
  | sag (millivolts : Nat)
  /-- ENDPAPER_WRITE_COMPLETE (R447). -/
  | endpaperWriteComplete
  /-- POWER_STATE_ENTRY (R434). -/
  | powerStateEntry (seq : Nat)
  /-- POWER_STATE_EXIT (R438). -/
  | powerStateExit (seq : Nat)
  /-- POWER_STATE_REACHED (R434). -/
  | powerStateReached
  /-- DIE_SENSOR_READING (R440). -/
  | dieSensorReading (m : List SensorObs)
  /-- THERMAL_LIMIT_STEP (R441). -/
  | thermalLimitStep
  /-- THERMAL_LIMIT_RESTORE (R441). -/
  | thermalLimitRestore
  /-- STACK_TEMPERATURE_READING (R240). -/
  | stackTemperatureReading (d : DieId) (tenths : Int)
  /-- UNSCHEDULED_RETRAIN (R246). -/
  | unscheduledRetrain (d : DieId) (chan drift corrected : Nat)
  /-- RETRAIN_COMPLETE (R245, R247): the lanes found failed, by lane group and lane of the channel. -/
  | retrainComplete (d : DieId) (restored : RetrainObs)
  /-- ECC_WRITE_BACK (R225). -/
  | eccWriteBack (d : DieId)
  /-- SCRUB_READ (R250). -/
  | scrubRead (d : DieId) (cw : Nat) (found : EccObs)
  /-- PRE_COPY_GRANULE (R463). -/
  | preCopyGranule (d : DieId)
  /-- REACHED_RECEIVE (R467). -/
  | reachedReceive (r : MgmtRecord)
  /-- PREPARE_RECEIVE (R467). -/
  | prepareReceive (r : MgmtRecord)
  /-- STITCH_COPY_COMPLETE (R467). -/
  | stitchCopyComplete (k : QuireId)
  /-- VOTE_RECEIVE (R467). -/
  | voteReceive (r : MgmtRecord)
  /-- DECIDE_RECEIVE (R467). -/
  | decideReceive (r : MgmtRecord)
  /-- INVALID_RECEIVE (R470). -/
  | invalidReceive (r : MgmtRecord)
  /-- ROLLBACK_RECEIVE (R470). -/
  | rollbackReceive (r : MgmtRecord)
  /-- ROLLBACK_RESTORE_COMPLETE (R470). -/
  | rollbackRestoreComplete (k : QuireId) (images : List RestoreObs)
  /-- RESTORED_RECEIVE (R470). -/
  | restoredReceive (r : MgmtRecord)
  /-- DIE_RESET (R472). -/
  | dieReset (d : DieId) (cause : Nat)
  /-- DIE_WATCHDOG_EXPIRY (R472). -/
  | dieWatchdogExpiry (d : DieId)
  /-- DIE_REJOIN (R472). -/
  | dieRejoin (d : DieId)
  /-- CLOCK_GENERATOR_FAILURE (R473). -/
  | clockGeneratorFailure
  /-- SWITCHOVER_PAUSE_END (R473). -/
  | switchoverPauseEnd (ftError : Int)
  /-- FIRMWARE_WARM_RESTART (R477). -/
  | firmwareWarmRestart (cause : Nat)
  /-- CONTROL_WATCHDOG_EXPIRY (R477). -/
  | controlWatchdogExpiry (who : CtlId)
  /-- WARM_RESTART_THAW (R477). -/
  | warmRestartThaw
  /-- RESERVE_FOLIO_TIP_IN (R480). -/
  | reserveFolioTipIn
  /-- HEALTH_SCORE_COMPUTE (R484). -/
  | healthScoreCompute (m : HealthObs)
  /-- RETIRE_DWELL_EXPIRY (R485). -/
  | retireDwellExpiry
  /-- RETIRE_SUGGESTION_RECEIVE (R486). -/
  | retireSuggestionReceive (node score : Nat)
  /-- OCCUPANCY_SAMPLE (R492). -/
  | occupancySample (m : List OccObs)
  /-- OCCUPANCY_WINDOW_CLOSE (R492). -/
  | occupancyWindowClose
  /-- OBS_SET (R490). -/
  | obsSet (seq : Nat)
  /-- TRACE_TIME_RECORD (R493). -/
  | traceTimeRecord (d : DieId)
  /-- TRACE_DRAIN (R494). -/
  | traceDrain (d : DieId)
  /-- TRACE_GROUP_TIMEOUT (R494). -/
  | traceGroupTimeout (d : DieId)
  /-- RIBBON_ARM (R497). -/
  | ribbonArm (seq : Nat)
  /-- RIBBON_CLEAR (R497). -/
  | ribbonClear (seq : Nat)
  /-- RIBBON_FIRE (R497). -/
  | ribbonFire (d : DieId) (r : Fin 4) (t : Trigger)
  /-- RIBBON_SPREAD_ARRIVAL (R497). -/
  | ribbonSpreadArrival (d : DieId) (r : Fin 4)
  /-- TRACE_FREEZE (R498). -/
  | traceFreeze (d : DieId)
  /-- DUMP_SELECT (R499). -/
  | dumpSelect (seq : Nat)
  /-- TENSOR_DUMP (R500). -/
  | tensorDump (q : QueueId) (entry : Fin 16)
  /-- OBS_READ (R490). -/
  | obsRead (seq : Nat)
  /-- POST_MORTEM (R501). -/
  | postMortem (by_ : PmCause)
  /-- TAP_RESET (R504). -/
  | tapReset
  /-- EXTEST (R504). -/
  | extest (pins : TapPins)
  /-- SAMPLE_PRELOAD (R504). -/
  | samplePreload (pins : TapPins)
  /-- IDCODE (R504). -/
  | idcode
  /-- CLAMP (R504). -/
  | clamp
  /-- HIGHZ (R504). -/
  | highz
  /-- BYPASS (R504). -/
  | bypass (opcode tdi : Nat)
  /-- DIE_SELECT (R505). -/
  | dieSelect (mask : Word)
  /-- DIE_ACCESS (R505). -/
  | dieAccess (held : List Nat)
  /-- TEST_UNLOCK (R506). -/
  | testUnlock (phase : UnlockPhase)
  /-- STANDBY_GENERATOR_FAILURE (R473). -/
  | standbyGeneratorFailure
  /-- CONTROL_DIE_FAILURE (R30). -/
  | controlDieFailure (who : CtlId)
  /-- INPUT_POWER_REMOVED (R432). -/
  | inputPowerRemoved (millis : Nat)
  /-- ICMPV6_REQUEST (R372). -/
  | icmpv6Request (m : Icmp)
  /-- MEMBER_REPORT_RECEIVE (R309). -/
  | memberReportReceive (node : Nat) (m : MemberReport)
  /-- SUGGESTION_HOUR_END (R486). -/
  | suggestionHourEnd
  /-- WATCH_RECORD_RECEIVE (R486). -/
  | watchRecordReceive
  /-- SPARE_SLOT_CALIBRATION (R349). -/
  | spareSlotCalibration (p : PortId) (slot : Fin 18) (offsets : List Int)
  /-- POST_MORTEM_IMAGE_WRITTEN (R501). -/
  | postMortemImageWritten
  deriving DecidableEq, Repr

end Sys2Proof
end

