-- ==== Sys2Proof/Config.lean ====
section
/-! DEFINITION. What an implementation fixes and the values the manual leaves open. Each constant without a body is a
free value: nothing in Lean can evaluate it, so a statement about it holds whatever it is. -/

namespace Sys2Proof.Config

/-- The fresh values the manual leaves open (random sessions, first sequences, epochs, challenges, signatures,
orders in relaxed mode, FT agreement within 1 ns). Read at a counter of State, which each use advances (log 4). -/
opaque freeValue : Nat → BitVec 64

/-- The lane a line address hashes to (R275: 'a hash of the line address', not stated which). -/
opaque laneHash : Nat → Nat

/-- The SM3 digest of the vendor public key in the ROM mask (R417 check 3). -/
opaque romKeyDigest : BitVec 256

/-- The SM3 digest of the ROM mask of each control die (R422). -/
opaque romDigest : Nat → BitVec 256

/-- The SM2 distinguishing identifier of a test unlock (R506: none is stated). -/
opaque unlockId : List Byte

/-- The private part of the identity key whose public part is given (R420: it never leaves the security block). -/
opaque identityPrivate : List Byte → Nat

/-- The die calibration table code of a ring at a half-degree bin (R347: manufacture writes the tables). -/
opaque heaterTable : Nat → Nat → Nat

/-- The nodes of the modules of a partition (R295: a partition is the modules whose quires carry one tag; the module keeps no list
of them): it has a first member, and the others. -/
opaque partitionFirst : Nat → Nat
opaque partitionRest : Nat → List Nat

def partition (tag : Nat) : List Nat := partitionFirst tag :: partitionRest tag

/-- The managers of the other domains that a partition spans, none where it lies in one domain (R466). -/
opaque foreignManagers : Nat → List Nat

/-- The modules of a domain by its identity, and the discovery outcome that the domain plan asks of a member's port (R309, R310:
a manager knows its domain's plan, of which the manual states no object). -/
opaque domainMembers : Nat → List Nat
opaque domainOutcome : Nat → Nat → Nat

/-- Single- and multiple-symbol upsets that strike in a nanosecond of elapsed time: die, SRAM or DRAM, word or codeword, whether it is
uncorrectable (R225, R252: when and where is not the manual's). -/
opaque upsets : Nat → List (Nat × Bool × Nat × Bool)

/-- The SM3 digest of the image that stands in flash at the first boot (R416: the manual names no image). -/
opaque imageDigest : BitVec 256

/-- The bytes of the configuration record's field part by its channels, lanes, assignments and map (R419: the layout
is not stated). -/
opaque fieldBytes (channels : List (Nat × Nat)) (lanes assigned : List (Nat × Nat × Nat)) (map : List Nat) : List Byte

/-- The bytes of the settings store's copy for its contents (R421: encrypted, layout not stated). -/
opaque storeBytes (vals : List (Nat × Nat)) : List Byte

/-- The 32-byte header of a congestion record for its node, window FT and plan identity (R308: the order and the sizes of the three
fields are not stated). -/
opaque congHeader (node ft plan : Nat) : BitVec 256

/-- The result of FP32 rounding in an order the manual leaves to arrival: picks an index below a count (R174, R219). -/
def pick (n count : Nat) : Nat := (freeValue n).toNat % (if count = 0 then 1 else count)

end Sys2Proof.Config
end

