-- ==== Sys2Proof/Machine/Digest.lean ====
section
/-! DEFINITION. The digests, codes and signatures the spec cites by standard: CRC-32C, CRC-8, SM3, HMAC-SM3 and SM2
verification. The standards' own text is outside the spec: PRESUMED (log 9). -/

namespace Sys2Proof.Machine

/-- One bit of a reflected CRC-32C step (polynomial 0x1EDC6F41, reflected 0x82F63B78). -/
def crcBit (c : Nat) : Nat := if c % 2 = 1 then (c / 2) ^^^ 0x82F63B78 else c / 2

def crcByte (c : Nat) (b : Byte) : Nat :=
  crcBit (crcBit (crcBit (crcBit (crcBit (crcBit (crcBit (crcBit (c ^^^ b.toNat))))))))

/-- CRC-32C over bytes in address order. -/
def crc32c (bs : List Byte) : Nat := bs.foldl crcByte 0xFFFFFFFF ^^^ 0xFFFFFFFF

def crc8Bit (c : Nat) : Nat := if c ≥ 128 then ((c * 2) ^^^ 0x107) % 256 else c * 2

/-- CRC-8 of the identity marker: polynomial 0x07, initial 0, no reflection, no final XOR (R352). -/
def crc8 (bs : List Byte) : Nat :=
  bs.foldl (fun c b => crc8Bit (crc8Bit (crc8Bit (crc8Bit (crc8Bit (crc8Bit (crc8Bit (crc8Bit (c ^^^ b.toNat))))))))) 0

/-! ### SM3 (GB/T 32905-2016) -/

abbrev W32 := BitVec 32

def beWord (bs : List Byte) : W32 := BitVec.ofNat 32 (bs.foldl (fun a b => a * 256 + b.toNat) 0)

def beBytes32 (w : W32) : List Byte :=
  [BitVec.ofNat 8 (w.toNat / 16777216), BitVec.ofNat 8 (w.toNat / 65536), BitVec.ofNat 8 (w.toNat / 256), BitVec.ofNat 8 w.toNat]

/-- Big-endian bytes of a number, n of them. -/
def beBytes (n w : Nat) : List Byte := (leBytes n w).reverse

def beNat (bs : List Byte) : Nat := bs.foldl (fun a b => a * 256 + b.toNat) 0

def sm3Pad (bs : List Byte) : List Byte :=
  let l := bs.length
  bs ++ [0x80#8] ++ List.replicate ((119 - l % 64) % 64) 0#8 ++ beBytes 8 (8 * l)

def p0 (x : W32) : W32 := x ^^^ x.rotateLeft 9 ^^^ x.rotateLeft 17
def p1 (x : W32) : W32 := x ^^^ x.rotateLeft 15 ^^^ x.rotateLeft 23

/-- Message expansion, newest word first. -/
def sm3Expand : Nat → List W32 → List W32
  | 0, ws => ws
  | n + 1, ws =>
    let w := p1 (ws.getD 15 0 ^^^ ws.getD 8 0 ^^^ (ws.getD 2 0).rotateLeft 15) ^^^ (ws.getD 12 0).rotateLeft 7 ^^^ ws.getD 5 0
    sm3Expand n (w :: ws)

structure Sm3 where
  a : W32
  b : W32
  c : W32
  d : W32
  e : W32
  f : W32
  g : W32
  h : W32
  deriving DecidableEq, Repr

def sm3Round (v : Sm3) (j : Nat) (w w' : W32) : Sm3 :=
  let t : W32 := if j < 16 then 0x79CC4519#32 else 0x7A879D8A#32
  let a12 := v.a.rotateLeft 12
  let ss1 := (a12 + v.e + t.rotateLeft (j % 32)).rotateLeft 7
  let ss2 := ss1 ^^^ a12
  let ff := if j < 16 then v.a ^^^ v.b ^^^ v.c else (v.a &&& v.b) ||| (v.a &&& v.c) ||| (v.b &&& v.c)
  let gg := if j < 16 then v.e ^^^ v.f ^^^ v.g else (v.e &&& v.f) ||| (~~~v.e &&& v.g)
  let tt1 := ff + v.d + ss2 + (w ^^^ w')
  let tt2 := gg + v.h + ss1 + w
  ⟨tt1, v.a, v.b.rotateLeft 9, v.c, p0 tt2, v.e, v.f.rotateLeft 19, v.g⟩

/-- Rounds from j over the expanded words; `ws` starts at word j. -/
def sm3Rounds : Nat → Nat → List W32 → Sm3 → Sm3
  | 0, _, _, v => v
  | n + 1, j, ws, v => sm3Rounds n (j + 1) (ws.drop 1) (sm3Round v j (ws.getD 0 0) (ws.getD 4 0))

def sm3Block (v : Sm3) (blk : List Byte) : Sm3 :=
  let ws0 := (chunksOf 4 16 blk).map beWord
  let ws := (sm3Expand 52 ws0.reverse).reverse
  let r := sm3Rounds 64 0 ws v
  ⟨v.a ^^^ r.a, v.b ^^^ r.b, v.c ^^^ r.c, v.d ^^^ r.d, v.e ^^^ r.e, v.f ^^^ r.f, v.g ^^^ r.g, v.h ^^^ r.h⟩

def sm3Init : Sm3 :=
  ⟨0x7380166F#32, 0x4914B2B9#32, 0x172442D7#32, 0xDA8A0600#32, 0xA96F30BC#32, 0x163138AA#32, 0xE38DEE4D#32, 0xB0FB0E4E#32⟩

/-- The 32 bytes of SM3 (R177). -/
def sm3 (bs : List Byte) : List Byte :=
  let p := sm3Pad bs
  let r := (chunksOf 64 (p.length / 64 + 1) p).foldl sm3Block sm3Init
  [r.a, r.b, r.c, r.d, r.e, r.f, r.g, r.h].flatMap beBytes32

/-- HMAC-SM3, whole (R384 takes its first 16 bytes). -/
def hmacSm3 (key msg : List Byte) : List Byte :=
  let k := (if key.length > 64 then sm3 key else key)
  let k64 := k ++ List.replicate (64 - k.length) 0#8
  sm3 (k64.map (· ^^^ 0x5C#8) ++ sm3 (k64.map (· ^^^ 0x36#8) ++ msg))

/-! ### SM2 signatures (GB/T 32918.2-2016, curve of GB/T 32918.5) -/

def sm2P : Nat := 0xFFFFFFFEFFFFFFFFFFFFFFFFFFFFFFFFFFFFFFFF00000000FFFFFFFFFFFFFFFF
def sm2A : Nat := sm2P - 3
def sm2B : Nat := 0x28E9FA9E9D9F5E344D5A9E4BCF6509A7F39789F515AB8F92DDBCBD414D940E93
def sm2N : Nat := 0xFFFFFFFEFFFFFFFFFFFFFFFFFFFFFFFF7203DF6B21C6052B53BBF40939D54123
def sm2Gx : Nat := 0x32C4AE2C1F1981195F9904466A39C9948FE30BBFF2660BE1715A4589334C74C7
def sm2Gy : Nat := 0xBC3736A2F4F6779C59BDCEE36B692153D0A9877CC62A474002DF32E52139F0A0

/-- a^n mod p, n below 2^fuel. -/
def powMod (p : Nat) : Nat → Nat → Nat → Nat
  | 0, _, _ => 1
  | fuel + 1, a, n =>
    let h := powMod p fuel (a * a % p) (n / 2)
    if n % 2 = 1 then h * a % p else h

def invP (a : Nat) : Nat := powMod sm2P 256 (a % sm2P) (sm2P - 2)
def subP (a b : Nat) : Nat := (a + sm2P - b % sm2P) % sm2P

/-- A point in Jacobian coordinates: x = X / Z², y = Y / Z³; Z = 0 is the point at infinity. -/
structure EcPoint where
  x : Nat
  y : Nat
  z : Nat
  deriving DecidableEq, Repr

def EcPoint.zero : EcPoint := ⟨1, 1, 0⟩

def ecDouble (p : EcPoint) : EcPoint :=
  let yy := p.y * p.y % sm2P
  let zz := p.z * p.z % sm2P
  let u := 4 * p.x * yy % sm2P
  let m := (3 * p.x * p.x + sm2A * zz * zz) % sm2P
  let x3 := subP (m * m % sm2P) (2 * u)
  ⟨x3, subP (m * subP u x3 % sm2P) (8 * yy * yy), 2 * p.y * p.z % sm2P⟩

def ecAdd (p q : EcPoint) : EcPoint :=
  if p.z = 0 then q
  else if q.z = 0 then p
  else
    let zp := p.z * p.z % sm2P
    let zq := q.z * q.z % sm2P
    let u := p.x * zq % sm2P
    let v := p.y * zq * q.z % sm2P
    let h := subP (q.x * zp % sm2P) u
    let r := subP (q.y * zp * p.z % sm2P) v
    if h = 0 then (if r = 0 then ecDouble p else EcPoint.zero)
    else
      let hh := h * h % sm2P
      let w := u * hh % sm2P
      let x3 := subP (subP (r * r % sm2P) (hh * h)) (2 * w)
      ⟨x3, subP (r * subP w x3 % sm2P) (v * hh * h), h * p.z * q.z % sm2P⟩

def ecMul : Nat → Nat → EcPoint → EcPoint
  | 0, _, _ => EcPoint.zero
  | fuel + 1, k, p =>
    let r := ecMul fuel (k / 2) (ecDouble p)
    if k % 2 = 1 then ecAdd r p else r

/-- Whether a 64-byte public key is a point of the curve. -/
def sm2OnCurve (x y : Nat) : Bool :=
  x < sm2P && y < sm2P && y * y % sm2P == (x * x * x + sm2A * x + sm2B) % sm2P

/-- What a signature covers, as a number: the digest of the signer's identity and key, and the message. -/
def sm2Hash (id key msg : List Byte) : Nat :=
  beNat (sm3 (sm3 (beBytes 2 (8 * id.length) ++ id ++ beBytes 32 sm2A ++ beBytes 32 sm2B ++ beBytes 32 sm2Gx
    ++ beBytes 32 sm2Gy ++ key) ++ msg))

/-- The signature r, s of a message under a private key for one random k; none where the standard asks for another k. -/
def sm2Sign (id key msg : List Byte) (priv k : Nat) : Option (List Byte) :=
  let p := ecMul 256 k ⟨sm2Gx, sm2Gy, 1⟩
  let r := (sm2Hash id key msg + p.x * invP (p.z * p.z) % sm2P) % sm2N
  let inv := powMod sm2N 256 ((1 + priv) % sm2N) (sm2N - 2)
  let v := inv * ((k + sm2N * sm2N - r * (priv % sm2N)) % sm2N) % sm2N
  if k % sm2N = 0 ∨ r = 0 ∨ r + k = sm2N ∨ v = 0 then none else some (beBytes 32 r ++ beBytes 32 v)

/-- SM2 signature verification over a message with a distinguishing identifier; key, r and s as the standard's bytes. -/
def sm2Verify (id key msg r s : List Byte) : Bool :=
  let x := beNat (key.take 32)
  let y := beNat (key.drop 32)
  let rn := beNat r
  let sn := beNat s
  let e := sm2Hash id key msg
  let t := (rn + sn) % sm2N
  if !sm2OnCurve x y || rn = 0 || rn ≥ sm2N || sn = 0 || sn ≥ sm2N || t = 0 then false
  else
    let p := ecAdd (ecMul 256 sn ⟨sm2Gx, sm2Gy, 1⟩) (ecMul 256 t ⟨x, y, 1⟩)
    p.z != 0 && (e + p.x * invP (p.z * p.z) % sm2P) % sm2N == rn

end Sys2Proof.Machine
end

