-- ==== Sys2Proof/Machine/Formats.lean ====
section
/-! DEFINITION. Number formats and the arithmetic of generation AG1 (spec/05, and the combinations of spec/06): exact
decoding, the one encoding procedure, FP32 accumulation, keyed stochastic rounding, MX scales, AFX, the repeatable tree,
and the special functions of the vector engines (spec/07). -/

namespace Sys2Proof.Machine

/-- The element formats, in the order of the format code table (spec/05). -/
inductive Fmt where
  | fp32 | bf16 | fp16 | e4m3 | e5m2 | e3m2 | e2m3 | e2m1 | int8 | int32
  | mxE4m3 | mxE5m2 | mxE3m2 | mxE2m3 | mxE2m1 | e8m0
  deriving DecidableEq, Repr

/-- The format code table; `none` is a reserved code (R130). -/
def Fmt.ofCode : Nat → Option Fmt
  | 0x01 => some .fp32 | 0x02 => some .bf16 | 0x03 => some .fp16 | 0x04 => some .e4m3 | 0x05 => some .e5m2
  | 0x06 => some .e3m2 | 0x07 => some .e2m3 | 0x08 => some .e2m1 | 0x09 => some .int8 | 0x0A => some .int32
  | 0x0C => some .mxE4m3 | 0x0D => some .mxE5m2 | 0x0E => some .mxE3m2 | 0x0F => some .mxE2m3
  | 0x10 => some .mxE2m1 | 0x11 => some .e8m0
  | _ => none

/-- Field widths, bias and largest finite encoding of a floating-point format. -/
structure FSpec where
  e : Nat
  m : Nat
  bias : Nat
  hasInf : Bool
  nanTop : Bool
  maxE : Nat
  maxM : Nat
  deriving DecidableEq, Repr

/-- The floating-point fields of each format; an MX format has those of its element; an integer has FP32's, unused. -/
def Fmt.spec : Fmt → FSpec
  | .bf16 => ⟨8, 7, 127, true, false, 254, 127⟩
  | .fp16 => ⟨5, 10, 15, true, false, 30, 1023⟩
  | .e4m3 | .mxE4m3 => ⟨4, 3, 7, false, true, 15, 6⟩
  | .e5m2 | .mxE5m2 => ⟨5, 2, 15, true, false, 30, 3⟩
  | .e3m2 | .mxE3m2 => ⟨3, 2, 3, false, false, 7, 3⟩
  | .e2m3 | .mxE2m3 => ⟨2, 3, 1, false, false, 3, 7⟩
  | .e2m1 | .mxE2m1 => ⟨2, 1, 1, false, false, 3, 1⟩
  | .fp32 | .int8 | .int32 | .e8m0 => ⟨8, 23, 127, true, false, 254, 8388607⟩

def Fmt.isMx : Fmt → Bool
  | .mxE4m3 | .mxE5m2 | .mxE3m2 | .mxE2m3 | .mxE2m1 => true
  | _ => false

def Fmt.isInt : Fmt → Bool
  | .int8 | .int32 => true
  | _ => false

/-- Any float format of the table, MX included, E8M0 not (R219). -/
def Fmt.isFloat (f : Fmt) : Bool := !f.isInt && f != .e8m0

/-- Bits of one element. -/
def Fmt.bitsOf : Fmt → Nat
  | .fp32 | .int32 => 32
  | .bf16 | .fp16 => 16
  | .e4m3 | .e5m2 | .int8 | .mxE4m3 | .mxE5m2 | .e8m0 => 8
  | .e3m2 | .e2m3 | .mxE3m2 | .mxE2m3 => 6
  | .e2m1 | .mxE2m1 => 4

/-- Bytes of a packing group (R133). -/
def Fmt.groupBytes : Fmt → Nat
  | .fp32 | .int32 => 4
  | .bf16 | .fp16 => 2
  | .e3m2 | .e2m3 | .mxE3m2 | .mxE2m3 => 3
  | .e4m3 | .e5m2 | .int8 | .mxE4m3 | .mxE5m2 | .e8m0 | .e2m1 | .mxE2m1 => 1

/-- Elements of a packing group (R133). -/
def Fmt.groupElems : Fmt → Nat
  | .e3m2 | .e2m3 | .mxE3m2 | .mxE2m3 => 4
  | .e2m1 | .mxE2m1 => 2
  | _ => 1

/-- FP6 and FP4 elements pack several to a group (R133, R187). -/
def Fmt.packed (f : Fmt) : Bool := f.groupElems != 1

/-- An exact value (−1)^neg × sig × 2^exp (spec/05, Decoding). -/
structure Dy where
  neg : Bool
  sig : Nat
  exp : Int
  deriving DecidableEq, Repr

/-- What an element decodes to: NaN, or an exact value with the mark that it was an Inf (R137). -/
inductive Ex where
  | nan
  | num (v : Dy) (inf : Bool)
  deriving DecidableEq, Repr

def Dy.zero : Dy := ⟨false, 0, 0⟩
def Dy.ofInt (v : Int) : Dy := ⟨decide (v < 0), v.natAbs, 0⟩
def Dy.signed (d : Dy) : Int := if d.neg then -(d.sig : Int) else d.sig

/-- The signed significand over a common, not larger exponent. -/
def Dy.scaledTo (d : Dy) (e : Int) : Int := d.signed * 2 ^ (d.exp - e).toNat

/-- Exact order of two values; −0 equals +0 (R90). -/
def Dy.lt (a b : Dy) : Bool :=
  let e := min a.exp b.exp
  decide (a.scaledTo e < b.scaledTo e)

def Dy.eqv (a b : Dy) : Bool :=
  let e := min a.exp b.exp
  decide (a.scaledTo e = b.scaledTo e)

/-- Exact sum. A zero sum is +0, unless both addends are −0 (R139). -/
def Dy.add (a b : Dy) : Dy :=
  let e := min a.exp b.exp
  let t := a.scaledTo e + b.scaledTo e
  ⟨if t = 0 then (a.sig == 0 && b.sig == 0 && a.neg && b.neg) else decide (t < 0), t.natAbs, e⟩

/-- Exact product (R138). -/
def Dy.mul (a b : Dy) : Dy := ⟨a.neg != b.neg, a.sig * b.sig, a.exp + b.exp⟩

/-- Decoding of a floating-point element under a scale byte, 127 for a plain one (R136, R137). -/
def decodeF (f : FSpec) (w scale : Nat) : Ex :=
  let s := bit w (f.e + f.m)
  let e := bits w (f.e + f.m - 1) f.m
  let fr := bits w (f.m - 1) 0
  let sh : Int := (scale : Int) - 127
  if scale = 0xFF then .nan
  else if f.nanTop && e == 15 && fr == 7 then .nan
  else if f.hasInf && e == 2 ^ f.e - 1 then
    if fr ≠ 0 then .nan
    else .num ⟨s, f.maxM + 2 ^ f.m, (f.maxE : Int) - f.bias - f.m + sh⟩ true
  else if e = 0 then .num ⟨s, fr, 1 - (f.bias : Int) - f.m + sh⟩ false
  else .num ⟨s, fr + 2 ^ f.m, (e : Int) - f.bias - f.m + sh⟩ false

/-- The two's-complement integer of a w-bit field. -/
def signedOf (w v : Nat) : Int := if v % 2 ^ w < 2 ^ (w - 1) then (v % 2 ^ w : Nat) else (v % 2 ^ w : Nat) - (2 ^ w : Int)

/-- Decoding of any element: integers give their exact value, E8M0 is a byte of scale (R136, R137). -/
def Fmt.decode (f : Fmt) (w scale : Nat) : Ex :=
  match f with
  | .int8 => .num (Dy.ofInt (signedOf 8 w)) false
  | .int32 => .num (Dy.ofInt (signedOf 32 w)) false
  | f => decodeF f.spec w (if f.isMx then scale else 127)

/-- The encoding procedure of R143; `u` is the random value of stochastic mode. Answers the bits and CS. -/
def encodeF (s : Bool) (sig : Nat) (exp : Int) (f : FSpec) (u : Option Nat) : Nat × Bool :=
  let sgn := if s then 2 ^ (f.e + f.m) else 0
  if sig = 0 then (sgn, false)
  else
    let lead : Int := (Nat.log2 sig : Int) + exp
    let q0 : Int := max lead (1 - (f.bias : Int)) - f.m
    let sh := q0 - exp
    let n := sh.toNat
    let kept0 := if sh ≤ 0 then sig * 2 ^ (-sh).toNat else sig >>> n
    let rem := if sh ≤ 0 then 0 else sig % 2 ^ n
    let up : Bool :=
      if sh ≤ 0 then false
      else match u with
        | none => let half := 2 ^ (n - 1); rem > half || (rem == half && kept0 % 2 == 1)
        | some r => (rem * 2 ^ 32) >>> n + r ≥ 2 ^ 32
    let k1 := kept0 + (if up then 1 else 0)
    let carry := k1 == 2 ^ (f.m + 1)
    let kept := if carry then k1 / 2 else k1
    let q := if carry then q0 + 1 else q0
    if kept = 0 then (sgn, false)
    else
      let e : Nat := if kept < 2 ^ f.m then 0 else (q + f.m + f.bias).toNat
      let m : Nat := if kept < 2 ^ f.m then kept else kept - 2 ^ f.m
      if e > f.maxE || (e == f.maxE && m > f.maxM) then (sgn + f.maxE * 2 ^ f.m + f.maxM, true)
      else (sgn + e * 2 ^ f.m + m, false)

/-- The NaN written to each target (R145); FP6 and FP4 take +0 and set CNZ. -/
def Fmt.nanBits : Fmt → Nat
  | .fp32 => 0x7FC00000 | .bf16 => 0x7FC0 | .fp16 => 0x7E00 | .e4m3 => 0x7F | .e5m2 => 0x7E
  | _ => 0

/-- What encoding one element gives: its bits and the conversion flags (R153). -/
structure Enc where
  bits : Nat
  cs : Bool
  cnz : Bool
  deriving DecidableEq, Repr

/-- Rounds an exact value to an integer, ties to even (R193). -/
def Dy.roundInt (d : Dy) : Int :=
  if 0 ≤ d.exp then d.signed * 2 ^ d.exp.toNat
  else
    let n := (-d.exp).toNat
    let k := d.sig >>> n
    let rem := d.sig % 2 ^ n
    let half := 2 ^ (n - 1)
    let k' := if rem > half || (rem == half && k % 2 == 1) then k + 1 else k
    if d.neg then -(k' : Int) else k'

/-- Holds an integer at the limits of a w-bit two's-complement field; true when it was held (R141, R146). -/
def holdInt (w : Nat) (v : Int) : Int × Bool :=
  let hi : Int := 2 ^ (w - 1) - 1
  let lo : Int := -(2 ^ (w - 1) : Int)
  if v > hi then (hi, true) else if v < lo then (lo, true) else (v, false)

/-- The w-bit field of an integer. -/
def fieldOf (w : Nat) (v : Int) : Nat := (v % (2 ^ w : Int)).toNat

/-- Encodes a decoded element into any format (R143 to R147, R193); an Inf source sets CS (R137). For an MX target the
block's scale comes off the exponent (R143). -/
def Fmt.encode (f : Fmt) (x : Ex) (scale : Nat) (u : Option Nat) : Enc :=
  match x with
  | .nan =>
    match f with
    | .e3m2 | .e2m3 | .e2m1 | .int8 | .int32 => ⟨0, false, true⟩
    | f => ⟨f.nanBits, false, false⟩
  | .num v inf =>
    match f with
    | .int8 => let r := holdInt 8 v.roundInt; ⟨fieldOf 8 r.1, r.2 || inf, false⟩
    | .int32 => let r := holdInt 32 v.roundInt; ⟨fieldOf 32 r.1, r.2 || inf, false⟩
    | f =>
      let e : Int := if f.isMx then v.exp - ((scale : Int) - 127) else v.exp
      let r := encodeF v.neg v.sig e f.spec u
      ⟨r.1, r.2 || inf, false⟩

/-- floor(log2 |v|) of a nonzero value. -/
def Dy.lead (d : Dy) : Int := (Nat.log2 d.sig : Int) + d.exp

/-- emax of the element formats that MX scales (R216). -/
def Fmt.emax : Fmt → Int
  | .e4m3 | .mxE4m3 => 8
  | .e5m2 | .mxE5m2 => 15
  | .e3m2 | .mxE3m2 => 4
  | _ => 2

/-- The scale of one MX block from the exact values of its elements (R216). -/
def mxScale (f : Fmt) (xs : List Ex) : Nat :=
  if xs.any (fun x => x == .nan) then 0xFF
  else
    let leads := xs.filterMap fun x => match x with
      | .num v _ => if v.sig = 0 then none else some v.lead
      | .nan => none
    match leads with
    | [] => 0x7F
    | l :: ls => let x := ls.foldl max l - f.emax + 127; (min (max x 0) 254).toNat

/-! ### FP32 arithmetic of the units (R139, R193) -/

/-- An FP32 result with its saturation and NaN flags. -/
structure Rs where
  v : F32
  s : Bool
  n : Bool
  deriving DecidableEq, Repr

def nan32 : F32 := 0x7FC00000#32
def Rs.nan : Rs := ⟨nan32, false, true⟩
def dec32 (v : F32) : Ex := decodeF Fmt.fp32.spec v.toNat 127
def isNan32 (v : F32) : Bool := dec32 v == .nan

/-- One rounding of an exact value onto the FP32 grid, saturating (R139). -/
def round32 (d : Dy) : Rs :=
  let r := encodeF d.neg d.sig d.exp Fmt.fp32.spec none
  ⟨BitVec.ofNat 32 r.1, r.2, false⟩

/-- One rounding onto the BF16 grid, kept as an FP32 value (R174). -/
def roundBf16 (d : Dy) : Rs :=
  let r := encodeF d.neg d.sig d.exp Fmt.bf16.spec none
  ⟨BitVec.ofNat 32 (r.1 * 65536), r.2, false⟩

/-- The exact value of an FP32 number, NaN taken as zero by callers that have ruled it out. -/
def val32 (v : F32) : Dy := match dec32 v with | .num d _ => d | .nan => Dy.zero

/-- FP32 addition with one rounding (R139). -/
def add32 (a b : F32) : Rs :=
  if isNan32 a || isNan32 b then .nan else round32 ((val32 a).add (val32 b))

/-- BF16 addition of values held in FP32 form (R174). -/
def addBf16 (a b : F32) : Rs :=
  if isNan32 a || isNan32 b then .nan else roundBf16 ((val32 a).add (val32 b))

def mul32 (a b : F32) : Rs :=
  if isNan32 a || isNan32 b then .nan else round32 ((val32 a).mul (val32 b))

def fma32 (a b c : F32) : Rs :=
  if isNan32 a || isNan32 b || isNan32 c then .nan else round32 (((val32 a).mul (val32 b)).add (val32 c))

def neg32 (a : F32) : Rs := if isNan32 a then .nan else ⟨a ^^^ 0x80000000#32, false, false⟩
def abs32 (a : F32) : Rs := if isNan32 a then .nan else ⟨a &&& 0x7FFFFFFF#32, false, false⟩
def sub32 (a b : F32) : Rs := if isNan32 b then .nan else add32 a (b ^^^ 0x80000000#32)

/-- a is below b, with −0 below +0 (R193 MIN and MAX, R219). -/
def below32 (a b : F32) : Bool :=
  let x := val32 a
  let y := val32 b
  x.lt y || (x.eqv y && x.neg && !y.neg)

def min32 (a b : F32) : Rs :=
  if isNan32 a || isNan32 b then .nan else ⟨if below32 b a then b else a, false, false⟩

def max32 (a b : F32) : Rs :=
  if isNan32 a || isNan32 b then .nan else ⟨if below32 a b then b else a, false, false⟩

/-- floor, exact; floor(−0) = −0 (R193). -/
def floor32 (a : F32) : Rs :=
  if isNan32 a then .nan
  else
    let d := val32 a
    if d.sig = 0 ∨ 0 ≤ d.exp then ⟨a, false, false⟩
    else
      let t : Int := d.signed / (2 ^ (-d.exp).toNat : Int)
      round32 ⟨d.neg, t.natAbs, 0⟩

/-- A matrix cell's addition of an exact product (R139); a NaN accumulator stays NaN. -/
def accAdd (acc : F32) (p : Ex) : Rs :=
  match p with
  | .nan => .nan
  | .num d _ => if isNan32 acc then .nan else round32 ((val32 acc).add d)

/-- An exact product of two decoded elements (R138, R140). -/
def Ex.mul : Ex → Ex → Ex
  | .num a i, .num b j => .num (a.mul b) (i || j)
  | _, _ => .nan

def Ex.isInf : Ex → Bool
  | .num _ i => i
  | .nan => false

/-- The exact value taken as an FP32 term; above the largest finite it saturates and sets S (R168, R219). -/
def term32 (x : Ex) : Rs :=
  match x with
  | .nan => .nan
  | .num d inf => let r := round32 d; ⟨r.v, r.s || inf, false⟩

/-! ### Keyed stochastic rounding (R148) -/

def mix64 (z0 : BitVec 64) : BitVec 64 :=
  let z1 := (z0 ^^^ (z0 >>> 30)) * 0xBF58476D1CE4E5B9#64
  let z2 := (z1 ^^^ (z1 >>> 27)) * 0x94D049BB133111EB#64
  z2 ^^^ (z2 >>> 31)

/-- The random value u of an element: seed, tensor tag and the five logical coordinates c0 to c4 (R148). -/
def srKey (seed tag : Nat) (c : List Nat) : Nat :=
  let z0 := mix64 (BitVec.ofNat 64 seed ^^^ BitVec.ofNat 64 tag)
  let z := [4, 3, 2, 1, 0].foldl (fun z d => mix64 (z ^^^ BitVec.ofNat 64 (c.getD d 0))) z0
  (z >>> 32).toNat

/-! ### AFX (R165 to R171) -/

/-- Bits below the anchor: 40 for AFX64, 64 for AFX96 (R166). -/
def afxW (wide : Bool) : Nat := if wide then 64 else 40
def afxElemBytes (wide : Bool) : Nat := if wide then 12 else 8
def afxMaxTerms (wide : Bool) : Nat := if wide then 1073741824 else 4194304
/-- Size of an AFX block in memory (R171). -/
def afxBlockBytes (wide : Bool) : Nat := 64 + 256 * afxElemBytes wide

/-- Anchor exponent over FP32 terms; −149 with none nonzero (R165). -/
def anchorOf (ts : List F32) : Int :=
  ts.foldl (fun a t => match dec32 t with
    | .num d _ => if d.sig = 0 then a else max a d.lead
    | .nan => a) (-149)

/-- One term in units of 2^(A − w), rounded once, ties to even; `none` is the NaN mark (R168). -/
def toAfx (t : F32) (a : Int) (w : Nat) : Option Int :=
  match dec32 t with
  | .nan => none
  | .num d _ =>
    let sh := (a - w) - d.exp
    let x : Nat :=
      if sh ≤ 0 then d.sig * 2 ^ (-sh).toNat
      else
        let n := sh.toNat
        let x := d.sig >>> n
        let rem := d.sig % 2 ^ n
        let half := 2 ^ (n - 1)
        if rem > half || (rem == half && x % 2 == 1) then x + 1 else x
    some (if d.neg then -(x : Int) else x)

/-- Adds AFX elements; a NaN mark on either side stays (R168). -/
def afxAdd : Option Int → Option Int → Option Int
  | some x, some y => some (x + y)
  | _, _ => none

def afxSum (ts : List F32) (a : Int) (w : Nat) : Option Int :=
  ts.foldl (fun acc t => afxAdd acc (toAfx t a w)) (some 0)

/-- Back to FP32 with one rounding; zero is +0 always (R168, R169). -/
def fromAfx (x : Option Int) (a : Int) (w : Nat) : Rs :=
  match x with
  | none => .nan
  | some v => if v = 0 then ⟨0#32, false, false⟩ else round32 ⟨decide (v < 0), v.natAbs, a - w⟩

/-- The canonical combination of the terms of one element against its block's anchor; a single term is returned
unchanged (R164). -/
def canonCombine (ts : List F32) (a : Int) (wide : Bool) : Rs :=
  match ts with
  | [t] => ⟨t, false, isNan32 t⟩
  | ts => fromAfx (afxSum ts a (afxW wide)) a (afxW wide)

/-! ### Repeatable and relaxed combination (R173, R174) -/

/-- One level of the pairwise tree. -/
def treeLevel : List Rs → List Rs
  | a :: b :: r =>
    let c := add32 a.v b.v
    ⟨c.v, c.s || a.s || b.s, c.n || a.n || b.n⟩ :: treeLevel r
  | r => r

def treeGo : Nat → List Rs → Rs
  | _, [] => ⟨0#32, false, false⟩
  | _, [x] => x
  | 0, x :: _ => x
  | n + 1, xs => treeGo n (treeLevel xs)

/-- The pairwise FP32 tree over contributors in rank order (R173). -/
def repeatable (ts : List F32) : Rs := treeGo ts.length (ts.map fun t => ⟨t, false, isNan32 t⟩)

/-- Left-to-right FP32 addition from the first term. -/
def foldAdd32 (add : F32 → F32 → Rs) (ts : List F32) : Rs :=
  match ts with
  | [] => ⟨0#32, false, false⟩
  | t :: r => r.foldl (fun a x => let c := add a.v x; ⟨c.v, c.s || a.s, c.n || a.n⟩) ⟨t, false, isNan32 t⟩

/-- An order of a list chosen by free values: each place takes an open pick of what remains (R174, R219: the order of
combination is unspecified). -/
def freeOrder {α : Type} : Nat → Nat → List α → List α
  | 0, _, xs => xs
  | _ + 1, _, [] => []
  | fuel + 1, n, x :: xs =>
    let l := x :: xs
    let i := Config.pick n l.length
    (l.getD i x) :: freeOrder fuel (n + 1) (l.eraseIdx i)

def relaxed32 (n : Nat) (bf : Bool) (ts : List F32) : Rs :=
  foldAdd32 (if bf then addBf16 else add32) (freeOrder ts.length n ts)

/-- Maximum with NaN propagating and −0 < +0, in every mode (R219). -/
def maxAll : List F32 → Rs
  | [] => ⟨0#32, false, false⟩
  | t :: r => r.foldl (fun a x => let c := max32 a.v x; ⟨c.v, false, c.n⟩) ⟨t, false, isNan32 t⟩

/-! ### Special functions (R204 to R206) -/

def isqrtGo (n : Nat) : Nat → Nat → Nat
  | 0, r => r
  | k + 1, r => let c := r + 2 ^ k; isqrtGo n k (if c * c ≤ n then c else r)

/-- floor of the square root. -/
def isqrt (n : Nat) : Nat := isqrtGo n (Nat.log2 n / 2 + 1) 0

/-- rnd(2^(i/64) × 2^40): the 64th root of 2^(i + 64 × 41) is the floor of 2 × the value, and no value falls on a tie. -/
def exp2Tab (i : Nat) : Nat :=
  (isqrt (isqrt (isqrt (isqrt (isqrt (isqrt (2 ^ (i + 2624))))))) + 1) / 2

/-- rnd(ln 2 × 2^32) (R204). -/
def ln2_32 : Nat := 2977044472

def exp2_32 (x : F32) : Rs :=
  match dec32 x with
  | .nan => .nan
  | .num d _ =>
    if !d.lt ⟨false, 128, 0⟩ then ⟨0x7F7FFFFF#32, true, false⟩
    else if !Dy.lt ⟨true, 150, 0⟩ d then ⟨0#32, false, false⟩
    else
      let xf := Dy.roundInt ⟨d.neg, d.sig, d.exp + 24⟩
      let n := xf / (2 ^ 24 : Int)
      let r := (xf - n * 2 ^ 24).toNat
      let i := r >>> 18
      let t := r % 2 ^ 18
      let q := (t * ln2_32) >>> 16
      let e := q + ((q * q) >>> 41) + (q * q * q) / (6 * 2 ^ 80)
      round32 ⟨false, exp2Tab i * (2 ^ 40 + e), n - 80⟩

/-- rnd(log2(j / 64) × 2^64) for j = 48 to 96, the reals of R205 evaluated to 80 digits. -/
def log2TabA : List Int :=
  [-7656090530189244512, -7107348899726412186, -6569693720661436430, -6042685881684746724, -5525911854099571095,
   -5018981742363894217, -4521527516858181921, -4033201408813144078, -3553674449863206093, -3082635140864238617,
   -2619788236484586918, -2164853633693079141, -1717565353665186919, -1277670607841172749, -844928939924941487,
   -419111436532143502, 0]
def log2TabB : List Int :=
  [412613322424486499, 818926958183105433, 1219130382413175476, 1613404648504497789, 2001922879925238372,
   2384850726660851500, 2762346789278069823, 3134563013331062591, 3501645056564487676, 3863732631134349280,
   4220959822858870674, 4573455389325005895, 4921343038509143852, 5264741689420736009, 5603765716143027046,
   5938525176524057593]
def log2TabC : List Int :=
  [6269126026662125183, 6595670322231605598, 6918256407606284491, 7236979093657101011, 7551929825028555382,
   7863196837632180880, 8170865307035720186, 8475017488372349945, 8775732848344909873, 9073088189855120184,
   9367157769746774429, 9658013410114482884, 9945724603595365617, 10230358613029842718, 10511980565849063488,
   10790653543520307104]
def log2Tab (j : Nat) : Int := (log2TabA ++ log2TabB ++ log2TabC).getD (j - 48) 0
/-- rnd(2^62 / ln 2) (R205). -/
def invln2_62 : Int := 6653256548922161246

def log2_32 (x : F32) : Rs :=
  match dec32 x with
  | .nan => .nan
  | .num d _ =>
    if d.sig = 0 then ⟨0xFF7FFFFF#32, true, false⟩
    else if d.neg then .nan
    else
      let k := Nat.log2 d.sig
      let e0 : Int := (k : Int) + d.exp
      let w := d.sig * 2 ^ (24 - k)
      let hi := decide (w ≥ 3 * 2 ^ 23)
      let e : Int := if hi then e0 + 1 else e0
      let v : Nat := if hi then w else w * 2
      let j := (v + 2 ^ 18) >>> 19
      let rcp := (2 ^ 71 / j + 1) / 2
      let z : Int := ((v * rcp : Nat) - (2 ^ 89 : Int)) / 2 ^ 25
      let a : Int := z - (z * z) / 2 ^ 65 + (z * z * z) / (3 * 2 ^ 128) - (z * z * z * z) / 2 ^ 194
      let y : Int := e * 2 ^ 64 + log2Tab j + (a * invln2_62) / 2 ^ 62
      if y = 0 then ⟨0#32, false, false⟩ else round32 ⟨decide (y < 0), y.natAbs, -64⟩

def rcp32 (x : F32) : Rs :=
  match dec32 x with
  | .nan => .nan
  | .num d _ =>
    if d.sig = 0 then ⟨if d.neg then 0xFF7FFFFF#32 else 0x7F7FFFFF#32, true, false⟩
    else
      let q := 2 ^ 80 / d.sig
      let rem := 2 ^ 80 - q * d.sig
      round32 ⟨d.neg, 2 * q + (if rem = 0 then 0 else 1), -81 - d.exp⟩

def rsqrt32 (x : F32) : Rs :=
  match dec32 x with
  | .nan => .nan
  | .num d _ =>
    if d.sig = 0 then ⟨if d.neg then 0xFF7FFFFF#32 else 0x7F7FFFFF#32, true, false⟩
    else if d.neg then .nan
    else
      let odd := d.exp % 2 == 1
      let sig := if odd then d.sig * 2 else d.sig
      let exp : Int := if odd then d.exp - 1 else d.exp
      let y := isqrt (2 ^ 200 / sig)
      let exact := y * y * sig == 2 ^ 200
      round32 ⟨false, 2 * y + (if exact then 0 else 1), -101 - exp / 2⟩

end Sys2Proof.Machine
end

