-- ==== Sys2Proof/Machine/State.lean ====
section
/-! DEFINITION. The state of the module: everything the manual gives it, as plain data, and `State.reset`, the module at
the start of a full boot (log 1). -/

namespace Sys2Proof.Machine

/-! ## Time, gutters, freeze (02) -/

/-- The time states of R45. -/
inductive Lock where
  | unlocked | locked | holdover | degraded
  deriving DecidableEq, Repr

/-- What a port keeps of the time symbols on it (R41 to R43, R51, R53). Times in ns, delays in ps. -/
structure PortTime where
  sent : Option Nat
  rxDepart : Nat
  rxArrive : Nat
  delay : Option Int
  theta : Option Int
  locked : Bool
  epoch : Nat
  hops : Nat
  node : Nat
  schedule : Nat
  /-- removed from parent candidacy (R43) -/
  noParent : Bool
  /-- takes no two-ended action (R51, R53) -/
  oneEnded : Bool
  /-- must measure d again on a new exit (R42) -/
  remeasure : Bool
  deriving DecidableEq, Repr

def PortTime.reset : PortTime :=
  { sent := none, rxDepart := 0, rxArrive := 0, delay := none, theta := none, locked := false, epoch := 0, hops := 0,
    node := 0, schedule := 0, noParent := false, oneEnded := false, remeasure := false }

structure TimeSt where
  lock : Lock
  /-- offset from the parent, ps -/
  offset : Int
  parent : Option PortId
  epoch : Nat
  /-- this module is the acting time master, and the node of the master it follows (R47) -/
  master : Bool
  masterNode : Nat
  /-- elapsed time of the loss of the parent (R45) -/
  lostAt : Nat
  /-- remaining correction, ns, and ticks since its last step (R39) -/
  slew : Int
  slewPhase : Nat
  /-- what each counter still lacks to the keeper's, as its last alignment symbol showed: CD00 to CD19, the control dies, OE0 to
  OE7, HE (R38, R39) -/
  devs : Vector Int 31
  firstLocked : Bool
  /-- elapsed time since which the standby master has no path (R47) -/
  noPathSince : Option Nat
  deriving DecidableEq, Repr

structure Schedule where
  period : Nat
  phase : Int
  length : Nat
  guard : Nat
  ident : Nat
  deriving DecidableEq, Repr

/-- A gutter action that waits or runs (R55). -/
structure Action where
  kind : GutterKind
  res : GutterRes
  /-- a further number of the action: the target slot of a move, the exit of a steer -/
  arg : Nat
  /-- the earliest gutter start it may run in (R349, R358) -/
  from_ : Nat
  /-- consecutive gutters it was deferred (R58) -/
  deferred : Nat
  deriving DecidableEq, Repr

/-- The gutter in progress (R54). `ports` are the ports of a one-off gutter, all ports for a periodic one. -/
structure Gutter where
  start : Nat
  length : Nat
  guard : Nat
  ports : Nat
  once : Bool
  opened : Bool
  closed : Bool
  running : List Action
  deriving DecidableEq, Repr

structure GutterSt where
  sched : Schedule
  staged : Option (Schedule × Int)
  now : Option Gutter
  /-- start of the last periodic gutter that ran -/
  lastStart : Option Nat
  oneOffs : List (Nat × Nat)
  waiting : List Action
  /-- actions that overran their window and still run (R54) -/
  overrun : List Action
  overruns : Nat
  degDeferrals : Nat
  deferrals : Vector Nat 7
  /-- steers that collectives asked for: steer FT, port mask, exits (R334) -/
  steers : List (Nat × Nat × Nat)
  /-- self-test round: engine tested last per die is in `Die`; time of the last full round, ms (R57) -/
  roundMs : Nat
  deriving DecidableEq, Repr

/-- A freeze in force (R62, R64). -/
structure Cut where
  ft : Nat
  /-- elapsed time of the freeze -/
  since : Nat
  /-- dies absent from the cut (R66) -/
  absent : List DieId
  reported : Bool
  named : Bool
  unusable : Bool
  /-- it came during a switchover pause (R66) -/
  paused : Bool
  /-- the freeze of a rollback: held packets are discarded (R470) -/
  rollback : Bool
  deriving DecidableEq, Repr

structure FreezeSt where
  /-- accepted freezes whose instant has not come, in order -/
  pending : List Nat
  thaws : List Nat
  cut : Option Cut
  deriving DecidableEq, Repr

/-! ## Events (17) -/

/-- An event record (R453). -/
structure Event where
  code : Nat
  sev : Nat
  ctx : Option Nat
  stream : Option Nat
  old : Bool
  unit : Nat
  ft : Nat
  quire : Option Nat
  rep : Nat
  seq : Nat
  detail : Nat
  /-- elapsed time at which it was recorded, for merging (not part of the 32 bytes) -/
  born : Nat
  deriving DecidableEq, Repr

structure EventLog where
  recs : List Event
  lost : Nat
  nextSeq : Nat
  /-- elapsed times of event frames sent in the last second (R457) -/
  canTimes : List Nat
  deriving DecidableEq, Repr

/-! ## Queues and contexts (03) -/

/-- A position of a queue: a count of ring descriptors, or a descriptor of a branch list (R70, R92). -/
inductive Pos where
  | ring (n : Nat)
  | list (sram : Bool) (off visit : Nat)
  deriving DecidableEq, Repr

structure Summary where
  max : F32
  sum : F32
  count : Nat
  anyNan : Bool
  anySat : Bool
  deriving DecidableEq, Repr

def Summary.zero : Summary := { max := 0, sum := 0, count := 0, anyNan := false, anySat := false }

/-- A tensor descriptor as an engine has read it (R186). -/
structure Tensor where
  fmt : Nat
  sram : Bool
  base : Nat
  stride0 : Nat
  scaleSram : Bool
  scale : Nat
  sizes : Vector Nat 5
  origin : Vector Nat 5
  strides : Vector Nat 4
  deriving DecidableEq, Repr

/-! ## Descriptors between two element blocks (R96, R97, R191, R203, R210, R218, R221) -/

/-- A write that a descriptor has made: its place, and what stood there before it (R81). -/
structure Wrote where
  sram : Bool
  off : Nat
  old : List Byte
  deriving DecidableEq, Repr

/-- A vector instruction in its fields (R192). -/
structure VIns where
  op : Nat
  dst : Nat
  a : Nat
  b : Nat
  c : Nat
  pred : Nat
  x : Bool
  ti : Nat
  imm : Nat
  deriving DecidableEq, Repr

/-- What a vector program needs once read: its instructions and its tensors, in order inputs, outputs, mask (R200). -/
structure VProg where
  ins : List VIns
  inputs : List Tensor
  outputs : List Tensor
  mask : Option Tensor
  reserved : Bool
  deriving DecidableEq, Repr

/-- The registers of one row in flight (R191): lanes of V0 to V15, T0 to T3, lanes of B0 to B3, the panel partials of each RSUM;
the active lanes; and the summary source and count predicate of every element, as the last pass leaves them. -/
structure VRow where
  v : Vector (List F32) 16
  t : Vector F32 4
  b : Vector (List Bool) 4
  parts : List (List F32)
  active : List Bool
  src : List F32
  cnt : List Bool
  deriving DecidableEq, Repr

/-- The summary of R199 as rows add to it; `sums` are the panel partials or the row sums, `sat` that one of them saturated. -/
structure VSum where
  max : F32
  sums : List F32
  count : Nat
  sat : Bool
  deriving DecidableEq, Repr

/-- What a unit holds of a descriptor that stands between two of its element blocks. -/
inductive JobWork where
  /-- VPROG: the program, its steps done, the rows of the row group in hand, the elements of the row in hand that LD takes, the summary -/
  | vector (g : VProg) (steps : Nat) (rows : List VRow) (loads : List (Nat × List (Option Ex))) (sum : VSum)
  /-- GATHER: its destination, and the rows to come: number, whether it is active, position -/
  | gather (dst : Tensor) (lanes : List (Nat × Bool × Int))
  /-- CONVERT: its tensors, and the runs to come: row, first element, elements -/
  | convert (src dst : Tensor) (runs : List (Nat × Nat × Nat))
  /-- COMBINE: the output groups that are formed and not yet written -/
  | combine (out : Tensor) (groups : List (List (Bool × Nat × List Byte)))
  deriving DecidableEq, Repr

/-- A descriptor that stands between two of its element blocks: its seed of stochastic rounding (R150), its writes, its any-NaN and
any-saturated states, its work. -/
structure Job where
  seed : Nat
  wrote : List Wrote
  nan : Bool
  sat : Bool
  work : JobWork
  deriving DecidableEq, Repr

/-- A descriptor that has started and not retired (R72, R80). -/
structure Started where
  pos : Pos
  /-- the descriptor's 64 bytes as fetched at its start -/
  qws : List Nat
  /-- the engine's part is done -/
  done : Bool
  /-- status met so far (R99) -/
  status : Nat
  /-- remote operations whose replies it awaits -/
  ops : List Nat
  /-- the header signal in flight (R80) -/
  signal : Option Nat
  signalled : Bool
  /-- the summary to write at retirement (R88) -/
  summary : Option (Nat × Summary)
  /-- a collective of this descriptor has unacknowledged chunks or stages to run -/
  collective : Bool
  /-- consumed by a skip, not started (R91) -/
  skipped : Bool
  /-- of a gather engine's descriptor: the first faulting lane's operation and its status (R208), rows fetched from other
  dies by number, the tensors it combines, and its rails' comparisons (R214) -/
  fault : Option (Nat × Nat)
  got : List (Nat × List Byte)
  tens : List Tensor
  rails : List RailObs
  /-- an earlier descriptor of the queue failed: this one runs to its end and does not retire (R81) -/
  cancelled : Bool := false
  /-- the queue's call stack and skip as it stood in its place (R76) -/
  stack : List Pos := []
  skipLeft : Nat := 0
  skipHeld : Bool := false
  /-- it stands between two of its element blocks (R96) -/
  job : Option Job := none
  deriving DecidableEq, Repr

structure Queue where
  enabled : Bool
  sram : Bool
  base : Nat
  log2 : Nat
  doorbell : Nat
  /-- the queue status word's status and head count (R76) -/
  status : Nat
  head : Nat
  /-- the next descriptor to start -/
  next : Pos
  stack : List Pos
  /-- branches taken so far: it tells two runs through one list apart (the model's own) -/
  visits : Nat
  started : List Started
  /-- holding at a STITCH: its identity and header (R87) -/
  hold : Option Nat
  holdAt : Nat
  /-- descriptors still to skip, and K (R91) -/
  skip : Nat
  skipK : Bool
  /-- the gate of the next descriptor was reached (R49) -/
  gateOpen : Bool
  /-- position of the descriptor that halted the queue -/
  haltPos : Option Pos
  deriving DecidableEq, Repr

def Queue.reset : Queue :=
  { enabled := false, sram := false, base := 0, log2 := 0, doorbell := 0, status := 0, head := 0, next := .ring 0,
    stack := [], visits := 0, started := [], hold := none, holdAt := 0, skip := 0, skipK := false, gateOpen := false,
    haltPos := none }

/-- The context states of R77. -/
inductive CtxState where
  | empty | loaded | running | stopping | stopped | faulted
  deriving DecidableEq, Repr

/-- A colophon of a context (R175, R181): its settings, seed and digests; none in the context when none is open. -/
structure Colophon where
  mode : Nat
  panel : Nat
  wide : Bool
  seed : Nat
  slots : Vector (Option (List Byte)) 3
  invalid : Bool
  deriving DecidableEq, Repr

/-- A run of a stream's elements whose terms wait in canonical staging: its first flat index and, per element, the panels'
terms (R332). -/
structure Terms where
  start : Nat
  panels : List (List Nat)
  deriving DecidableEq, Repr

/-- An open stream handle (R331, R332): where its source descriptor stands, its chunk code, and the elements present as
runs of flat indices, in memory or as terms. -/
structure Stream where
  handle : Nat
  sram : Bool
  off : Nat
  chunk : Nat
  present : List (Nat × Nat)
  terms : List Terms
  /-- the panels of the descriptor that feeds it (R318), and the runs of elements whose tile reported S: a partial saturated or an
  input was Inf (R153, R171) -/
  panels : Nat
  sats : List (Nat × Nat)
  deriving DecidableEq, Repr

/-- A steer entry of a collective plan record (R312). -/
structure SteerEntry where
  ft : Nat
  first : Nat
  mask : Nat
  exits : Nat
  deriving DecidableEq, Repr

/-- A unit of the source: its elements' terms and whether one saturated (R168, R321). -/
structure SrcUnit where
  u : Nat
  terms : List (List Nat)
  sat : Bool
  deriving DecidableEq, Repr

/-- A value that a member holds (R320, R323, R327): of phase 0 (anchors) or 1 (data), as its own input of reduce-scatter stage
`st`, as a value to forward in ring stage `st`, or as a final one; its contributor `o`, item `a` and unit `u`. -/
inductive PieceRole where
  | held | relay | fin
  deriving DecidableEq, Repr

structure Piece where
  ph : Nat
  role : PieceRole
  st : Nat
  o : Nat
  a : Nat
  u : Nat
  bytes : List Byte
  deriving DecidableEq, Repr

/-- A received chunk that passed its CRC and waits for what it is combined with: stage, sender, number, carried residue, payload
(R326, R329). -/
structure RecvChunk where
  st : Nat
  sender : Nat
  num : Nat
  residue : Nat
  payload : List Byte
  deriving DecidableEq, Repr

/-- A sent chunk that has not been acknowledged (R326). -/
structure SentChunk where
  dst : Nat
  st : Nat
  num : Nat
  kind : Nat
  residue : Nat
  origin : Nat
  payload : List Byte
  deriving DecidableEq, Repr

/-- A collective of a context's CB in progress (11). `me` and `sizes` are coordinates and sizes by level: 0 the spine, 1 to 4
D0 to D3 (R313, R320). -/
structure Coll where
  /-- remote operations whose replies it awaits, first failing status of them -/
  ops : List Nat
  status : Nat
  q : QueueId
  pos : Pos
  qws : List Nat
  dies : List DieId
  start : List Nat
  sizes : List Nat
  dims : List Nat
  me : List Nat
  ring : Bool
  planId : Nat
  inst : Nat
  src : Tensor
  dst : Tensor
  elems : Nat
  /-- units of a chunk, slots granted to each partner, slot bytes (R324, R325) -/
  upc : Nat
  slots : Nat
  slotBytes : Nat
  steers : List SteerEntry
  srcs : List SrcUnit
  /-- source chunks released from a stream (R332) -/
  released : List Nat
  pieces : List Piece
  recv : List RecvChunk
  sent : List SentChunk
  /-- destination, stage and number of every chunk sent; stage, number and sender of every chunk consumed -/
  sentIds : List (Nat × Nat × Nat)
  takenIds : List (Nat × Nat × Nat)
  /-- free slots granted by each partner (R325) -/
  credit : List (Nat × Nat)
  /-- retransmissions asked for: stage, number, sender, count (R330) -/
  tries : List (Nat × Nat × Nat × Nat)
  /-- stage, round and sender of barrier tokens, and the stages and rounds sent (R320) -/
  tokens : List (Nat × Nat × Nat)
  tokenAt : Nat
  written : List (Nat × Nat)
  anyNan : Bool
  anySat : Bool
  /-- the rails' comparisons of the output groups that CB writes next (R220) -/
  rails : List RailObs
  /-- elapsed time of the last progress of each partner (R336) -/
  progress : List (Nat × Nat)
  deriving DecidableEq, Repr

/-- A hardware context (R74, R77). -/
structure Ctx where
  state : CtxState
  priority : Nat
  saveArea : Nat
  errOn : Bool
  errSo : Nat
  preempt : Bool
  recOff : Nat
  q : Vector Queue 72
  su : Vector Summary 16
  colophon : Option Colophon
  streams : List Stream
  coll : Option Coll
  /-- control records in the control area that name a collective not yet started here (R324, R325) -/
  mail : List Trailer
  /-- units that must still save before a STOP completes, and the STOP command that waits (R98) -/
  savesLeft : List UnitId
  stopCmd : Option (ChanId × Nat)
  /-- units whose state for this context stands in its save area (R96) -/
  saved : List UnitId
  deriving DecidableEq, Repr

def Ctx.reset : Ctx :=
  { state := .empty, priority := 0, saveArea := 0, errOn := false, errSo := 0, preempt := false, recOff := 0,
    q := .replicate 72 Queue.reset, su := .replicate 16 Summary.zero, colophon := none, streams := [], coll := none, mail := [], savesLeft := [],
    stopCmd := none, saved := [] }

/-- A queue-bearing unit (R68, R73, R95, R96). -/
structure UnitSt where
  bound : Option CtxId
  lastCtx : CtxId
  lastQueue : Fin 4
  /-- asked to stop at its boundary and save the bound context (R96) -/
  stopping : Bool
  /-- at a boundary, stopped by the freeze, with its stop FT (R62) -/
  stopFt : Option Nat
  /-- a matrix engine that has reached a tile's end since it was asked to stop (R115) -/
  parked : Bool
  deriving DecidableEq, Repr

/-- A unit at reset: its turns begin at context 0 and queue 0 (R73, log 153). -/
def UnitSt.reset : UnitSt :=
  { bound := none, lastCtx := 7, lastQueue := 3, stopping := false, stopFt := none, parked := false }

/-- A held release (R85). -/
structure Release where
  ft : Int
  obj : Nat
  set : Bool
  val : Nat
  deriving DecidableEq, Repr

/-- Whether a die is in service (R27, R472). -/
inductive Presence where
  | inService | resetting | isolated
  deriving DecidableEq, Repr

/-! ## Remote operations (09) -/

/-- What a remote operation belongs to. -/
inductive Owner where
  | descriptor (q : QueueId) (pos : Pos)
  | header (q : QueueId) (pos : Pos)
  | settle
  /-- a descriptor whose queue was cleared or unloaded since: its operations end for nobody -/
  | orphan
  | command (c : ChanId) (seq : Nat)
  | copier (d : DieId)
  | collective (d : DieId) (x : CtxId)
  deriving DecidableEq, Repr

/-- A place in the memory of a die: SRAM or a stack offset. -/
structure Place where
  die : DieId
  sram : Bool
  off : Nat
  deriving DecidableEq, Repr

/-- Where the data of a reply goes: nowhere, local memory of the source die, a place of it, a
remote store, a PULL. -/
inductive Sink where
  | nowhere
  | memory (sram : Bool) (off : Nat)
  | place (p : Place)
  | relay (target : Nat)
  | pull (off : Nat)
  /-- bytes of a row of a local tensor: base of the row, bytes of a unit and between units, first byte of the row that the
  data holds, bytes to skip and to take, and the bits of the row that are elements (R134, R209) -/
  | row (sram : Bool) (base unit step j0 skip len keep : Nat)
  /-- a numbered row that a combination awaits, with the bytes to skip and to take (R214) -/
  | buffer (idx skip len : Nat)
  deriving DecidableEq, Repr

/-- An operation of a source that has not completed (R273, R281). `key` is its destination key, `node` its node. -/
structure RemOp where
  id : Nat
  owner : Owner
  sink : Sink
  stream : Nat
  key : DestKey
  node : Nat
  target : Nat
  op : Nat
  wide : Bool
  signed : Bool
  clasp : Bool
  gclasp : Bool
  tag : Nat
  payload : List Byte
  /-- bytes counted against the window (R273) -/
  size : Nat
  release : Nat
  /-- sequence and N, from the first injection on -/
  seq : Option Nat
  fresh : Bool
  firstFt : Int
  lastFt : Int
  attempt : Nat
  /-- an attempt ended without a reply -/
  silent : Bool
  /-- NK backoff runs until this elapsed time -/
  backoff : Option Nat
  /-- elapsed time of the last injection -/
  sentAt : Nat
  /-- retry timeout, attempt limit, NK backoff and hot hold time in force when it was first sent (R274) -/
  timeout : Nat
  limit : Nat
  nkWait : Nat
  hotHold : Nat
  deriving DecidableEq, Repr

/-- The sequence state of a source for a destination key (R277, R279). -/
structure SrcKey where
  stream : Nat
  key : DestKey
  node : Nat
  next : Nat
  /-- the next request starts the sequence state: N = 1 -/
  fresh : Bool
  hotUntil : Nat
  /-- elapsed time at which all replies had arrived; none while some are outstanding -/
  idle : Option Nat
  settled : Bool
  deriving DecidableEq, Repr

structure Source where
  ops : List RemOp
  keys : List SrcKey
  /-- highest sequence issued per stream (R447) -/
  high : SMap Nat
  deriving DecidableEq, Repr

/-- A stream record of the reply cache (R278). -/
structure Record where
  node : Nat
  die : Nat
  stream : Nat
  epoch : Nat
  key : DestKey
  floor : Nat
  applied : List Nat
  last : Int
  created : Int
  deriving DecidableEq, Repr

/-- A result entry (R278): which record's sequence, its status and old value. -/
structure ResultEntry where
  node : Nat
  die : Nat
  stream : Nat
  key : DestKey
  seq : Nat
  status : Nat
  value : List Byte
  ft : Int
  deriving DecidableEq, Repr

/-- A request in the inbound queue (R275): its lane, lines applied, status so far, and data read so far. -/
structure Inbound where
  id : Nat
  req : Request
  lane : Nat
  hot : Bool
  place : Place
  line : Nat
  status : Nat
  data : List Byte
  held : Bool
  /-- a multicast delivery: the group's combination it belongs to -/
  group : Option Nat
  deriving DecidableEq, Repr

/-- A multicast store whose replies are combined (R267): outstanding local and forwarded copies, highest status so far, and
where the reply goes. -/
structure Combine where
  id : Nat
  req : Request
  left : Nat
  status : Nat
  nk : Bool
  hot : Bool
  arrival : Option PortId
  deriving DecidableEq, Repr

/-- The stitch-copy engine of a die at work (R463): the granules of a PREPARE still to copy, the granule in hand, and the
stores that have not applied. -/
structure CopyRun where
  seq : Nat
  left : List Nat
  granule : Nat
  ops : List Nat
  tagSent : Bool
  bytes : Nat
  status : Nat
  /-- the granule was not written since its copy began -/
  clean : Bool
  /-- pre-copy between stitches, not for a PREPARE -/
  early : Bool
  deriving DecidableEq, Repr

/-! ## Host transport, dictionary, CAN FD (13, 14) -/

inductive ChanState where
  | closed | opened | closing
  deriving DecidableEq, Repr

/-- An accepted command of a channel (R379). -/
structure HostCmd where
  seq : Nat
  /-- the payload: the record, then inline data (R373, R380) -/
  payload : List Byte
  gateOpen : Bool
  started : Bool
  /-- status and data once it has completed -/
  result : Option (Nat × List Byte)
  doneFt : Nat
  /-- remote operations whose replies it awaits -/
  ops : List Nat
  status : Nat
  /-- bytes of bulk data received (PUSH) or read (PULL) -/
  off : Nat
  /-- data of a PULL read so far: offset and bytes of each load -/
  data : List (Nat × List Byte)
  /-- sequences of its bulk packets that the host has not acknowledged -/
  bulk : List Nat
  deriving DecidableEq, Repr

/-- A sequenced packet that the host has not acknowledged (R378). -/
structure SentPacket where
  seq : Nat
  type : Nat
  payload : List Byte
  sentAt : Nat
  timeout : Nat
  backedOff : Bool
  deriving DecidableEq, Repr

structure Channel where
  state : ChanState
  addr : Nat
  port : Nat
  session : Nat
  key : Nat
  /-- next sequence expected: the cumulative acknowledgement a -/
  expect : Nat
  txNext : Nat
  /-- packets kept ahead of a gap -/
  held : List HostPacket
  /-- elapsed time at which the oldest unacknowledged kept packet came -/
  ackSince : Option Nat
  echo : Nat
  sent : List SentPacket
  cmds : List HostCmd
  /-- the last 4,096 completions: sequence and status, oldest first -/
  cache : List (Nat × Nat)
  /-- completed commands whose record is no longer held -/
  past : List Nat
  authAt : Option Nat
  /-- 0x5170: retransmissions, duplicates, buffer drops, window refusals, address refusals, authentication failures -/
  counts : Vector Nat 6
  deriving DecidableEq, Repr

def Channel.reset : Channel :=
  { state := .closed, addr := 0, port := 0, session := 0, key := 0, expect := 0, txNext := 0, held := [],
    ackSince := none, echo := 0, sent := [], cmds := [], cache := [], past := [], authAt := none,
    counts := .replicate 6 0 }

/-- The CAN FD transfer in hand (R403). `ready` when a write's data or a read's request is complete. -/
structure CanTransfer where
  write : Bool
  index : Nat
  sub : Nat
  total : Nat
  data : List Byte
  nextSeg : Nat
  ready : Bool
  lastAt : Nat
  deriving DecidableEq, Repr

structure CanSt where
  nodeId : Nat
  transfer : Option CanTransfer
  lastStatus : Nat
  heartbeatAt : Nat
  deriving DecidableEq, Repr

structure HostSt where
  ch : Vector Channel 64
  linkUp : Bool
  linkCodewords : Nat × Nat
  linkRatio : F32
  deriving DecidableEq, Repr

/-! ## Topology (10) -/

/-- The dimension plan (R286). -/
structure Plan where
  ident : Nat
  node : Nat
  sizes : Vector Nat 4
  ring : Bool
  mins : Vector Nat 4
  deriving DecidableEq, Repr

/-- A port's planned neighbour through one exit (R285). Kind 0 unused, 1 dimension link, 2 service link. -/
structure ExitPlan where
  node : Nat
  port : Nat
  kind : Nat
  dim : Nat
  deriving DecidableEq, Repr

/-- A port plan entry in force (R285). -/
structure PortPlan where
  a : ExitPlan
  b : ExitPlan
  shared : Bool
  quire : Fin 4
  initial : Nat
  /-- the 16 bytes as staged, for 0x4311 -/
  raw : Nat
  deriving DecidableEq, Repr

def ExitPlan.unused : ExitPlan := { node := 0, port := 0, kind := 0, dim := 0 }

def PortPlan.reset : PortPlan :=
  { a := .unused, b := .unused, shared := false, quire := 0, initial := 0, raw := 0 }

/-- The port states of R292, in its order from 0. -/
inductive PortState where
  | unused | training | discovery | up | down | held | disabled
  deriving DecidableEq, Repr

/-- A closed congestion record (R308): node, window FT, plan identity, and counts per port and bin. -/
structure CongRecord where
  node : Nat
  ft : Nat
  plan : Nat
  counts : SMap Nat
  deriving DecidableEq, Repr

structure TopoSt where
  plan : Plan
  /-- a committed plan that waits for its gutter: effective FT, the plan, the port entries as staged -/
  commit : Option (Nat × Plan × List PortPlan)
  joined : Bool
  /-- neighbours' state words: port, dimension, mask; and ring link bits by origin (R301) -/
  words : List (Nat × Nat × Nat)
  ringBits : SMap Nat
  /-- 0x5140: unroutable, fenced at ingress, hop limit; elapsed time of the last 0x0408 per node, plus 1 (R304) -/
  counts : Vector Nat 3
  unroutableAt : SMap Nat
  /-- the join condition is evaluated: from boot step 6 on (R294) -/
  watch : Bool
  /-- this module's ring link map as last flooded (R301) -/
  ringSent : Option Nat
  /-- samples of the congestion window, 8 × port + bin, and the latest record (R308) -/
  bins : SMap Nat
  record : CongRecord
  deriving DecidableEq, Repr

/-! ## Spine bridges (01) -/

/-- A bridge direction, numbered as R511: wires that failed, as 274 × section + w (R508); signal wires carried by a group's spare, by
group 16 × section + group, plus 1; sections whose clock runs on the spare; sections removed (R23 to R25); before step 4, the section
that carries the boot path, none where the map marks no section good (R413). -/
structure Bridge where
  failed : List Nat
  spares : SMap Nat
  clocks : List Nat
  removed : List Nat
  path : Option Nat
  deriving DecidableEq, Repr

def Bridge.reset : Bridge := { failed := [], spares := [], clocks := [], removed := [], path := some 0 }

/-! ## Optics (12) -/

/-- The slot states of 0x4530. -/
inductive SlotState where
  | inService | spare | withdrawn | retired | failed
  deriving DecidableEq, Repr

/-- A wavelength slot of a port. -/
structure SlotSt where
  st : SlotState
  /-- it carries traffic when it is not a spare (R344, R358) -/
  service : Bool
  line : Option Nat
  /-- elapsed time of its last calibration; converter resolution in force on it (R346) -/
  calAt : Nat
  res : Nat
  staleTold : Bool
  /-- it waits for two valid markers, at training, return or tip-in (R353) -/
  training : Bool
  /-- its calibration or retune passed at both ends, and its return waits for a gutter (R349, R355) -/
  passed : Bool
  good : Nat
  bad : Nat
  badFrames : Nat
  badWords : Nat
  sweeps : Nat
  /-- the return is of a retune: it raises 0x0503 (R355) -/
  retune : Bool
  /-- the line it is being rebound to (R359) -/
  newLine : Option Nat
  deriving DecidableEq, Repr

/-- The open-fibre states of R364. -/
inductive OpenState where
  | normal | shutdown | probe | answered
  deriving DecidableEq, Repr

/-- A micro-ring: its heater code, offset and last saved offset (R347). -/
structure RingSt where
  code : Nat
  offset : Int
  saved : Int
  deriving DecidableEq, Repr

structure PortOpt where
  slots : Vector SlotSt 18
  rings : Vector RingSt 36
  generation : Nat
  fibre : OpenState
  shut : Bool
  probeAt : Nat
  /-- 0x5160 -/
  counts : Vector Nat 7
  deriving DecidableEq, Repr

/-- A line of a comb: margin in 0.1 dB, failed (0x4518), below the threshold (0x0504 was raised), and the elapsed time at which
it fell below 0 dB (R357, R361). -/
structure LineSt where
  margin : Int
  failed : Bool
  low : Bool
  fellAt : Option Nat
  deriving DecidableEq, Repr

structure CombSt where
  lines : Vector LineSt 20
  failed : Bool
  deriving DecidableEq, Repr

def SlotSt.reset (k : Nat) : SlotSt :=
  { st := if k < 16 then .withdrawn else .spare, service := decide (k < 16), line := some k, calAt := 0, res := 6,
    staleTold := false, training := decide (k < 16), passed := false, good := 0, bad := 0, badFrames := 0, badWords := 0,
    sweeps := 0, retune := false, newLine := none }

def PortOpt.reset : PortOpt :=
  { slots := Vector.ofFn fun (k : Fin 18) => SlotSt.reset k.val, rings := .replicate 36 { code := 0, offset := 0, saved := 0 },
    generation := 0, fibre := .shutdown, shut := true, probeAt := 0, counts := .replicate 7 0 }

def CombSt.reset : CombSt :=
  { lines := .replicate 20 { margin := 0, failed := false, low := false, fellAt := none }, failed := false }

/-! ## Matrix engines (04) -/

/-- The tile loop of an MMA in progress (R111, R113, R125). -/
structure MmaRun where
  q : QueueId
  pos : Pos
  a : Tensor
  b : Tensor
  c : Tensor
  /-- the descriptor's QW7 and tag -/
  w7 : Nat
  tag : Nat
  /-- the seed of stochastic rounding when the descriptor started (R150) -/
  seed : Nat
  /-- tiles drained, panels of this tile drained -/
  tile : Nat
  panel : Nat
  /-- this tile is the recomputation of one that mismatched -/
  retry : Bool
  /-- drained panels of this tile in CB (R172): per panel its rows of FP32 bits or INT32; and their flags -/
  panels : List (List (List Nat))
  flags : Nat
  /-- K elements of this panel that stand in the accumulating bank since a save inside the tile, with its cells: value and S mark
  (R115) -/
  k : Nat := 0
  acc : List (List (Nat × Bool)) := []
  deriving DecidableEq, Repr

/-- A matrix engine (R101, R126 to R128, 0x2061, 0x5110). -/
structure Mx where
  removed : Bool
  /-- unchecked dimension: 0 none, 1 column, 2 row -/
  unchecked : Nat
  /-- a spare in use, whether it replaces a column, and the index it replaces -/
  spare : Bool
  column : Bool
  index : Nat
  /-- faults that await the next tile boundary (R126) -/
  found : List CellFault
  /-- self-test: slices of the round in progress, FT of the last passing round (R57, R482) -/
  slices : Nat
  failedRound : Bool
  passFt : Nat
  /-- the loop at work, then those started behind it (R72) -/
  runs : List MmaRun
  /-- banks 0 and 1, and the one that accumulates (R101, R113) -/
  banks : Vector (SMap Nat) 2
  bank : Fin 2
  /-- bank T, the self-test registers; and the checksum cells' registers of banks 0, 1 and T: the number of the first of the open
  values that they hold, none before they first take one (R101, R113, R123, log 130) -/
  test : Option Nat
  checks : Vector (Option Nat) 3
  recomputed : Nat
  failures : Nat
  deriving DecidableEq, Repr

def Mx.reset : Mx :=
  { removed := false, unchecked := 0, spare := false, column := false, index := 0, found := [], slices := 0,
    failedRound := false, passFt := 0, runs := [], banks := .replicate 2 [], bank := 0, test := none, checks := .replicate 3 none,
    recomputed := 0, failures := 0 }


/-! ## Manager and health (10, 17) -/

/-- A commit or rollback exchange that this module runs as manager, per partition tag (R467, R470). -/
structure Exchange where
  tag : Nat
  /-- highest sequence sent in a PREPARE, and the committed sequence (R468) -/
  prepared : Nat
  committed : Nat
  identity : Nat
  /-- REACHED held: node, reached FT -/
  reached : List (Nat × Nat)
  votes : List (Nat × Nat)
  restored : List Nat
  preparing : Bool
  /-- the target of the rollback in progress -/
  rolling : Option Nat
  /-- reached FTs of the previous stitch, and consecutive late stitches of a node (R487) -/
  previous : List (Nat × Nat)
  late : SMap Nat
  deriving DecidableEq, Repr

structure MgrSt where
  /-- role claimed after a manager's loss; role given up to a higher epoch (R310) -/
  claimed : Bool
  yielded : Bool
  /-- the manager followed since a claim, over 0x4350:03 -/
  followed : Option Nat
  /-- elapsed time of the last heartbeat heard or sent -/
  heardAt : Nat
  members : List Nat
  reports : List (Nat × MemberReport)
  exchanges : List Exchange
  /-- suggestions of this hour: score, node; start of the hour (R486) -/
  suggestions : List (Nat × Nat)
  hourStart : Nat
  deriving DecidableEq, Repr

def MgrSt.reset : MgrSt :=
  { claimed := false, yielded := false, followed := none, heardAt := 0, members := [], reports := [], exchanges := [],
    suggestions := [], hourStart := 0 }

/-- Health score and suggestion state (R484, R485): elapsed times since the score is below, or at the leaving level. -/
structure Health where
  score : Nat
  state : Nat
  belowSince : Option Nat
  aboveSince : Option Nat
  deriving DecidableEq, Repr

def Health.reset : Health := { score := 0, state := 0, belowSince := none, aboveSince := none }
/-! ## Security block (06, 15, 18) -/

/-- A record that waits for the security block of the serving control die, which signs one at a time (R182, R422). -/
inductive SignJob where
  | seal (q : QueueId) (pos : Pos)
  | attest (seq : Nat)
  deriving DecidableEq, Repr

/-- `puf`: the die key of each control die was reconstructed (R420). `unlocked`: a test unlock is in force until the next full
boot (R506); `challenge` is the captured one. -/
structure SecSt where
  jobs : List SignJob
  puf : Vector Bool 2
  unlocked : Bool
  challenge : Option (List Byte)
  deriving DecidableEq, Repr

/-- What the ROM mask holds beside its code: the SM3 digest of the vendor public key (R417) and the SM2 identifier of a test unlock
(R506). No boot changes it. -/
structure Rom where
  keyDigest : List Byte
  unlockId : List Byte
  deriving DecidableEq, Repr

def SecSt.reset : SecSt := { jobs := [], puf := .replicate 2 true, unlocked := false, challenge := none }


/-! ## Power (16) -/

/-- The power states of R433, in the order of their codes. -/
inductive PowerState where
  | run | idle | sleep | deepSleep | off
  deriving DecidableEq, Repr

/-- What the wake logic waits for while no boot runs: nothing, the input and bank conditions of R446, a wake of R439, or the
input's removal and return (R432). -/
inductive Supply where
  | on | waiting | off | tripped | absent
  deriving DecidableEq, Repr

/-- A refusal entry (R436). The refuser is a quire's number or a unit code. -/
structure RefusalEntry where
  target : Nat
  reason : Nat
  aborted : Bool
  unit : Bool
  refuser : Nat
  count : Nat
  ft : Nat
  deriving DecidableEq, Repr

structure PowerSt where
  st : PowerState
  supply : Supply
  /-- the entry in progress with its command (R434); exit commands in progress or that aborted it (R438) -/
  entering : Option (PowerState × Nat)
  leaving : List Nat
  refusals : List RefusalEntry
  /-- entries per power state (R447) -/
  entries : Vector Nat 5
  /-- 0x3000: when it was refreshed, 10 mV, 10 mA, W; and the 10 ms average in W (R430) -/
  shownAt : Nat
  volts : Nat
  amps : Nat
  watts : Nat
  average : Nat
  /-- core clock in MHz; engines stopped at the floor of 300 MHz (R430) -/
  clock : Nat
  stalled : Bool
  /-- thermal limit in W, throttling, elapsed time of its last step, and since when H is below 95.0 °C (R441) -/
  thermal : Nat
  throttling : Bool
  stepAt : Nat
  coolSince : Option Nat
  /-- elapsed times plus 1 of the last 0x070C and 0x070A (R430, R431) -/
  capAt : Nat
  overAt : Nat
  /-- an overcurrent trip is latched: the next boot raises 0x0709 (R432) -/
  tripped : Bool
  /-- the latched cause of a critical shutdown: 1 compute die, 2 stack, 3 input (R442) -/
  cause : Nat
  /-- hot spots of the compute dies, 0.1 °C (R440) -/
  hot : Vector Int 20
  /-- excluded sensors, 64 × die + site; consecutive readings far from the neighbours' median, by the same number (R440) -/
  excluded : List Nat
  strikes : SMap Nat
  deriving DecidableEq, Repr

def PowerSt.reset : PowerSt :=
  { st := .run, supply := .on, entering := none, leaving := [], refusals := [], entries := .replicate 5 0,
    shownAt := 0, volts := 0, amps := 0, watts := 0, average := 0, clock := 1200, stalled := false, thermal := 9600, throttling := false,
    stepAt := 0, coolSince := none, capAt := 0, overAt := 0, tripped := false, cause := 0, hot := .replicate 20 0,
    excluded := [], strikes := [] }

/-! ## Flash, firmware, boot (15, 16) -/

/-- The image in force as R416's header gives it; `digest` is of header block and body, none of the image that stands in flash at
the first boot (R416). `valid`: it passes R417 but for the floor. -/
structure Image where
  release : Nat
  security : Nat
  generations : Nat
  digest : Option (List Byte)
  valid : Bool
  deriving DecidableEq, Repr

/-- The image in flash at the first boot: the manual gives no release of it. -/
def Image.shipped : Image := { release := 0, security := 0, generations := 2, digest := none, valid := true }

/-- An endpaper (R447). -/
structure Endpaper where
  cause : Nat
  bootCount : Nat
  ft : Nat
  timeEpoch : Nat
  mgrEpoch : Nat
  planId : Nat
  leaseEpoch : Nat
  /-- per die: epoch; horizon, peak records, peak result entries -/
  epochs : List Nat
  marks : List (Int × Nat × Nat)
  /-- per quire: identity and reached FT of its last stitch -/
  stitches : List (Nat × Nat)
  /-- per channel: open, session, last accepted, last completed -/
  chans : List (Bool × Nat × Nat × Nat)
  /-- per die and stream, 256 × die + stream: highest sequence issued -/
  highest : SMap Nat
  refusals : List RefusalEntry
  entries : List Nat
  log : List Event
  deriving DecidableEq, Repr

/-- What follows an endpaper's write: the shed state's wait, Off, or a boot, extended or not. -/
inductive After where
  | shed | off | boot (extended : Bool)
  deriving DecidableEq, Repr

/-- The additions of the field part (R31, R32, R228): channels and lanes that training found failed, by stack; the spare channel that
a position took, as stack, position, channel; the per-wire map of the interconnect tests (R510). -/
structure FieldPart where
  channels : List (Nat × Nat)
  lanes : List (Nat × Nat × Nat)
  assigned : List (Nat × Nat × Nat)
  map : List Nat
  deriving DecidableEq, Repr

def FieldPart.empty : FieldPart := { channels := [], lanes := [], assigned := [], map := [] }

/-- The settings store's copy in force (R397, R421). -/
structure Store where
  vals : SMap Nat
  keysOk : Bool
  deriving DecidableEq, Repr

structure FlashSt where
  image : Image
  /-- the update area: written bytes and the extents written since the last erase (R424) -/
  staged : SMap Byte
  written : List (Nat × Nat)
  /-- a commit copy in progress: activation, its command, the image (R424) -/
  copy : Option (Nat × Nat × Image)
  /-- a vendor part that takes effect at the next full boot (R425); the field part, none when discarded (R419) -/
  vendorNext : Option VendorPart
  field : Option FieldPart
  /-- the security record: boot count, L, floor, lease epoch, claimant and FT, a held ROM event, unlocks (R409, R506) -/
  bootCount : Nat
  last : Nat
  floor : Nat
  lease : Nat × Nat × Nat
  heldRom : Bool
  unlocks : Nat
  /-- the settings store, and a save in progress with what it writes (R397) -/
  store : Option Store
  saving : Option (SMap Nat)
  saveWait : List Access
  /-- endpapers in the flash, oldest first, at most two (R447, R448); the one being written and what follows -/
  papers : List Endpaper
  writing : Option (Endpaper × After)
  deriving DecidableEq, Repr

def FlashSt.reset : FlashSt :=
  { image := Image.shipped, staged := [], written := [],
    copy := none, vendorNext := none, field := some FieldPart.empty, bootCount := 0, last := 0, floor := 0,
    lease := (0, 0, 0), heldRom := false, unlocks := 0, store := none, saving := none, saveWait := [], papers := [],
    writing := none }

structure BootSt where
  /-- the step in progress, 1 to 8; 9 once ready; 0 while dark -/
  stage : Nat
  extended : Bool
  startAt : Nat
  stepAt : Nat
  /-- 0x0808 of a wait in steps 6 and 7 was raised -/
  told : Bool
  /-- a claim was made at step 1 (R414) -/
  claimed : Bool
  /-- the ROM loader serves (R427) -/
  recovery : Bool
  /-- the field part was discarded at this boot (R419) -/
  discarded : Bool
  /-- the image that runs (R424) -/
  image : Image
  /-- the endpaper read at step 1 (R448) -/
  paper : Option Endpaper
  deriving DecidableEq, Repr

def BootSt.reset : BootSt :=
  { stage := 1, extended := false, startAt := 0, stepAt := 0, told := false, claimed := false, recovery := false,
    discarded := false, image := Image.shipped, paper := none }

/-! ## Control dies, lease, clocks (17) -/

/-- A control die (R30, R474, R478). -/
structure CtlSt where
  failed : Bool
  stopped : Bool
  /-- epoch and elapsed time of the last renewal it heard or sent -/
  epoch : Nat
  heardAt : Nat
  /-- elapsed times of its lockstep and watchdog restarts (R478) -/
  restarts : List Nat
  deriving DecidableEq, Repr

/-- A claim that asks for confirmation (R475): who, the accepted epoch, when it asked, when it last sent the CAN FD frame. -/
structure Claim where
  who : CtlId
  epoch : Nat
  askedAt : Nat
  canAt : Nat
  deriving DecidableEq, Repr

/-- A firmware warm restart in progress (R477): its cause, its start, its freeze FT, and the command it completes. -/
structure Warm where
  cause : Nat
  startAt : Nat
  freezeFt : Nat
  cmd : Option Nat
  deriving DecidableEq, Repr

structure GovSt where
  ctl : Vector CtlSt 2
  claim : Option Claim
  warm : Option Warm
  /-- warm restarts that commands asked for, cause and command; they wait for a commit copy (R428) -/
  warmWait : List (Nat × Nat)
  /-- clock generators that work, and the one in service (R473) -/
  gens : Vector Bool 2
  gen : CtlId
  /-- 0x5200: position, spare, FT (R481) -/
  spares : List (Nat × Nat × Nat)
  /-- a manager's record of when it heard management traffic from a node, elapsed time plus 1 (R475) -/
  traffic : SMap Nat
  deriving DecidableEq, Repr

def GovSt.reset : GovSt :=
  { ctl := .replicate 2 { failed := false, stopped := false, epoch := 0, heardAt := 0, restarts := [] }, claim := none,
    warm := none, warmWait := [], gens := .replicate 2 true, gen := 0, spares := [], traffic := [] }

/-! ## Observation and test (18) -/

/-- A trace record (R493). -/
structure TraceRec where
  type : Nat
  cls : Nat
  unit : Nat
  ctx : Nat
  ft : Nat
  cycle : Nat
  payload : Nat
  deriving DecidableEq, Repr

inductive RibbonState where
  | idle | armed | fired | frozen
  deriving DecidableEq, Repr

/-- A ribbon (R497): `left` is the post-trigger count still to come. -/
structure Ribbon where
  st : RibbonState
  kind : Nat
  spread : Bool
  post : Nat
  value : Nat
  fireFt : Nat
  index : Nat
  left : Nat
  deriving DecidableEq, Repr

def Ribbon.reset : Ribbon :=
  { st := .idle, kind := 0, spread := false, post := 0, value := 0, fireFt := 0, index := 0, left := 0 }

/-- Drops of a class that no record has reported yet: count, FT and cycle of the first (R495). -/
structure Drop where
  count : Nat
  ft : Nat
  cycle : Nat
  deriving DecidableEq, Repr

/-- A named dump entry (R499): the descriptors counted, and those that reached the step and await their dump. -/
structure DumpEntry where
  tag : Nat
  step : Nat
  sram : Bool
  off : Nat
  len : Nat
  count : Nat
  due : Option (QueueId × Pos)
  deriving DecidableEq, Repr

structure TraceSt where
  buf : List TraceRec
  /-- records written since the region was cleared (R494) -/
  written : Nat
  refused : Vector Bool 4
  drops : Vector Drop 4
  totals : Vector Nat 4
  mode : Nat
  classes : Nat
  units : Nat
  on : Bool
  ribbons : Vector Ribbon 4
  /-- frozen by a ribbon (R498) -/
  frozen : Bool
  dumps : Vector (Option DumpEntry) 16
  deriving DecidableEq, Repr

def TraceSt.reset : TraceSt :=
  { buf := [], written := 0, refused := .replicate 4 false,
    drops := .replicate 4 { count := 0, ft := 0, cycle := 0 }, totals := .replicate 4 0, mode := 0, classes := 3,
    units := 0xFFFFFF, on := true, ribbons := .replicate 4 Ribbon.reset, frozen := false, dumps := .replicate 16 none }

/-- A closed occupancy window of a die (R492): start, end, period, samples, bins by 8 × histogram + bin, and stall cycles. -/
structure OccRecord where
  start : Nat
  stop : Nat
  period : Nat
  samples : Nat
  bins : SMap Nat
  stalls : List Nat
  deriving DecidableEq, Repr

structure OccSt where
  period : Nat
  window : Nat
  start : Nat
  samples : Nat
  /-- the FT of the last sample -/
  sampledAt : Option Nat
  /-- bins of the window in progress, 1024 × die + 8 × histogram + bin; stall cycles, 4 × die + engine -/
  bins : SMap Nat
  stalls : SMap Nat
  last : Vector OccRecord 20
  deriving DecidableEq, Repr

def OccSt.reset : OccSt :=
  { period := 1000, window := 1000000, start := 0, samples := 0, sampledAt := none, bins := [], stalls := [],
    last := .replicate 20 { start := 0, stop := 0, period := 0, samples := 0, bins := [], stalls := [] } }

/-- The post-mortem image (R501, R502). -/
structure PostMortem where
  cause : Option Event
  ft : Nat
  later : Nat
  /-- it is being written; the command that asked for it -/
  writing : Bool
  cmd : Option Nat
  deriving DecidableEq, Repr

/-- The test access port (R504, R505): instruction, the boundary cells last captured and in force, the die select register. -/
structure TapSt where
  ir : Nat
  captured : Nat
  boundary : Nat
  bypass : Bool
  select : Word
  /-- dies between TDI and TDO by select bit; none when DIE_ACCESS acts as BYPASS -/
  chain : Option (List Nat)
  deriving DecidableEq, Repr

/-- The safe values of R504 stand in the boundary register: cell 1 is 1. -/
def TapSt.reset : TapSt := { ir := 3, captured := 0, boundary := 2, bypass := false, select := 0, chain := none }
/-! ## Units -/

/-- A quire's own state (R59, R60, R459, R469). -/
structure Quire where
  /-- elapsed time at which its first queue held at a STITCH, while queues hold -/
  heldSince : Option Nat
  timedOut : Bool
  mismatch : Bool
  /-- stitch reached: identity and FT, and whether REACHED was sent -/
  reached : Option (Nat × Nat)
  told : Bool
  /-- release that waits for its FT (R467 step 6): identity, FT -/
  release : Option (Nat × Nat)
  /-- sequence under copy, and the highest a PREPARE named (R463, R467) -/
  prep : Option Nat
  prepared : Nat
  /-- rollback in progress: target sequence, freeze FT; whether its restore has begun (R470) -/
  rollback : Option (Nat × Nat)
  restoring : Bool
  invalid : Bool
  /-- identity and FT of the last stitch reached (R447) -/
  stitch : Nat × Nat
  /-- last committed sequence (R469) -/
  lastCommitted : Nat
  deriving DecidableEq, Repr

def Quire.reset : Quire :=
  { heldSince := none, timedOut := false, mismatch := false, reached := none, told := false, release := none, prep := none, prepared := 0, rollback := none, restoring := false, invalid := false, stitch := (0, 0),
    lastCommitted := 0 }

/-- A stitch plan record in force (R460). -/
structure StitchPlan where
  preCopy : Bool
  base : Nat
  len : Nat
  block : Nat
  buddy : Nat
  deriving DecidableEq, Repr

/-- A compute die with its stack. -/
structure Die where
  ft : Nat
  cycles : Nat
  cyclePhase : Nat
  /-- start-up pair: core cycles and FT (R40) -/
  startPair : Nat × Nat
  presence : Presence
  quire : Option (Fin 4)
  lastQuire : Fin 4
  /-- it is zeroed, the quire it then joins, and the one it left: both stay stopped until then (R37) -/
  zeroing : Bool
  joining : Option (Fin 4)
  left : Option (Fin 4)
  epoch : Nat
  boundary : Int
  so : SMap Nat
  rel : List Release
  ctx : Vector Ctx 8
  unit : Vector UnitSt 18
  mx : Vector Mx 4
  /-- matrix flag words, context k and engine e at 4k + e (R154) -/
  flags : Vector Nat 32
  /-- self-test: the engine tested last (R57), and the FT at which the round of the die's engines began -/
  testLast : Fin 4
  roundFt : Nat
  /-- its command intake is frozen (R476); the lease as this die sees it: accepted epoch, holder, last renewal, limit -/
  intakeFrozen : Bool
  leaseEpoch : Nat
  leaseHolder : CtlId
  renewedAt : Nat
  leaseLimit : Nat
  leaseExpired : Bool
  dram : SMap Byte
  sram : SMap Byte
  /-- uncorrectable codewords (stack offset / 32) and SRAM words (offset / 32) (R225, R252) -/
  badDram : List Nat
  badSram : List Nat
  /-- corrected codewords that await write back (R225) -/
  corrected : List Nat
  /-- channel at each position, none when removed (R229) -/
  chanMap : List (Option Nat)
  /-- 0x5120: corrected and uncorrectable counts; key 2 × channel + (0 or 1), SRAM at 136 and 137 -/
  memCounts : SMap Nat
  /-- stitch copy: granules with D, with P (R462), and where each granule's committed copy is: 0 none, 1 slot 0, 2 slot 1 -/
  dirty : List Nat
  copied : List Nat
  slots : SMap Nat
  /-- the stitch plan record in force; a record that fails its checks; whether a valid one was ever read (R460) -/
  splan : Option StitchPlan
  splanBad : Bool
  /-- contexts as they stood at the last stitch reached and at the last committed one (R465, R470) -/
  snapNew : Option (Vector Ctx 8)
  snapOld : Option (Vector Ctx 8)
  /-- base and length of the tracked range in force (R460) -/
  tracked : Nat × Nat
  /-- reply cache: stream records, result entries, horizon FT (R278) -/
  recs : List Record
  results : List ResultEntry
  horizon : Int
  inbound : List Inbound
  /-- the hot state was reported at this elapsed time (R274) -/
  hotAt : Option Nat
  /-- held packets of the cut, with the combination that a multicast delivery belongs to (R63, R267) -/
  cutHold : List (Body × Option Nat)
  /-- words and codewords with a correctable error that no read has met: SRAM or DRAM, number (R225, R252) -/
  latent : List (Bool × Nat)
  /-- 0x5130: retries, cached replies, NK replies, stale discards, 0x20, 0x21, 0x22 -/
  remCounts : Vector Nat 7
  copy : Option CopyRun
  /-- 0x2111: the lane replaced in group g of channel c at 8 × c + g, default 0xFF (R227) -/
  lanes : SMap Nat
  /-- 0x3020, 0x3021: hottest layer (0.1 °C), refresh band, throttle step; residency in ns of the three bands and the steps 1 to
  3, and the elapsed time up to which it is counted (R240 to R242) -/
  temp : Int
  band : Nat
  step : Nat
  residency : Vector Nat 6
  tempAt : Nat
  /-- the channel that retrains, whether it is scheduled; unscheduled ones that wait (R245, R246) -/
  retrain : Option (Nat × Bool)
  /-- elapsed time at which it began -/
  retrainFrom : Nat
  retrainWait : List Nat
  /-- the stack is in self-refresh, from the entry to Sleep or Deep sleep to the exit (R249) -/
  selfRefresh : Bool
  /-- 0x5121: scheduled, unscheduled; per channel the elapsed time of its last training and its consecutive failures (R248) -/
  retrains : Nat × Nat
  trainAt : SMap Nat
  trainFails : SMap Nat
  /-- elapsed time of its last reset; isolated until the next full boot (R472) -/
  resetAt : Option Nat
  heldDown : Bool
  /-- peak stream records and result entries in use (R447) -/
  peaks : Nat × Nat
  trace : TraceSt
  /-- 0x5150: chunks sent, CRC and residue retransmissions, dual-rail recomputes, stream-held cycles, stragglers, aborts -/
  collCounts : Vector Nat 7
  deriving DecidableEq, Repr

def Die.reset : Die :=
  { ft := 0, cycles := 0, cyclePhase := 0, startPair := (0, 0), presence := .inService, quire := some 0, lastQuire := 0,
    zeroing := false, joining := none, left := none, epoch := 0, boundary := 0, so := [], rel := [], ctx := .replicate 8 Ctx.reset,
    unit := .replicate 18 UnitSt.reset, mx := .replicate 4 Mx.reset,
    flags := .replicate 32 0xFFFFFFFF00000000, testLast := 3, roundFt := 0, intakeFrozen := false, leaseEpoch := 0,
    leaseHolder := 0, renewedAt := 0, leaseLimit := 2000000, leaseExpired := false, dram := [], sram := [], badDram := [], badSram := [],
    corrected := [], chanMap := (List.range 64).map some, memCounts := [], dirty := [], copied := [], slots := [], splan := none, splanBad := false, snapNew := none, snapOld := none,
    tracked := (0, 0), recs := [], results := [],
    horizon := 0, inbound := [], hotAt := none, cutHold := [], latent := [], remCounts := .replicate 7 0,
    copy := none, lanes := [], temp := 0, band := 0, step := 0, residency := .replicate 6 0, tempAt := 0, retrain := none, retrainFrom := 0,
    retrainWait := [], selfRefresh := false, retrains := (0, 0), trainAt := [], trainFails := [], resetAt := none, heldDown := false, peaks := (0, 0),
    trace := TraceSt.reset, collCounts := .replicate 7 0 }

/-- A port's egress regulator (R295, R297): the window of 1 µs it counts in, bytes sent in it for Q0 to Q3, foreign transit and
management, and the foreign tag served last. -/
structure Regulator where
  window : Nat
  used : Vector Nat 6
  lastTag : Nat
  deriving DecidableEq, Repr

/-- A fabric or service port. -/
structure Port where
  time : PortTime
  plan : PortPlan
  state : PortState
  /-- low byte of the causing event (0x4311) -/
  cause : Nat
  /-- exit in service: 0 A, 1 B -/
  exit : Nat
  /-- elapsed time since which the port trains, or is down -/
  since : Nat
  /-- the exit that route tables still use while a steer's gutter lasts (R307) -/
  old : Option Nat
  /-- the plan's identity changed while the port was up: the next word after the gutter is judged (R307) -/
  recheck : Bool
  /-- packets waiting to leave, oldest first, 512 KiB at most (R300, R308), and those held back until there is room -/
  egress : List FabricPacket
  backlog : List FabricPacket
  reg : Regulator
  /-- the neighbour's last discovery word -/
  word : Option DiscoveryWord
  opt : PortOpt
  deriving DecidableEq, Repr

def Port.reset : Port := 
  { time := PortTime.reset, plan := PortPlan.reset, state := .unused, cause := 0, exit := 0, since := 0, old := none, recheck := false,
    egress := [], backlog := [], reg := { window := 0, used := .replicate 6 0, lastTag := 0 },
    word := none, opt := PortOpt.reset }

/-- What link control symbols carry besides time symbols, words and maps (R349, R354, R358). -/
inductive LinkWord where
  | calibrate (slot gutter : Nat)
  | move (slot spare gutter : Nat)
  | ack (gutter : Nat)
  | retired (slot : Nat)
  /-- the pause symbol of a generator switchover (R306) -/
  | pause
  deriving DecidableEq, Repr

/-- What left a unit of the module (log 8). -/
inductive Out where
  | align (ft : Nat)
  | timeSymbol (p : PortId) (sym : TimeSymbol)
  | can (ident : Nat) (data : List Byte)
  | host (k : HostPacket)
  | mgmt (node : Nat) (r : MgmtRecord)
  /-- an event record sent to the manager (R457) -/
  | event (node : Nat) (e : Event)
  /-- the frozen report: held packets, latest stop FT, dies absent (R64, R66) -/
  | frozen (held stop : Nat) (absent : List DieId)
  | notQuiescent (ft : Nat)
  | spine (at_ : DieId) (p : SpinePacket)
  | request (src : SrcDie) (r : Request)
  | reply (src : DieId) (r : Reply)
  | fabric (port : PortId) (p : FabricPacket)
  /-- a manager's heartbeat with its epoch, a watch record, a congestion record (R310, R486, R308) -/
  | heartbeat (node epoch : Nat)
  | watch (node : Nat)
  | congestion (node : Nat) (record : CongRecord)
  | link (p : PortId) (w : LinkWord)
  /-- the probe pulse of R364, with the marker that its frames carry -/
  | probe (p : PortId) (marker : Word)
  | discovery (p : PortId) (w : DiscoveryWord)
  | stateWord (p : PortId) (dim mask : Nat)
  | ringMap (p : PortId) (origin map : Nat)
  /-- a lease renewal and a claim over the spine (R414, R474) -/
  | renewal (epoch : Nat) (holder : CtlId)
  | claim (epoch : Nat) (who : CtlId)
  /-- a ribbon's spread over the spine (R497) -/
  | spread (d : DieId) (ribbon : Nat)
  /-- a status that answers a node's one-off gutter (R49, R58) -/
  | answer (node status : Nat)
  /-- a gutter schedule that a manager distributes, with its effective FT (R309) -/
  | schedule (node : Nat) (c : Schedule) (ft : Nat)
  /-- a member's port whose discovery outcome differs from the domain plan (R309) -/
  | discrepancy (node port outcome : Nat)
  /-- an ICMPv6 reply: type 129 or 136, source and destination, target, data (R372) -/
  | icmp (type tclass src dst target : Nat) (data : List Byte)
  deriving DecidableEq, Repr

structure State where
  pending : List Instr
  free : Nat
  /-- elapsed time in ns since power; an FT step does not change it -/
  mono : Nat
  /-- of the endpaper read at boot: valid, and its FT (0x3040) -/
  endValid : Bool
  endFt : Nat
  wire : List Out
  dies : Vector Die 20
  ports : Vector Port 48
  combs : Vector CombSt 16
  /-- elapsed time at which the calibration offsets were saved (R347) -/
  savedAt : Nat
  bridges : Vector Bridge 88
  /-- sources of remote operations: CD00 to CD19 and the host edge die (R256) -/
  src : Vector Source 21
  /-- numbers the remote operations and the combinations of the module -/
  nextOp : Nat
  combines : List Combine
  /-- FT counters of the control dies and of the edge dies OE0-OE7, HE (R38) -/
  ctlFt : Vector Nat 2
  edgeFt : Vector Nat 9
  /-- elapsed time at which a clock-generator switchover pause began (R473) -/
  pause : Option Nat
  /-- holder of the governing lease (0x2051) -/
  holder : CtlId
  /-- disabled folios, 2 × die + folio, with the reserve mark (0x2011, R33) -/
  disabled : List (Nat × Bool)
  vendor : VendorPart
  rom : Rom
  leaseEpoch : Nat
  mgrEpoch : Nat
  mgr : MgrSt
  health : Health
  sec : SecSt
  quires : Vector Quire 4
  time : TimeSt
  gut : GutterSt
  frz : FreezeSt
  log : EventLog
  topo : TopoSt
  host : HostSt
  can : CanSt
  power : PowerSt
  boot : BootSt
  flash : FlashSt
  gov : GovSt
  occ : OccSt
  pm : Option PostMortem
  tap : TapSt
  /-- values of writable dictionary entries that differ from the default; key 256 × index + sub-index (R408) -/
  dict : SMap Nat
  deriving DecidableEq, Repr

/-- Why the machine stops with a fault. No meaning of this model does: every failure the manual names is an effect on
State. The one reason stands for a state the manual rules out. -/
inductive Fault where
  /-- Raised by no meaning; safe. -/
  | unreachable
  deriving DecidableEq, Repr

/-- Why a command is refused. -/
inductive Refusal where
  /-- Raised by the dispatcher for a command without a meaning; safe. -/
  | notModelled (mnemonic : String)
  deriving DecidableEq, Repr


/-! ## Reset -/

def TimeSt.reset : TimeSt :=
  { lock := .unlocked, offset := 0, parent := none, epoch := 0, master := false, masterNode := 0, lostAt := 0, slew := 0,
    slewPhase := 0, devs := .replicate 31 0, firstLocked := false, noPathSince := none }

/-- The gutter schedule in force by default (R51). -/
def Schedule.reset : Schedule := { period := 1000000, phase := 0, length := 5000, guard := 500, ident := 0 }

def GutterSt.reset : GutterSt :=
  { sched := Schedule.reset, staged := none, now := none, lastStart := none, oneOffs := [], waiting := [], overrun := [],
    overruns := 0, degDeferrals := 0, deferrals := .replicate 7 0, steers := [], roundMs := 0 }

def Plan.reset : Plan := { ident := 0, node := 0, sizes := .replicate 4 1, ring := false, mins := .replicate 4 1 }

def TopoSt.reset : TopoSt :=
  { plan := Plan.reset, commit := none, joined := false, words := [], ringBits := [], counts := .replicate 3 0,
    unroutableAt := [], watch := false, ringSent := none, bins := [], record := { node := 0, ft := 0, plan := 0, counts := [] } }

def VendorPart.reset : VendorPart :=
  { grade := 2080, disabled := [], serial := List.replicate 16 0, revision := 0, asym := List.replicate 48 0,
    lineMin := List.replicate 320 0, badChannels := [], badSections := [], map := [], sensorCal := [], raw := [], identityKey := [],
    vendorKey := [], sigR := [], sigS := [] }

/-- The module right after reset: the start of the first full boot (log 1). -/
def State.reset : State :=
  { pending := [], free := 0, mono := 0, endValid := false, endFt := 0, wire := [], dies := .replicate 20 Die.reset,
    ports := .replicate 48 Port.reset, combs := .replicate 16 CombSt.reset, savedAt := 0,
    bridges := .replicate 88 Bridge.reset, src := .replicate 21 { ops := [], keys := [], high := [] }, nextOp := 0, combines := [],
    ctlFt := .replicate 2 0, edgeFt := .replicate 9 0, pause := none, holder := 0, disabled := [],
    vendor := VendorPart.reset, rom := { keyDigest := (leBytes 32 Config.romKeyDigest.toNat).reverse, unlockId := Config.unlockId }, leaseEpoch := 0, mgrEpoch := 0, mgr := MgrSt.reset, health := Health.reset, sec := SecSt.reset, quires := .replicate 4 Quire.reset,
    time := TimeSt.reset, gut := GutterSt.reset, frz := { pending := [], thaws := [], cut := none },
    log := { recs := [], lost := 0, nextSeq := 0, canTimes := [] }, topo := TopoSt.reset,
    host := { ch := .replicate 64 Channel.reset, linkUp := false, linkCodewords := (0, 0), linkRatio := 0 },
    can := { nodeId := 0, transfer := none, lastStatus := 0, heartbeatAt := 0 }, power := PowerSt.reset, boot := BootSt.reset,
    flash := FlashSt.reset, gov := GovSt.reset, occ := OccSt.reset, pm := none, tap := TapSt.reset, dict := [] }
end Sys2Proof.Machine
end

