-- ==== Sys2Proof/Machine/Table.lean ====
section
/-! DEFINITION. The object tables of R408 as data: which sub-indices exist, their size, access, range and default. Values the
module maintains are computed from State (Dict.lean). -/

namespace Sys2Proof.Machine

/-- Access rights (R393). -/
inductive Acc where
  | ro | rw | wo | const | rwq
  deriving DecidableEq, Repr

/-- A run of sub-indices of a run of indices. `size` is the type's size in bytes, none for DOM. `dflt` is the value of
the Default column (of a CONST entry, its value), 0 where the table gives none (log 6). -/
structure Entry where
  idxLo : Nat
  idxHi : Nat
  subLo : Nat
  subHi : Nat
  size : Option Nat
  acc : Acc
  lo : Nat
  hi : Nat
  dflt : Nat
  deriving DecidableEq, Repr

/-- One object's run of sub-indices. -/
def ent (idx lo hi size : Nat) (acc : Acc) (mn mx dflt : Nat) : Entry := ⟨idx, idx, lo, hi, some size, acc, mn, mx, dflt⟩

/-- A read-only or constant run. -/
def fix (idx lo hi size : Nat) (acc : Acc) (dflt : Nat) : Entry := ⟨idx, idx, lo, hi, some size, acc, 0, 0, dflt⟩

/-- A run over a range of indices. -/
def rng (lo hi subHi size : Nat) (acc : Acc) (mx dflt : Nat) : Entry := ⟨lo, hi, 1, subHi, some size, acc, 0, mx, dflt⟩

/-- A DOM entry. -/
def domain (idx : Nat) (subHi : Nat) : Entry := ⟨idx, idx, 1, subHi, none, .ro, 0, 0, 0⟩

def identityTable : List Entry :=
  [ fix 0x1000 1 1 4 .const 0x00500001,
    ent 0x1010 1 1 4 .wo 0x65766173 0x65766173 0, ent 0x1011 1 1 4 .wo 0x64616F6C 0x64616F6C 0,
    ent 0x1017 1 1 2 .rw 0 65535 1000,
    fix 0x1018 1 1 4 .const 0x0047D0A1, fix 0x1018 2 2 4 .const 0, fix 0x1018 3 3 4 .ro 0, fix 0x1018 4 4 16 .const 0,
    fix 0x1100 1 1 1 .ro 0, fix 0x1100 2 2 2 .const 1000, fix 0x1100 3 3 2 .const 5000, fix 0x1100 4 4 1 .ro 0,
    ent 0x1400 1 1 16 .rw 0 (2 ^ 128 - 1) 0, ent 0x1400 2 2 2 .rw 1 65535 18080, ent 0x1400 3 3 1 .rw 0 255 0,
    ent 0x1410 1 0x40 1 .rwq 0 255 0x80,
    ent 0x1420 1 1 4 .rw 20 10000 100, ent 0x1420 2 2 1 .rw 1 100 5, fix 0x1420 3 3 1 .const 100,
    fix 0x1420 4 4 2 .const 1024, fix 0x1420 5 5 2 .const 4096 ]

def shapeTable : List Entry :=
  [ fix 0x2010 1 1 2 .const 20, fix 0x2010 2 2 2 .const 5, fix 0x2010 3 3 2 .const 4, fix 0x2010 4 4 2 .const 80,
    fix 0x2010 5 5 2 .const 80, fix 0x2010 6 6 2 .const 2, fix 0x2010 7 7 2 .const 1, fix 0x2010 8 8 2 .const 8,
    fix 0x2010 9 9 2 .const 80, fix 0x2010 0x0A 0x0A 2 .const 128, fix 0x2010 0x0B 0x0B 2 .const 4096,
    fix 0x2010 0x0C 0x0C 2 .const 8, fix 0x2010 0x0D 0x0D 2 .const 44, fix 0x2010 0x0E 0x0E 2 .const 4,
    fix 0x2010 0x0F 0x0F 1 .const 1, fix 0x2010 0x10 0x10 4 .const 2, fix 0x2010 0x11 0x11 2 .ro 80 ]

def configTable : List Entry :=
  [ fix 0x2011 1 1 1 .ro 0, fix 0x2011 2 9 2 .ro 0,
    ent 0x2020 1 0x14 1 .rwq 0 255 0, fix 0x2021 1 4 1 .ro 0, ent 0x2022 1 4 1 .rw 0 100 25,
    ent 0x2030 1 0x14 1 .rwq 0 255 0, fix 0x2040 1 0x58 2 .ro 0, fix 0x2041 1 0x58 576 .ro 0,
    ent 0x2050 1 10 1 .rw 0 1 0, ent 0x2050 11 0x14 1 .rw 0 1 1, fix 0x2051 1 1 1 .ro 0, fix 0x2051 2 2 4 .ro 0,
    ent 0x2060 1 1 1 .rw 0 8 2, ent 0x2060 2 2 1 .rw 0 1 1, fix 0x2061 1 0x50 2 .ro 0,
    ent 0x2070 1 4 8 .rwq 0 (2 ^ 64 - 1) 0, ent 0x2071 1 1 1 .rw 0 8 4, ent 0x2071 2 2 1 .rw 0 1 0,
    ent 0x2072 1 1 2 .rwq 0 4096 256, rng 0x2080 0x2093 0x20 8 .ro 0 0xFFFFFFFF00000000,
    ent 0x2100 1 4 1 .rwq 0 80 0, ent 0x2101 1 1 2 .rwq 16 1024 64, fix 0x2102 1 0x64 4 .ro 0,
    fix 0x2110 1 0x14 64 .ro 0, fix 0x2111 1 0x14 544 .ro 0,
    ent 0x2120 1 1 2 .rw 10 10000 250, ent 0x2120 2 2 1 .rw 5 50 15, ent 0x2120 3 3 1 .rw 10 60 30,
    ent 0x2120 4 4 2 .rw 1 65535 64, ent 0x2121 1 1 1 .rw 0 168 24 ]

/-- 0x2103: minimum and maximum of class k of each quire (R239). -/
def regulatorTable : List Entry :=
  (List.range 4).flatMap fun q =>
    [(0, 40, 100), (1, 20, 100), (2, 10, 50), (3, 5, 25), (4, 5, 25)].flatMap fun (k, mn, mx) =>
      [ ent 0x2103 (1 + 10 * q + 2 * k) (1 + 10 * q + 2 * k) 1 .rwq 0 100 mn,
        ent 0x2103 (2 + 10 * q + 2 * k) (2 + 10 * q + 2 * k) 1 .rwq 1 100 mx ]

def powerTable : List Entry :=
  [ fix 0x3000 1 3 2 .ro 0, ent 0x3010 1 1 2 .rw 2000 9600 9600, fix 0x3010 2 2 2 .ro 0, fix 0x3010 3 3 1 .const 98,
    fix 0x3010 4 4 1 .const 105, fix 0x3011 1 0x14 2 .ro 0, fix 0x3020 1 0x14 2 .ro 0, fix 0x3021 1 0x14 1 .ro 0,
    fix 0x3030 1 1 1 .ro 0, domain 0x3031 1, fix 0x3040 1 1 2 .const 46000, fix 0x3040 2 2 1 .ro 0,
    fix 0x3040 3 3 8 .ro 0 ]

def timeTable : List Entry :=
  [ fix 0x4100 1 1 8 .ro 0, fix 0x4100 2 2 1 .ro 0, fix 0x4100 3 3 8 .ro 0, fix 0x4100 4 4 1 .ro 0xFF,
    fix 0x4100 5 5 4 .ro 0xFFFFFFFF, fix 0x4100 6 6 4 .ro 0,
    ent 0x4101 1 1 1 .rw 0 2 0, ent 0x4101 2 2 2 .rw 1 1000 10, ent 0x4101 3 3 8 .rw 0 (2 ^ 64 - 1) 0,
    fix 0x4102 1 0x28 8 .ro 0, ent 0x4110 1 0x30 4 .rw 0 (2 ^ 32 - 1) 0,
    ent 0x4120 1 1 4 .rw 100000 1000000000 1000000, ent 0x4120 2 2 4 .rw 0 (2 ^ 32 - 1) 0,
    ent 0x4120 3 3 4 .rw 5000 100000 5000, ent 0x4120 4 4 2 .rw 200 5000 500,
    ent 0x4120 5 5 8 .rw 0 (2 ^ 64 - 1) 0, ent 0x4120 6 6 4 .rw 0 (2 ^ 32 - 1) 0,
    fix 0x4121 1 3 4 .ro 0, fix 0x4121 4 4 2 .ro 0, fix 0x4121 6 6 4 .ro 0,
    fix 0x4122 1 0x0A 4 .ro 0,
    fix 0x4130 1 1 4 .const 50000, ent 0x4130 2 2 2 .rw 1 60000 100, ent 0x4130 3 3 2 .rw 10 10000 100 ]

def remoteTable : List Entry :=
  [ ent 0x4200 1 1 4 .rw 20 100000 200, ent 0x4200 2 2 1 .rw 1 8 4, ent 0x4200 3 3 2 .rw 1 1000 5,
    ent 0x4200 4 4 2 .rw 64 16384 1024, ent 0x4200 5 5 2 .rw 1 1000 10, fix 0x4200 6 6 2 .const 1000,
    fix 0x4200 7 7 4 .const 64, fix 0x4200 8 8 4 .const 262144, fix 0x4200 9 9 4 .const 4,
    fix 0x4200 0x0A 0x0A 4 .const 16384, ent 0x4200 0x0B 0x0B 2 .rw 1 600 10, fix 0x4200 0x0C 0x0C 2 .const 10,
    fix 0x4202 1 0x14 2 .ro 0, fix 0x4202 0x15 0x28 8 .ro 0, rng 0x4210 0x422F 0x80 32 .rwq (2 ^ 256 - 1) 0 ]
  ++ (List.range 20).flatMap fun n =>
    [ fix 0x4201 (1 + 3 * n) (1 + 3 * n) 8 .ro 0, fix 0x4201 (2 + 3 * n) (3 + 3 * n) 4 .ro 0 ]

def fabricTable : List Entry :=
  [ ent 0x4300 1 1 4 .rw 0 (2 ^ 32 - 1) 0, ent 0x4300 2 2 2 .rw 0 65534 0, ent 0x4300 3 6 1 .rw 0 255 1,
    ent 0x4300 7 7 1 .rw 0 1 0, ent 0x4300 8 0x0B 1 .rw 0 44 1, ent 0x4300 0x0C 0x0C 8 .rw 0 (2 ^ 64 - 1) 0,
    fix 0x4301 1 1 4 .ro 0, fix 0x4301 2 2 2 .ro 0, fix 0x4301 3 0x0B 1 .ro 0,
    ent 0x4310 1 0x30 16 .rw 0 (2 ^ 128 - 1) 0, fix 0x4311 1 0x30 24 .ro 0,
    ent 0x4312 1 0x80 8 .rw 0 (2 ^ 64 - 1) 0, fix 0x4320 1 0x80 8 .ro 0, fix 0x4321 1 1 4 .ro 0,
    ent 0x4330 1 1 1 .rwq 0 255 1, ent 0x4330 2 2 1 .rwq 0 255 2, ent 0x4330 3 3 1 .rwq 0 255 3,
    ent 0x4330 4 4 1 .rwq 0 255 4, ent 0x4330 5 8 1 .rwq 0 1 0, ent 0x4331 1 0xF0 1 .rw 0 100 20,
    fix 0x4340 1 1 416 .ro 0, ent 0x4350 1 1 1 .rw 0 2 0, ent 0x4350 2 2 4 .rw 0 (2 ^ 32 - 1) 0,
    ent 0x4350 3 4 2 .rw 0 0xFFFF 0xFFFF, ent 0x4350 5 5 2 .rw 1 1000 10, fix 0x4350 6 6 4 .ro 0,
    ent 0x4400 1 1 2 .rw 16 256 64, ent 0x4400 2 2 2 .rw 1 10000 50, ent 0x4400 3 3 1 .rw 0 7 2 ]

def opticsTable : List Entry :=
  [ ent 0x4500 1 1 1 .rw 10 60 20, ent 0x4500 2 2 2 .rw 1 3600 60, ent 0x4500 3 3 1 .rw 1 168 8,
    ent 0x4500 4 4 1 .rw 4 8 6, fix 0x4500 5 5 2 .const 100, fix 0x4500 6 6 2 .const 100, fix 0x4500 7 7 2 .const 2,
    fix 0x4500 8 8 2 .const 1000, fix 0x4500 9 9 2 .const 3, fix 0x4510 1 0x30 4 .ro 0,
    rng 0x4518 0x451F 0x28 4 .ro 0 0, fix 0x4520 1 1 1 .ro 0, fix 0x4520 2 3 8 .ro 0, fix 0x4520 4 4 4 .ro 0,
    rng 0x4530 0x455F 0x12 4 .ro 0 0 ]

def faultTable : List Entry :=
  [ fix 0x5000 1 1 2 .ro 0, fix 0x5000 2 2 32 .ro 0, fix 0x5000 3 3 4 .ro 0, fix 0x5100 1 1 2 .ro 0,
    ent 0x5100 2 2 2 .rw 0 1000 300, ent 0x5100 3 3 2 .rw 1 1440 10, ent 0x5100 4 4 2 .rw 0 512 4,
    fix 0x5100 5 5 1 .ro 0, fix 0x5110 1 0x50 8 .ro 0, fix 0x5120 1 0x14 552 .ro 0, fix 0x5121 1 0x14 8 .ro 0,
    fix 0x5122 1 0x78 4 .ro 0, fix 0x5130 1 0x14 56 .ro 0, fix 0x5140 1 3 8 .ro 0, fix 0x5150 1 0x14 56 .ro 0,
    fix 0x5160 1 0x30 28 .ro 0, fix 0x5170 1 0x40 48 .ro 0, domain 0x5200 1, domain 0x6000 0x14,
    ent 0x6010 1 1 2 .rwq 0 4096 64, ent 0x6020 1 1 1 .rwq 0 51 48, fix 0x7000 1 1 64 .ro 0, fix 0x7000 2 2 4 .ro 0,
    fix 0x7000 3 4 32 .ro 0, ent 0x7110 1 0x40 32 .wo 0 (2 ^ 256 - 1) 0 ]

/-- Every object of the module (R408); sub-index 0x00 of each is answered beside it (R391). -/
def objectTable : List Entry :=
  identityTable ++ shapeTable ++ configTable ++ regulatorTable ++ powerTable ++ timeTable ++ remoteTable ++ fabricTable
    ++ opticsTable ++ faultTable

def Entry.hasIndex (e : Entry) (idx : Nat) : Bool := decide (e.idxLo ≤ idx) && decide (idx ≤ e.idxHi)

def Entry.covers (e : Entry) (idx sub : Nat) : Bool := e.hasIndex idx && decide (e.subLo ≤ sub) && decide (sub ≤ e.subHi)

def findEntry (idx sub : Nat) : Option Entry := objectTable.find? (·.covers idx sub)

/-- The highest sub-index an object implements, at its sub-index 0x00 (R391). -/
def highestSub (idx : Nat) : Nat := ((objectTable.filter (·.hasIndex idx)).map (·.subHi)).foldl Nat.max 0

/-- Key of a sub-index in State's store. -/
def dictKey (idx sub : Nat) : Nat := 256 * idx + sub

def tableDefault (idx sub : Nat) : Nat := match findEntry idx sub with
  | some e => e.dflt
  | none => 0

/-- The value that a writable sub-index holds (R397). -/
def State.setting (s : State) (idx sub : Nat) : Nat := SMap.get (tableDefault idx sub) s.dict (dictKey idx sub)

/-- Gives a writable sub-index a value; a value equal to the default is not listed. -/
def State.setSetting (s : State) (idx sub v : Nat) : State :=
  { s with dict := SMap.set (tableDefault idx sub) s.dict (dictKey idx sub) v }

end Sys2Proof.Machine
end

