-- ==== Sys2Proof/Machine/Emit.lean ====
section
/-! DEFINITION. The trace unit of a die: what it accepts and what it drops (R493 to R498). -/

namespace Sys2Proof.Machine

/-- Records held at which a class is refused, and below which it is accepted again (R495). Class 0 has the whole buffer. -/
def traceStart (cls : Nat) : Nat := [16384, 15360, 12288, 8192].getD cls 16384

def traceStop (cls : Nat) : Nat := [16384, 11264, 8192, 4096].getD cls 16384

/-- A ribbon's post-trigger count is reached: nothing further is accepted (R498). -/
def TraceSt.reached (t : TraceSt) : Bool := t.ribbons.toList.any fun r => r.st == .fired && r.left == 0

def clsOf (r : TraceRec) : Fin 4 := ⟨r.cls % 4, by omega⟩

/-- Counts a record as dropped, with the stamp of the first of its run (R495). -/
def TraceSt.drop (t : TraceSt) (r : TraceRec) : TraceSt :=
  let k := clsOf r
  let d := t.drops[k]
  { t with totals := t.totals.set k (t.totals[k] + 1),
           drops := t.drops.set k (if d.count = 0 then { count := 1, ft := r.ft, cycle := r.cycle }
             else { d with count := min (d.count + 1) 0xFFFFFFFF }) }

/-- Records lost after they were taken: they await a drop-count record like dropped ones (R254). -/
def TraceSt.lose (t : TraceSt) (k : Fin 4) (r : TraceRec) (n : Nat) : TraceSt :=
  let d := t.drops[k]
  { t with drops := t.drops.set k (if d.count = 0 then { count := n, ft := r.ft, cycle := r.cycle }
             else { d with count := min (d.count + n) 0xFFFFFFFF }) }

/-- Takes a record into the buffer; fired ribbons count it (R497). -/
def TraceSt.push (t : TraceSt) (r : TraceRec) : TraceSt :=
  { t with buf := t.buf ++ [r],
           ribbons := t.ribbons.map fun (b : Ribbon) => if b.st = .fired then { b with left := b.left - 1 } else b }

/-- Writes a class's drop-count record, when it has drops to report. The unit of that record is not stated: it is the
unit whose record is accepted next (log 51). -/
def TraceSt.flush (t : TraceSt) (k : Fin 4) (unit : Nat) : TraceSt :=
  let d := t.drops[k]
  if d.count = 0 then t
  else TraceSt.push { t with drops := t.drops.set k { count := 0, ft := 0, cycle := 0 } }
    { type := 3, cls := 0, unit := unit, ctx := 0, ft := d.ft, cycle := d.cycle, payload := d.count * 2 ^ 8 + k.val * 2 ^ 6 }

/-- A record of an enabled class and unit: accepted, or dropped by its class's threshold or after a ribbon's count (R495,
R498). -/
def TraceSt.accept (t : TraceSt) (r : TraceRec) : TraceSt :=
  if !t.on || !bit t.classes r.cls || !bit t.units r.unit then t
  else
    let k := clsOf r
    let n := t.buf.length
    let refused : Bool := if t.refused[k] then decide (traceStop r.cls ≤ n) else decide (traceStart r.cls ≤ n)
    let t := { t with refused := t.refused.set k refused }
    if refused || t.frozen || t.reached then t.drop r else (t.flush k r.unit).push r

/-- The record of a ribbon's firing is written while the buffer has room, frozen or not (R498, R503). -/
def TraceSt.acceptRibbon (t : TraceSt) (r : TraceRec) : TraceSt :=
  if t.buf.length < 16384 then t.push r else t.drop r

/-- The 128 bits of a record (R493). -/
def TraceRec.word (r : TraceRec) : Nat :=
  r.type * 2 ^ 122 + r.cls * 2 ^ 120 + r.unit * 2 ^ 115 + r.ctx * 2 ^ 112 + r.ft * 2 ^ 72 + r.cycle * 2 ^ 40 + r.payload

def TraceRec.bytes (r : TraceRec) : List Byte := leBytes 16 r.word

/-- A record of a die now. -/
def Die.stamp (x : Die) (type cls unit ctx payload : Nat) : TraceRec :=
  { type := type, cls := cls, unit := unit, ctx := ctx, ft := x.ft % 2 ^ 40, cycle := x.cycles % 2 ^ 32,
    payload := payload % 2 ^ 40 }

/-- Counts a descriptor that starts in the dump entries of its tag; one that reaches its step awaits its dump (R499). -/
def TraceSt.countTag (t : TraceSt) (tag : Nat) (q : QueueId) (p : Pos) : TraceSt :=
  if tag = 0 then t else
  { t with dumps := t.dumps.map fun (e : Option DumpEntry) => e.map fun (e : DumpEntry) =>
      if e.tag = tag ∧ e.due.isNone then { e with count := e.count + 1, due := if e.count = e.step then some (q, p) else none }
      else e }

/-- Whether a descriptor awaits a dump (R500). -/
def TraceSt.dumpDue (t : TraceSt) (q : QueueId) (p : Pos) : Bool :=
  t.dumps.toList.any fun e => match e with
    | some e => e.due == some (q, p)
    | none => false

end Sys2Proof.Machine
end

