-- ==== Sys2Proof/Machine/Ops.lean ====
section
/-! DEFINITION. The named operations that every meaning is built from: access to units, settings, free values, fabric time,
memory with its codes, event records, synchronisation objects and the failure of a descriptor. -/

namespace Sys2Proof.Machine

abbrev Result := Host.Outcome State Fault Refusal

/-! ## Access to units -/

def State.die (s : State) (d : DieId) : Die := s.dies[d]

def State.setDie (s : State) (d : DieId) (x : Die) : State := { s with dies := s.dies.set d x }

def State.updDie (s : State) (d : DieId) (f : Die → Die) : State := s.setDie d (f (s.die d))

def State.port (s : State) (p : PortId) : Port := s.ports[p]

def State.updPort (s : State) (p : PortId) (f : Port → Port) : State := { s with ports := s.ports.set p (f s.ports[p]) }

def State.quire (s : State) (k : Fin 4) : Quire := s.quires[k]

def State.updQuire (s : State) (k : Fin 4) (f : Quire → Quire) : State :=
  { s with quires := s.quires.set k (f s.quires[k]) }

def Die.getCtx (x : Die) (c : CtxId) : Ctx := x.ctx[c]

def Die.updCtx (x : Die) (c : CtxId) (f : Ctx → Ctx) : Die := { x with ctx := x.ctx.set c (f x.ctx[c]) }

def State.getCtx (s : State) (d : DieId) (c : CtxId) : Ctx := (s.die d).getCtx c

def State.updCtx (s : State) (d : DieId) (c : CtxId) (f : Ctx → Ctx) : State := s.updDie d (·.updCtx c f)

def State.getUnit (s : State) (d : DieId) (u : UnitId) : UnitSt := (s.die d).unit[u]

def State.updUnit (s : State) (d : DieId) (u : UnitId) (f : UnitSt → UnitSt) : State :=
  s.updDie d fun x => { x with unit := x.unit.set u (f x.unit[u]) }

def State.queue (s : State) (q : QueueId) : Queue := (s.getCtx q.die q.ctx).q[q.slot]

def State.updQueue (s : State) (q : QueueId) (f : Queue → Queue) : State :=
  s.updCtx q.die q.ctx fun x => { x with q := x.q.set q.slot (f x.q[q.slot]) }

def State.chan (s : State) (c : ChanId) : Channel := s.host.ch[c]

def State.updChan (s : State) (c : ChanId) (f : Channel → Channel) : State :=
  { s with host.ch := s.host.ch.set c (f s.host.ch[c]) }

/-- The unit of a queue record and its queue number (R74). -/
def qUnit (q : QueueId) : UnitId := ⟨q.slot.val / 4, by omega⟩

def qNum (q : QueueId) : Nat := q.slot.val % 4

def allDies : List DieId := List.finRange 20
def allPorts : List PortId := List.finRange 48
def allCtx : List CtxId := List.finRange 8
def allSlots72 : List (Fin 72) := List.finRange 72
def allUnits : List UnitId := List.finRange 18
def allQuires : List (Fin 4) := List.finRange 4
def allChans : List ChanId := List.finRange 64

/-- The dies of a quire, ascending (R35). -/
def State.diesOf (s : State) (k : Fin 4) : List DieId := allDies.filter fun d => (s.die d).quire == some k

/-- Sends a thing: appends it to the wire (log 8). -/
def State.send (s : State) (o : Out) : State := { s with wire := s.wire ++ [o] }

def State.sendAll (s : State) (os : List Out) : State := { s with wire := s.wire ++ os }

/-- The next free value below a bound of 2^64, and the state that has used it (log 4). -/
def State.fresh (s : State) (bound : Nat) : Nat × State :=
  ((Config.freeValue s.free).toNat % bound, { s with free := s.free + 1 })

/-- The codes of the 8-bit completion status: the only ones that ever appear (R99). -/
def statusCodes : List Nat :=
  [0x00, 0x01, 0x02, 0x03, 0x04, 0x05, 0x06, 0x07, 0x08, 0x09, 0x0A, 0x0B, 0x0C, 0x10, 0x11, 0x12, 0x13, 0x14, 0x15,
   0x20, 0x21, 0x22, 0x30, 0x31, 0x32, 0x33, 0x40, 0x41, 0x42, 0x43, 0x50, 0x51, 0x52, 0x53, 0x60]

/-- A status that the manual leaves open: one of R99's codes (log 4). -/
def State.freshStatus (s : State) : Nat × State :=
  let (k, s) := s.fresh statusCodes.length
  (statusCodes.getD k 0, s)

/-- n bytes that the manual leaves open (log 4). -/
def State.freshBytes (s : State) (n : Nat) : List Byte × State :=
  ((List.range n).map fun i => (Config.freeValue (s.free + i)).truncate 8, { s with free := s.free + n })

/-- Fabric time of the module: the counter of the control die that governs (R38). -/
def State.now (s : State) : Nat := s.ctlFt[s.holder]

/-! ## Spine bridges and the paths of the other dies (R22, R25 to R27, R413, R511) -/

/-- The compute die that an optical edge die is attached to, and its ports' (R22). -/
def edgeDie (n : Nat) : DieId := [0, 1, 3, 4, 15, 16, 18, 19].getD n 0

def portDie (p : PortId) : DieId := edgeDie (p.val / 6)

/-- Bridge direction from one grid die to an adjacent one; none when they are not adjacent. -/
def gridBridge (x y : DieId) : Option (Fin 88) :=
  let lo := min x.val y.val
  let hi := max x.val y.val
  let d := if x.val = lo then 0 else 1
  if lo + 1 = hi ∧ lo % 5 ≠ 4 then some ⟨(2 * (4 * (lo / 5) + lo % 5) + d) % 88, by omega⟩
  else if lo + 5 = hi then some ⟨(2 * (16 + 5 * (lo / 5) + lo % 5) + d) % 88, by omega⟩
  else none

/-- The lower-numbered compute die of a bridge (R454, R511). -/
def bridgeDie (b : Nat) : DieId :=
  if b < 16 then ⟨(5 * (b / 4) + b % 4) % 20, by omega⟩
  else if b < 31 then ⟨(b - 16) % 20, by omega⟩
  else if b < 39 then edgeDie (b - 31)
  else [2, 5, 10, 9, 14].getD (b - 39) 2

/-- Sections built into a bridge direction: 32, or 8 of a quarter bridge. -/
def sectionsBuilt (b : Nat) : Nat := if b / 2 < 39 then 32 else 8

def State.bridge (s : State) (b : Fin 88) : Bridge := s.bridges[b]

/-- Whether the spine still runs on its boot paths: until step 4 ends (R413). -/
def State.onBootPaths (s : State) : Bool := decide (1 ≤ s.boot.stage) && decide (s.boot.stage ≤ 4)

/-- Whether a section of a bridge direction is in service: before step 4 ends the boot path alone (R413), then every section that
training left and that no overrun eye scan keeps out (R25, R54). -/
def State.sectionUp (s : State) (b : Fin 88) (sec : Nat) : Bool :=
  if s.onBootPaths then (s.bridge b).path == some sec
  else !(s.bridge b).removed.contains sec && !s.gut.overrun.any fun a => a.res == .section_ b.val sec

/-- Sections of a bridge direction in service. -/
def State.sectionsUp (s : State) (b : Fin 88) : Nat := ((List.range (sectionsBuilt b.val)).filter (s.sectionUp b)).length

/-- 0x2040: state 0 full, 1 reduced, 2 removed, below half of the sections built. Before step 4 a direction runs reduced to its
boot path, and is removed where it has none (R413). -/
def State.bridgeState (s : State) (b : Fin 88) : Nat :=
  let n := s.sectionsUp b
  if s.onBootPaths then (if n = 0 then 2 else 1)
  else if 2 * n < sectionsBuilt b.val then 2 else if n < sectionsBuilt b.val then 1 else 0

/-- The next die on a virtual channel: X first on channel 0, Y first on channel 1. -/
def nextDie (vc : Bool) (x t : DieId) : DieId :=
  let xStep (v : Nat) : Nat := if v % 5 < t.val % 5 then v + 1 else v - 1
  let yStep (v : Nat) : Nat := if v / 5 < t.val / 5 then v + 5 else v - 5
  let v := x.val
  let n := if v = t.val then v
    else if vc then (if v / 5 ≠ t.val / 5 then yStep v else xStep v)
    else if v % 5 ≠ t.val % 5 then xStep v else yStep v
  ⟨n % 20, by omega⟩

/-- Whether a path is clear: no isolated die, no removed bridge direction. A path has at most 7 hops. -/
def State.pathClear (s : State) (vc : Bool) : Nat → DieId → DieId → Bool
  | 0, x, t => x == t
  | fuel + 1, x, t =>
    if x = t then true
    else
      let y := nextDie vc x t
      (s.die y).presence == .inService && (match gridBridge x y with
        | some b => s.bridgeState b != 2
        | none => false) && s.pathClear vc fuel y t

/-- Whether the spine reaches one compute die from another (R26). -/
def State.reaches (s : State) (x t : DieId) : Bool :=
  x == t || ((s.die t).presence == .inService && (s.pathClear false 7 x t || s.pathClear true 7 x t))

/-- Whether a die's bridge to what is attached to it carries traffic both ways: the die is in service, and neither direction is
removed (R25, R27). -/
def State.edgePath (s : State) (d : DieId) (bridge : Nat) : Bool :=
  (s.die d).presence == .inService && s.bridgeState ⟨2 * bridge % 88, by omega⟩ != 2
    && s.bridgeState ⟨(2 * bridge + 1) % 88, by omega⟩ != 2

/-- The spine path of an optical edge die, and of the host edge die (R22, R27). -/
def State.opticPath (s : State) (n : Nat) : Bool := s.edgePath (edgeDie n) (31 + n % 8)

def State.hostPath (s : State) : Bool := s.edgePath 2 39

/-- The attachment dies of a control die that carry its traffic, first attachment first (R22, R27). -/
def State.ctlDies (s : State) (c : CtlId) : List DieId :=
  let at_ : List (DieId × Nat) := if c = 0 then [(5, 40), (10, 41)] else [(9, 42), (14, 43)]
  (at_.filter fun e => s.edgePath e.1 e.2).map (·.1)

/-- A control die keeps its spine path while either of its attachments remains (R27). -/
def State.ctlPath (s : State) (c : CtlId) : Bool := !(s.ctlDies c).isEmpty

/-- A control die that does not run: failed or stopped. -/
def State.ctlLost (s : State) (c : CtlId) : Bool := s.gov.ctl[c].failed || s.gov.ctl[c].stopped

/-- The control die that is not this one. -/
def otherCtl (c : CtlId) : CtlId := if c = 0 then 1 else 0

/-- Whether a control die governs the module: the holder works, and no firmware restart or recovery is under way (R30, R427,
R475, R477). -/
def State.governs (s : State) : Bool := !s.ctlLost s.holder && s.gov.warm.isNone && !s.boot.recovery

/-- The control die that serves a compute die: its entry of 0x2050, the other one when that has failed, none when both have
(R30). -/
def State.server (s : State) (d : DieId) : Option CtlId :=
  let c : CtlId := if s.setting 0x2050 (d.val + 1) = 0 then 0 else 1
  if !s.ctlLost c then some c else if !s.ctlLost (otherCtl c) then some (otherCtl c) else none

/-- The core clock of a die now: none in a switchover pause, in Deep sleep or in Off, 300 MHz in Idle and Sleep (R430, R433,
R473). -/
def State.coreClock (s : State) : Nat :=
  if s.pause.isSome then 0 else match s.power.st with
    | .run => s.power.clock
    | .idle | .sleep => 300
    | .deepSleep | .off => 0

/-- Sends management traffic of a control die: it leaves over that die's spine path (R27, R30). -/
def State.sendMgmt (s : State) (c : CtlId) (o : Out) : State := if s.ctlPath c then s.send o else s

def State.sendMgmtAll (s : State) (c : CtlId) (os : List Out) : State := if s.ctlPath c then s.sendAll os else s

/-! ## Memory: place (R230 to R237, R251) -/

def mib : Nat := 1048576
def gib : Nat := 1073741824

/-- The DRAM capacity of a die: C channels of 1.25 GiB (R229). -/
def Die.channels (x : Die) : Nat := (x.chanMap.filter (·.isSome)).length

def Die.capacity (x : Die) : Nat := x.channels * (gib + gib / 4)

/-- Bytes of the reserved regions (R231): reply cache, cut hold area, canonical staging, trace, post-mortem. -/
def State.regionSizes (s : State) : List Nat :=
  [32 * mib, s.setting 0x2101 1 * mib, s.setting 0x2072 1 * mib, s.setting 0x6010 1 * mib, s.setting 0x6020 1 * mib]

def sumNat (xs : List Nat) : Nat := xs.foldl (· + ·) 0

/-- Stack offset of reserved region k, its end, of a die (R231): regions lie downward from the top. -/
def State.region (s : State) (d : DieId) (k : Nat) : Nat × Nat :=
  let top := (s.die d).capacity - sumNat (s.regionSizes.take k)
  (top - s.regionSizes.getD k 0, top)

def State.reservedBase (s : State) (d : DieId) : Nat := (s.die d).capacity - sumNat s.regionSizes

/-- The spread part of a die's quire (R234), 0 for an unassigned die. -/
def State.spreadShare (s : State) (d : DieId) : Nat := match (s.die d).quire with
  | some k => s.setting 0x2100 (k.val + 1) * gib
  | none => 0

def State.spreadBase (s : State) (d : DieId) : Nat := s.reservedBase d - s.spreadShare d

/-- Bytes of the local part (R230). -/
def State.localSize (s : State) (d : DieId) : Nat := if (s.die d).channels = 0 then 0 else s.spreadBase d

def windowBase : Nat := 0x10000000000

/-- The dies of a quire that have DRAM (R234). -/
def State.windowDies (s : State) (k : Fin 4) : List DieId := (s.diesOf k).filter fun d => (s.die d).channels ≠ 0

def State.windowSize (s : State) (k : Fin 4) : Nat := (s.windowDies k).length * (s.setting 0x2100 (k.val + 1) * gib)

/-- XOR of the four six-bit fields of a row (R233, R235). -/
def foldRow (row : Nat) : Nat := bits row 5 0 ^^^ bits row 11 6 ^^^ bits row 17 12 ^^^ bits row 23 18

/-- Die and stack offset of byte x of a quire's window (R235). -/
def State.spreadPlace (s : State) (k : Fin 4) (x : Nat) : Option (DieId × Nat) :=
  let ds := s.windowDies k
  let g := x / 4096
  let row := g / ds.length
  match ds[(g % ds.length + foldRow row) % ds.length]? with
  | some d => some (d, s.spreadBase d + row * 4096 + x % 4096)
  | none => none

/-- Physical channel of a stack offset (R233), none without DRAM. -/
def Die.localChannel (x : Die) (off : Nat) : Option Nat :=
  let served := x.chanMap.filterMap id
  let c := served.length
  let g := off / 4096
  served[(g % c + foldRow (g / c)) % c]?

def sramSize : Nat := 128 * mib

/-- Whether an extent of local memory lies in its space: the local part or the window, or the SRAM (R236, R251). -/
def State.localOk (s : State) (d : DieId) (sram : Bool) (off len : Nat) : Bool :=
  if sram then decide (off + len ≤ sramSize)
  else if off < windowBase then decide (off + len ≤ s.localSize d)
  else match (s.die d).quire with
    | some k => decide (off - windowBase + len ≤ s.windowSize k)
    | none => false

/-- Splits an extent of window bytes at its 4 KiB granules (R235); fuel bounds the number of granules. -/
def State.windowRuns (s : State) (k : Fin 4) : Nat → Nat → Nat → List (Place × Nat)
  | 0, _, _ => []
  | fuel + 1, x, len =>
    if len = 0 then [] else
    let n := min len (4096 - x % 4096)
    match s.spreadPlace k x with
    | some (d, o) => (⟨d, false, o⟩, n) :: s.windowRuns k fuel (x + n) (len - n)
    | none => []

/-- The runs of places that a local extent names; the extent is in its space. -/
def State.localRuns (s : State) (d : DieId) (sram : Bool) (off len : Nat) : List (Place × Nat) :=
  if sram || decide (off < windowBase) then [(⟨d, sram, off⟩, len)]
  else match (s.die d).quire with
    | some k => s.windowRuns k (len / 4096 + 2) (off - windowBase) len
    | none => []

/-! ## Memory: contents -/

/-- The cells that bytes from an address on make; a zero byte makes none. -/
def cellsOf : Nat → List Byte → SMap Byte
  | _, [] => []
  | a, b :: bs => if b = 0 then cellsOf (a + 1) bs else (a, b) :: cellsOf (a + 1) bs

/-- Replaces the bytes from an address on; keeps the canonical form. -/
def splice (m : SMap Byte) (a : Nat) (bs : List Byte) : SMap Byte :=
  m.takeWhile (fun c => decide (c.1 < a)) ++ cellsOf a bs ++ m.dropWhile (fun c => decide (c.1 < a + bs.length))

/-- The bytes of an extent. -/
def slice (m : SMap Byte) (a n : Nat) : List Byte :=
  let m' := (m.dropWhile fun c => decide (c.1 < a)).takeWhile fun c => decide (c.1 < a + n)
  (List.range n).map fun i => SMap.get 0 m' (a + i)

def Die.mem (x : Die) (sram : Bool) : SMap Byte := if sram then x.sram else x.dram

def Die.bad (x : Die) (sram : Bool) : List Nat := if sram then x.badSram else x.badDram

/-- One byte of memory. -/
def State.byteAt (s : State) (p : Place) : Byte := SMap.get 0 ((s.die p.die).mem p.sram) p.off

/-- The 32-byte codewords or words of an extent that are uncorrectable (R225, R252). -/
def Die.badIn (x : Die) (sram : Bool) (off len : Nat) : List Nat :=
  if len = 0 then [] else (x.bad sram).filter fun w => decide (off / 32 ≤ w) && decide (w ≤ (off + len - 1) / 32)

def readRuns (s : State) (rs : List (Place × Nat)) : List Byte :=
  rs.flatMap fun (p, n) => slice ((s.die p.die).mem p.sram) p.off n

/-- The uncorrectable words that a read of the runs meets. -/
def badPlaces (s : State) (rs : List (Place × Nat)) : List Place :=
  rs.flatMap fun (p, n) => ((s.die p.die).badIn p.sram p.off n).map fun w => ⟨p.die, p.sram, 32 * w⟩

/-- The first of them. -/
def badRuns (s : State) (rs : List (Place × Nat)) : Option Place := (badPlaces s rs).head?

/-- Whether a word lies wholly inside an extent: a write of it all replaces it (R253 step 3). -/
def wholeWord (off len w : Nat) : Bool := decide (off ≤ 32 * w) && decide (32 * w + 32 ≤ off + len)

/-- Granules of the tracked range that a write of a stack extent changes (R462). -/
def Die.granulesIn (x : Die) (off len : Nat) : List Nat :=
  let g := 2 * mib
  if len = 0 then [] else
  (List.range ((off + len - 1) / g - off / g + 1)).filterMap fun i =>
    let a := (off / g + i) * g
    if x.tracked.1 ≤ a ∧ a < x.tracked.1 + x.tracked.2 then some ((a - x.tracked.1) / g) else none

def insertNew (xs : List Nat) (x : Nat) : List Nat := if x ∈ xs then xs else xs ++ [x]

/-- A write sets D and clears P of the granules it touches (R462). -/
def Die.markDirty (x : Die) (off len : Nat) : Die :=
  let gs := x.granulesIn off len
  { x with dirty := gs.foldl insertNew x.dirty, copied := x.copied.filter fun g => decide (g ∉ gs),
           copy := x.copy.map fun r => if r.granule ∈ gs then { r with clean := false } else r }

/-- Replaces bytes of one memory of a die, ending the error of words written whole. -/
def Die.put (x : Die) (sram : Bool) (off : Nat) (bs : List Byte) : Die :=
  let x := { x with latent := x.latent.filter fun w => !(w.1 == sram && wholeWord off bs.length w.2) }
  if sram then { x with sram := splice x.sram off bs,
                        badSram := x.badSram.filter fun w => !wholeWord off bs.length w }
  else Die.markDirty { x with dram := splice x.dram off bs,
                              badDram := x.badDram.filter fun w => !wholeWord off bs.length w,
                              corrected := x.corrected.filter fun w =>
                                decide (w < off / 32) || decide ((off + bs.length - 1) / 32 < w) } off bs.length

/-- The runs of an extent that a write changes: the bytes of words that are uncorrectable and only partly covered are left
out (R226, R252). -/
def writableParts (x : Die) (sram : Bool) (off : Nat) (bs : List Byte) : List (Nat × List Byte) :=
  let keep := (x.badIn sram off bs.length).filter fun w => !wholeWord off bs.length w
  if keep = [] then [(off, bs)]
  else
    let first := 32 - off % 32
    ((off, bs.take first) :: ((chunksOf 32 (bs.length / 32 + 1) (bs.drop first)).zipIdx.map fun (c, i) =>
      (off + first + 32 * i, c))).filter fun (o, c) => decide (o / 32 ∉ keep) && decide (c ≠ [])

/-- Writes bytes at a place; true when a partly covered word was uncorrectable (status 0x12). -/
def State.writePlace (s : State) (p : Place) (bs : List Byte) : State × Bool :=
  let x := s.die p.die
  let parts := writableParts x p.sram p.off bs
  let hit := (x.badIn p.sram p.off bs.length).any fun w => !wholeWord p.off bs.length w
  (s.setDie p.die (parts.foldl (fun x (o, c) => x.put p.sram o c) x), hit)

/-- The uncorrectable words that a write of a place covers only in part. -/
def State.partlyBad (s : State) (p : Place) (n : Nat) : List Place :=
  (((s.die p.die).badIn p.sram p.off n).filter fun w => !wholeWord p.off n w).map fun w => ⟨p.die, p.sram, 32 * w⟩

def writeRuns (s : State) : List (Place × Nat) → List Byte → State × List Place
  | [], _ => (s, [])
  | (p, n) :: rs, bs =>
    let (s2, b) := writeRuns (s.writePlace p (bs.take n)).1 rs (bs.drop n)
    (s2, s.partlyBad p n ++ b)

/-! ## Unit codes (R454) -/

def unitCode (kind a b c : Nat) : Nat := kind * 2 ^ 24 + a * 2 ^ 16 + b * 2 ^ 4 + c

def uModule : Nat := 0
def uDie (d : DieId) : Nat := unitCode 0x01 d.val 0 0
def uEngine (d : DieId) (e : Fin 4) : Nat := unitCode 0x02 d.val e.val 0
def uFolio (d : DieId) (f : Nat) : Nat := unitCode 0x03 d.val f 0
def uSo (d : DieId) (o : Nat) : Nat := unitCode 0x06 d.val o 0
def uStack (d : DieId) : Nat := unitCode 0x07 d.val 0 0
def uChannel (d : DieId) (c : Nat) : Nat := unitCode 0x08 d.val c 0
def uCtl (c : CtlId) : Nat := unitCode 0x09 c.val 0 0
def uEdge (n : Nat) : Nat := unitCode 0x0A n 0 0
def uPort (p : PortId) (x : Nat) : Nat := unitCode 0x0B p.val 0 x
def uSlot (p : PortId) (k : Nat) : Nat := unitCode 0x0C p.val k 0
def uHost : Nat := unitCode 0x0E 0 0 0
def uQuire (k : Fin 4) : Nat := unitCode 0x0F k.val 0 0
def uClock (c : CtlId) : Nat := unitCode 0x10 c.val 0 0

/-- A comb (line 0xFFF) or a comb line; combs are numbered 2 × edge die + comb. -/
def uLine (comb line : Nat) : Nat := unitCode 0x0D (comb / 2) line (comb % 2)

/-- The unit code of a queue-bearing unit in the order of R68. -/
def uUnit (d : DieId) (u : UnitId) : Nat :=
  if u.val < 4 then unitCode 0x02 d.val u.val 0
  else if u.val < 10 then unitCode 0x04 d.val (u.val - 4) 0
  else unitCode 0x05 d.val (u.val - 10) 0

/-- The die that a unit code names, or whose stack, engine, channel or object it names. -/
def unitDie (u : Nat) : Option DieId :=
  let kind := u / 2 ^ 24
  let a := u / 2 ^ 16 % 256
  if 1 ≤ kind ∧ kind ≤ 8 then (if h : a < 20 then some ⟨a, h⟩ else none) else none

/-! ## Trace (R493) -/

/-- Whether a die's trace is on: its region is not empty and it has DRAM (R229, R491). -/
def State.traceOn (s : State) (d : DieId) : Bool := s.setting 0x6010 1 != 0 && (s.die d).channels != 0

/-- Offers a record to a die's trace unit. -/
def State.emit (s : State) (d : DieId) (type cls unit ctx payload : Nat) : State :=
  if s.traceOn d then s.updDie d fun x => { x with trace := x.trace.accept (x.stamp type cls unit ctx payload) } else s

/-- The trace unit code for a unit code (R454, R493): firmware for what has none of its own. -/
def traceUnit (u : Nat) : Nat :=
  let kind := u / 2 ^ 24
  let b := u / 2 ^ 4 % 4096
  if kind = 2 then b % 4 else if kind = 3 then 2 * b % 4 else if kind = 4 then (4 + b) % 10 else if kind = 5 then 10 + b % 8
  else if kind = 6 then 18 else if kind = 7 ∨ kind = 8 then 21 else 23

/-- The trace's event record (type 0x05), on the die that the event's unit lies on. -/
def State.emitEvent (s : State) (code u : Nat) (ctx : Option Nat) : State :=
  match unitDie u with
  | some d => s.emit d 0x05 1 (traceUnit u) (ctx.getD 0 % 8) (code * 2 ^ 24)
  | none => s

/-! ## Events (R453 to R459) -/

def fatalCodes : List Nat := [0x030A, 0x0708, 0x0812, 0x0814]
def invalidCodes : List Nat :=
  [0x0101, 0x0103, 0x0202, 0x0304, 0x0305, 0x0442, 0x0462, 0x0463, 0x0806, 0x080C, 0x0815]
def degradedCodes : List Nat :=
  [0x0104, 0x0105, 0x0106, 0x0303, 0x0307, 0x0309, 0x0402, 0x0407, 0x0441, 0x0443, 0x0464, 0x0483, 0x0484, 0x0485,
   0x0486, 0x0502, 0x0507, 0x050B, 0x050D, 0x050E, 0x0603, 0x0605, 0x0608, 0x060B, 0x060C, 0x0703, 0x0709, 0x070B,
   0x0805, 0x080B, 0x080F, 0x0811, 0x0817, 0x0819, 0x081B, 0x081C, 0x081D, 0x0903, 0x0904, 0x0905, 0x0A06]

/-- The fixed severity of an event code (R455). -/
def severity (code : Nat) : Nat :=
  if code ∈ fatalCodes then 3 else if code ∈ invalidCodes then 2 else if code ∈ degradedCodes then 1 else 0

/-- The quire an event concerns: of a quire's code, or of the die whose unit it names. -/
def State.unitQuire (s : State) (u : Nat) : Option (Fin 4) :=
  if u / 2 ^ 24 = 0x0F then (if h : u / 2 ^ 16 % 256 < 4 then some ⟨u / 2 ^ 16 % 256, h⟩ else none)
  else match unitDie u with
    | some d => (s.die d).quire
    | none => none

/-- What raises an event: its code, unit, context, queue or stream, detail, and a quire that its unit does not name. -/
structure Cause where
  code : Nat
  unit : Nat
  ctx : Option Nat := none
  stream : Option Nat := none
  detail : Nat := 0
  quire : Option Nat := none
  deriving DecidableEq, Repr

/-- The manager node: the one followed since a claim, else 0x4350:03 (R309, R310). -/
def State.manager (s : State) : Nat := s.mgr.followed.getD (s.setting 0x4350 3)

/-- Whether an occurrence merges into a record (R453). -/
def Event.takes (e : Event) (c : Cause) (now : Nat) : Bool :=
  e.code == c.code && e.unit == c.unit && e.ctx == c.ctx && e.stream == c.stream && decide (now < e.born + 1000000)

/-- Index of the newest record that takes an occurrence. -/
def newestTaking (es : List Event) (c : Cause) (now : Nat) : Option Nat :=
  let same := es.zipIdx.filter fun (e, _) =>
    e.code == c.code && e.unit == c.unit && e.ctx == c.ctx && e.stream == c.stream
  match same.getLast? with
  | some (e, i) => if e.takes c now then some i else none
  | none => none

/-- Enters a record in the log of 8,192 records (R456). -/
def EventLog.enter (l : EventLog) (e : Event) : EventLog :=
  let l := { l with nextSeq := (l.nextSeq + 1) % 2 ^ 32 }
  if l.recs.length < 8192 then { l with recs := l.recs ++ [e] }
  else
    let low := (l.recs.map (·.sev)).foldl Nat.min 3
    if low = 3 then { l with lost := l.lost + 1 }
    else match findIdxFrom (fun r : Event => r.sev == low) l.recs 0 with
      | some i => { l with recs := l.recs.eraseIdx i ++ [e] }
      | none => l

/-- The 32 bytes of an event record (R453). -/
def Event.bytes (e : Event) : List Byte :=
  leBytes 2 e.code ++ leBytes 1 e.sev ++
  leBytes 1 ((if e.ctx.isSome then 128 else 0) + (if e.stream.isSome then 64 else 0) + (if e.old then 32 else 0)
    + e.ctx.getD 0 % 8) ++
  leBytes 4 e.unit ++ leBytes 8 e.ft ++ leBytes 1 (e.stream.getD 0) ++
  leBytes 1 (match e.quire with
    | some k => 128 + k % 4
    | none => 0) ++
  leBytes 2 e.rep ++ leBytes 4 e.seq ++ leBytes 8 e.detail

/-- Whether the CAN FD contacts are connected: no boundary instruction holds them (R489, R504). -/
def State.canOn (s : State) : Bool := s.tap.ir != 0x00 && s.tap.ir != 0x04 && s.tap.ir != 0x05

/-- The CAN FD and manager paths of a new record of severity 1 or more, of the control die that governs (R30, R457). -/
def State.eventPaths (s : State) (e : Event) : State :=
  if e.sev = 0 ∨ !s.governs then s else
  let recent := s.log.canTimes.filter fun t => decide (s.mono < t + 1000000000)
  let s := if s.can.nodeId ≠ 0 ∧ s.canOn ∧ recent.length < 100
    then State.send { s with log := { s.log with canTimes := recent ++ [s.mono] } } (.can (0x080 + s.can.nodeId) e.bytes)
    else s
  let m := s.manager
  if m = 0xFFFF then s else s.sendMgmt s.holder (.event m e)

/-- Records one occurrence: merged into the newest like record younger than 1 ms, or as a new record on every path. -/
def State.record (s : State) (c : Cause) : State :=
  let s := s.emitEvent c.code c.unit c.ctx
  match newestTaking s.log.recs c s.mono with
  | some i => { s with log := { s.log with recs := modifyAt (fun e => { e with rep := min (e.rep + 1) 0xFFFF }) s.log.recs i } }
  | none =>
    let e : Event :=
      { code := c.code, sev := severity c.code, ctx := c.ctx, stream := c.stream, old := false, unit := c.unit,
        ft := s.now, quire := c.quire.or ((s.unitQuire c.unit).map (·.val)), rep := 0, seq := s.log.nextSeq,
        detail := c.detail % 2 ^ 64, born := s.mono }
    State.eventPaths { s with log := s.log.enter e } e

/-- The management record a module sends to its manager (R466); other fields are given over it. -/
def State.mgmtBase (s : State) (type : Nat) (k : Fin 4) : MgmtRecord :=
  { type := type, tag := s.setting 0x4330 (k.val + 1), node := s.setting 0x4300 2, seq := 0, identity := 0, ft := 0,
    count := 0, lastCommitted := (s.quire k).lastCommitted, result := 0, quireByte := k.val, mgrEpoch := s.mgrEpoch,
    leaseEpoch := 0, crc := 0 }

/-- The 64 bytes of a management record but for its CRC (R466). -/
def mgmtBytes (r : MgmtRecord) : List Byte :=
  leBytes 1 r.type ++ leBytes 1 r.tag ++ leBytes 2 r.node ++ leBytes 4 r.seq ++ leBytes 8 r.identity ++ leBytes 8 r.ft ++
  leBytes 8 r.count ++ leBytes 4 r.lastCommitted ++ leBytes 1 r.result ++ leBytes 1 r.quireByte ++ leBytes 2 r.mgrEpoch ++
  leBytes 4 r.leaseEpoch ++ leBytes 16 r.reserved

/-- A record with its CRC-32C over bytes 0x00 to 0x3B (R466). -/
def sealed (r : MgmtRecord) : MgmtRecord := { r with crc := crc32c (mgmtBytes r) }

/-- Whether a received record's CRC holds. -/
def mgmtOk (r : MgmtRecord) : Bool := r.crc == crc32c (mgmtBytes r)

/-- Sends a management record to the manager, when one is configured (R466). -/
def State.sendMgr (s : State) (r : MgmtRecord) : State :=
  let m := s.manager
  if m = 0xFFFF then s else s.sendMgmt s.holder (.mgmt m (sealed r))

/-- Declares the quire's stitch interval invalid, once per interval, with event 0x0815 and INVALID (R459, R470). -/
def State.invalidate (s : State) (k : Fin 4) (code : Nat) : State :=
  if (s.quire k).invalid then s else
  let s := s.updQuire k fun x => { x with invalid := true }
  (s.record { code := 0x0815, unit := uQuire k, detail := code }).sendMgr (s.mgmtBase 0x17 k)

/-- Raises an event: records it, and invalidates the interval for severity 2 (R453, R457, R459). -/
def State.raise (s : State) (c : Cause) : State :=
  let s := s.record c
  if severity c.code = 2 ∧ c.code ≠ 0x0815 then
    match s.unitQuire c.unit with
    | some k => s.invalidate k c.code
    | none => s
  else s

def State.raiseAll (s : State) (cs : List Cause) : State := cs.foldl State.raise s

/-! ## Memory errors (R225, R253) -/

def Die.countMem (x : Die) (key : Nat) : Die := { x with memCounts := SMap.set 0 x.memCounts key (SMap.get 0 x.memCounts key + 1) }

/-- The reserved region of a stack offset (R231): 0 reply cache, 1 cut hold, 2 canonical staging, 3 trace, 4 post-mortem. -/
def State.regionOf (s : State) (d : DieId) (off : Nat) : Option Nat :=
  (List.range 5).find? fun k => decide ((s.region d k).1 ≤ off) && decide (off < (s.region d k).2)

/-- An access that meets an uncorrectable word: event, count and the interval's invalidity (R253 steps 4, 5). Of the reserved regions
only the cut hold area and canonical staging invalidate the interval (R254). -/
def State.memError (s : State) (p : Place) : State :=
  if p.sram then (s.updDie p.die (·.countMem 137)).raise { code := 0x0305, unit := uDie p.die, detail := p.off }
  else
    let ch := ((s.die p.die).localChannel p.off).getD 0
    let s1 := s.updDie p.die (·.countMem (2 * ch + 1))
    let cause : Cause := { code := 0x0304, unit := uChannel p.die ch, detail := p.off }
    match s.regionOf p.die p.off with
    | some 0 | some 3 | some 4 => s1.record cause
    | _ => s1.raise cause

/-- An access that meets uncorrectable words: each of them is reported (R253). -/
def State.memErrors (s : State) (ps : List Place) : State := ps.foldl State.memError s

/-- The correctable words of an extent that no read has met yet. -/
def Die.latentIn (x : Die) (sram : Bool) (off n : Nat) : List Nat :=
  if n = 0 then [] else
  (x.latent.filter fun w => w.1 == sram && decide (off / 32 ≤ w.2) && decide (w.2 ≤ (off + n - 1) / 32)).map (·.2)

/-- A read finds and corrects a word: it is counted, and a codeword of DRAM waits for its write-back (R225, R252). -/
def Die.correct (x : Die) (sram : Bool) (w : Nat) : Die :=
  let x := { x with latent := x.latent.filter (· ≠ (sram, w)) }
  if sram then x.countMem 136
  else { x.countMem (2 * (x.localChannel (32 * w)).getD 0) with corrected := insertNew x.corrected w }

/-- A read of a place corrects what it meets; nothing changes where it meets no such word. -/
def State.correctIn (s : State) (p : Place) (n : Nat) : State :=
  if (s.die p.die).latent.isEmpty then s
  else s.updDie p.die fun x => (x.latentIn p.sram p.off n).foldl (fun x w => x.correct p.sram w) x

def State.correctRuns (s : State) (rs : List (Place × Nat)) : State := rs.foldl (fun s (p, n) => s.correctIn p n) s

/-- A granule of an extent that lies on a die which the spine does not reach (R26, R236). -/
def State.lostRun (s : State) (d : DieId) (rs : List (Place × Nat)) : Option DieId :=
  rs.findSome? fun (p, _) => if s.reaches d p.die then none else some p.die

/-- An access to a die that is unreachable: event 0x0485 at the source die (R26, R28). -/
def State.unreachable (s : State) (d t : DieId) : State := s.raise { code := 0x0485, unit := uDie d, detail := t.val }

/-- Reads a local extent: status, bytes (R225, R236, R253). A granule on another die crosses the spine; one that it does not reach ends
the access with 0x20 (log 134). -/
def State.readLocal (s : State) (d : DieId) (sram : Bool) (off len : Nat) : State × Nat × List Byte :=
  if !s.localOk d sram off len then (s, 0x10, [])
  else
    let rs := s.localRuns d sram off len
    match s.lostRun d rs with
    | some t => (s.unreachable d t, 0x20, [])
    | none =>
      let s1 := s.correctRuns rs
      if (badRuns s rs).isSome then (s1.memErrors (badPlaces s rs), 0x12, []) else (s1, 0, readRuns s rs)

/-- Writes a local extent: status (R226, R236, R252). -/
def State.writeLocal (s : State) (d : DieId) (sram : Bool) (off : Nat) (bs : List Byte) : State × Nat :=
  if !s.localOk d sram off bs.length then (s, 0x10)
  else
    let rs := s.localRuns d sram off bs.length
    match s.lostRun d rs with
    | some t => (s.unreachable d t, 0x20)
    | none => match writeRuns s rs bs with
      | (s, []) => (s, 0)
      | (s, ps) => (s.memErrors ps, 0x12)

/-- The bytes of a local extent without its codes, for what the module itself has checked. -/
def State.peek (s : State) (d : DieId) (sram : Bool) (off len : Nat) : List Byte :=
  readRuns s (s.localRuns d sram off len)

/-! ## Queues: failure and doorbells (R70, R76, R81) -/

/-- Whether a context has a record (R77). -/
def Ctx.loadedB (x : Ctx) : Bool := x.state != .empty

/-- Writes a queue's status word into the context record (R76). -/
def State.writeStatusWord (s : State) (q : QueueId) (head : Nat) : State :=
  let x := s.getCtx q.die q.ctx
  (s.writeLocal q.die false (x.recOff + 0x500 + 8 * q.slot.val)
    (leBytes 8 ((s.queue q).status * 2 ^ 56 + head % 2 ^ 32))).1

/-- Head count of a descriptor at a position: its ring count, or the queue's head count for a list (R76). -/
def Queue.headAt (x : Queue) (p : Pos) : Nat := match p with
  | .ring n => n
  | .list .. => x.head

/-- Halts a queue at a descriptor (R76, R81): status, position, call stack and skip as they stood there; descriptors of the queue that
started later run to their end as cancelled. -/
def Queue.halt (x : Queue) (status : Nat) (p : Pos) : Queue :=
  let later := (x.started.dropWhile fun d => decide (d.pos ≠ p)).drop 1
  let y : Queue :=
    { x with status := status, haltPos := some p, next := p, gateOpen := false,
             started := (x.started.takeWhile fun d => decide (d.pos ≠ p)) ++ later.map fun d => { d with cancelled := true } }
  match x.started.find? (·.pos == p) with
  | some e => { y with stack := e.stack, skip := e.skipLeft, skipK := e.skipHeld }
  | none => y

/-- Whether the descriptor at a position is a cancelled one that runs to its end. -/
def Queue.cancels (x : Queue) (p : Pos) : Bool := x.started.any fun e => e.pos == p && e.cancelled

/-- Steps 1 to 3 and 5 of R81; step 4, the error object, is added by the caller in its place. -/
def State.haltQueue (s : State) (q : QueueId) (status : Nat) (p : Pos) : State :=
  let s := s.updQueue q (·.halt status p)
  s.writeStatusWord q ((s.queue q).headAt p)

def State.haltEvent (s : State) (q : QueueId) : State :=
  s.raise { code := 0x0801, unit := uUnit q.die (qUnit q), ctx := some q.ctx.val, stream := some (qNum q) }

/-- Whether an object is the doorbell of an enabled queue of a loaded context (R84). -/
def Die.isDoorbell (x : Die) (o : Nat) : Bool :=
  allCtx.any fun c => x.ctx[c].loadedB && allSlots72.any fun r => x.ctx[c].q[r].enabled && x.ctx[c].q[r].doorbell == o

/-- Value of a synchronisation object. -/
def Die.obj (x : Die) (o : Nat) : Nat := SMap.get 0 x.so o

/-- Descriptors appended and not retired: (doorbell − h) mod 2^32 (R70). -/
def Die.backlog (x : Die) (qu : Queue) : Nat := (x.obj qu.doorbell + 2 ^ 32 - qu.head) % 2 ^ 32

/-- Queues of a die that a doorbell has overrun and that run (R70). -/
def State.overrun (s : State) (d : DieId) (o : Nat) : List QueueId :=
  let x := s.die d
  allCtx.flatMap fun c => if !x.ctx[c].loadedB then [] else
    (allSlots72.filter fun r =>
      let qu := x.ctx[c].q[r]
      qu.enabled && qu.doorbell == o && qu.status == 0 && decide (2 ^ qu.log2 < x.backlog qu)).map fun r => ⟨d, c, r⟩

/-- Sets an object, raising 0x0803 when an add wrapped (R82). -/
def State.putObj (s : State) (d : DieId) (o v : Nat) (wrapped : Bool) : State :=
  let s := s.updDie d fun x => { x with so := SMap.set 0 x.so o v }
  if wrapped then s.raise { code := 0x0803, unit := uSo d o } else s

/-- Adds to an object, halting queues whose ring it overruns, and so adding to their error objects (R70, R81, R82). Each
queue halts once, so 577 levels suffice. -/
def State.soAddFuel : Nat → State → DieId → Nat → Nat → State
  | 0, s, _, _, _ => s
  | fuel + 1, s, d, o, v =>
    let old := (s.die d).obj o
    let s := s.putObj d o ((old + v) % 2 ^ 32) (decide (2 ^ 32 ≤ old + v))
    (s.overrun d o).foldl (fun s q =>
      if (s.queue q).status ≠ 0 then s else
      let s := s.haltQueue q 0x09 (s.queue q).next
      let x := s.getCtx q.die q.ctx
      let s := if x.errOn then State.soAddFuel fuel s q.die x.errSo 1 else s
      s.haltEvent q) s

def State.soAdd (s : State) (d : DieId) (o v : Nat) : State := State.soAddFuel 577 s d o v

/-- A set of an object; a lower doorbell cannot overrun a ring, a higher one can (R70, R82). -/
def State.soSet (s : State) (d : DieId) (o v : Nat) : State := s.putObj d o v false

/-- A descriptor fails: R81, in its order. One that is cancelled already only ends. -/
def State.failAt (s : State) (q : QueueId) (status : Nat) (p : Pos) : State :=
  if (s.queue q).cancels p then
    s.updQueue q fun x => { x with started := x.started.map fun e => if e.pos = p then { e with done := true } else e }
  else
  let s := s.emit q.die 0x0E 2 (q.slot.val / 4) q.ctx.val
    (status * 2 ^ 32 + (s.queue q).headAt p % 2 ^ 16 * 2 ^ 16 + q.slot.val % 4 * 2 ^ 14)
  let s := s.haltQueue q status p
  let x := s.getCtx q.die q.ctx
  let s := if x.errOn then s.soAdd q.die x.errSo 1 else s
  s.haltEvent q

/-- The outcome of a signal at its target: 0x00 when applied or held (R84, R85). -/
def State.signalAt (s : State) (d : DieId) (o : Nat) (set : Bool) (v release : Nat) : State × Nat :=
  let x := s.die d
  if set && x.isDoorbell o then (s, 0x15)
  else if x.ft < release then
    if 256 ≤ x.rel.length then (s.raise { code := 0x0804, unit := uDie d }, 0x0A)
    else (s.updDie d fun x => { x with rel := x.rel ++ [{ ft := release, obj := o, set := set, val := v }] }, 0)
  else (State.emit (if set then s.soSet d o v else s.soAdd d o v) d 0x12 3 18 0 (o * 2 ^ 27 + v % 2 ^ 27), 0)

/-! ## Host commands (R379, R383) -/

def Channel.cmd (c : Channel) (seq : Nat) : Option HostCmd := c.cmds.find? (·.seq == seq)

def Channel.updCmd (c : Channel) (seq : Nat) (f : HostCmd → HostCmd) : Channel :=
  { c with cmds := c.cmds.map fun x => if x.seq = seq then f x else x }

/-- Quadword i of a command's record (R380). -/
def HostCmd.qw (x : HostCmd) (i : Nat) : Nat := leNat ((x.payload.drop (8 * i)).take 8)

def HostCmd.op (x : HostCmd) : Nat := bits (x.qw 0) 63 56

/-- Ends a command with a status and its data; the completion record follows in HOST_COMMAND_COMPLETE (R383). -/
def State.finish (s : State) (c : ChanId) (seq status : Nat) (data : List Byte) : State :=
  s.updChan c (·.updCmd seq fun x => { x with started := true, result := some (status, data), doneFt := s.now })

/-- A command whose turn has come: it has not started, every earlier one has, its barrier is met (R379). -/
def State.inTurn (s : State) (c : ChanId) (x : HostCmd) : Bool :=
  let earlier := (s.chan c).cmds.takeWhile fun y => decide (y.seq ≠ x.seq)
  !x.started && x.result.isNone && earlier.all (fun y => y.started || y.result.isSome)
    && (!bit (x.qw 0) 55 || earlier.all (·.result.isSome))

def HostCmd.gated (x : HostCmd) : Bool := bit (x.qw 0) 54

/-! ## Order within an instant (R50) -/

/-- The periodic gutter start at or before now (R51). -/
def State.lastDue (s : State) : Option Nat :=
  let p : Int := s.gut.sched.period
  let g := ((s.now : Int) - s.gut.sched.phase) / p * p + s.gut.sched.phase
  if p = 0 ∨ g < 0 then none else some g.toNat

def allMask : Nat := 2 ^ 48 - 1

/-- Whether the fabric may be up: in Run and Idle (R433). -/
def State.fabricOn (s : State) : Bool := s.power.st == .run || s.power.st == .idle

/-- The gutter that starts now: its start, its ports, whether it is a one-off gutter (R51, R58). A periodic one starts while a one-off
one runs. None starts below Idle, where the ports and the channels rest (R433, log 144). -/
def State.gutterToStart (s : State) : Option (Nat × Nat × Bool) :=
  if !s.fabricOn then none else
  let guard := s.gut.sched.guard
  let periodic := match s.lastDue with
    | some g => if s.now < g + guard ∧ s.gut.lastStart ≠ some g then some (g, allMask, false) else none
    | none => none
  match periodic, s.gut.now with
  | some g, none => some g
  | some g, some w => if w.once then some g else none
  | none, none => (s.gut.oneOffs.find? fun (t, _) => decide (t ≤ s.now) && decide (s.now < t + guard)).map fun (t, ps) =>
      (t, ps, true)
  | none, some _ => none

/-- What stands before later events of the same instant: a freeze; a gutter's start or end; a gated power-state entry; a counter
sample (R50, R492). -/
def State.freezeDue (s : State) : Bool := match s.frz.pending with
  | t :: _ => decide (t ≤ s.now)
  | [] => false

def State.gutterDue (s : State) : Bool :=
  s.gutterToStart.isSome || (match s.gut.now with
    | some g => decide (g.start + g.length ≤ s.now)
    | none => false)

def State.entryDue (s : State) : Bool :=
  s.boot.stage == 9 && (s.chan 0).cmds.any fun x =>
    x.op == 0x10 && x.gated && decide (x.qw 1 ≤ s.now) && bits (x.qw 2) 63 60 != 0 && s.inTurn 0 x

def State.sampleDue (s : State) : Bool :=
  s.power.st != .off && s.occ.period != 0 && s.now % s.occ.period == 0 && s.occ.sampledAt != some s.now

/-- Whether events of the first `k` kinds of R50 are done with at this instant. -/
def State.calm (s : State) (k : Nat) : Bool :=
  (k < 1 || !s.freezeDue) && (k < 2 || !s.gutterDue) && (k < 3 || !s.entryDue) && (k < 4 || !s.sampleDue)

/-- Whether a command may start: its turn has come and its gate is met. A gated power-state entry is third within an instant, another
gated command fifth (R50, R379). -/
def State.mayStart (s : State) (c : ChanId) (x : HostCmd) : Bool :=
  s.inTurn c x && (!x.gated || x.gateOpen || (decide (x.qw 1 ≤ s.now) && s.calm (if x.op = 0x10 then 2 else 4)))

/-- A command of channel 0 in hand: its record, when it has this opcode and may start. -/
def State.ready (s : State) (c : ChanId) (seq op : Nat) : Option HostCmd :=
  match (s.chan c).cmd seq with
  | some x => if x.op = op ∧ s.mayStart c x then some x else none
  | none => none

/-- 0x1018:02: the grade as a product code (R4). -/
def productCode (v : VendorPart) : Nat := if v.grade = 2080 then 0x2080 else if v.grade = 2072 then 0x2072 else 0x2064

/-! ## Quire states (R37, R77) -/

def CtxState.idle (x : CtxState) : Bool := x == .empty || x == .loaded || x == .stopped

/-- Whether every context of a die is empty, loaded or stopped. -/
def Die.stopped (x : Die) : Bool := allCtx.all fun c => x.ctx[c].state.idle

/-- 0x2021: 0 no dies, 1 stopped, 2 running (R77). -/
def State.quireState (s : State) (k : Fin 4) : Nat :=
  if (s.diesOf k).isEmpty then 0 else if (s.diesOf k).all (fun d => (s.die d).stopped) then 1 else 2

/-- A quire that stays stopped because a die that leaves or joins it is still zeroed (R37). -/
def State.quireHeld (s : State) (k : Fin 4) : Bool :=
  allDies.any fun d => (s.die d).zeroing && ((s.die d).joining == some k || (s.die d).left == some k)

/-- A quire that counts as stopped for every rule that asks for it (R77). -/
def State.quireStopped (s : State) (k : Fin 4) : Bool := s.quireState k != 2

def State.allStopped (s : State) : Bool := allQuires.all s.quireStopped

/-- Puts an instant in its place among those that wait. -/
def insertFt (t : Nat) : List Nat → List Nat
  | [] => [t]
  | x :: xs => if t < x then t :: x :: xs else x :: insertFt t xs

/-- The first failing status of two. -/
def firstStatus (a b : Nat) : Nat := if a = 0 then b else a

/-- The dictionary's signed reading of a 32-bit value. -/
def signed32 (v : Nat) : Int := if v % 2 ^ 32 < 2 ^ 31 then (v % 2 ^ 32 : Nat) else (v % 2 ^ 32 : Nat) - (2 ^ 32 : Int)

/-- Adds to a Nat a signed amount, no lower than 0. -/
def addInt (a : Nat) (d : Int) : Nat := ((a : Int) + d).toNat

end Sys2Proof.Machine
end

