-- ==== Sys2Proof/Machine/Operands.lean ====
section
/-! DEFINITION. Operand forms: the descriptor header and its conditions, the front of a queue and its engine's turn, global
addresses, and the issue of remote operations by their source streams. -/

namespace Sys2Proof.Machine

/-! ## The descriptor header (R78) -/

/-- Quadword i of a descriptor. -/
def qw (d : List Nat) (i : Nat) : Nat := d.getD i 0

def dOp (d : List Nat) : Nat := bits (qw d 0) 63 56
def dWait (d : List Nat) : Bool := bit (qw d 0) 55
def dSignal (d : List Nat) : Bool := bit (qw d 0) 54
def dGate (d : List Nat) : Bool := bit (qw d 0) 53
def dBarrier (d : List Nat) : Bool := bit (qw d 0) 52
def dWaitObj (d : List Nat) : Nat := bits (qw d 0) 43 32
def dTag (d : List Nat) : Nat := bits (qw d 0) 31 0
def dTarget (d : List Nat) : Nat := bits (qw d 1) 63 32
def dValue (d : List Nat) : Nat := bits (qw d 1) 31 0
def dSignalAddr (d : List Nat) : Nat := qw d 2
def dGateFt (d : List Nat) : Nat := qw d 3

/-- The kind of unit that an engine opcode runs on (R79): 0 matrix, 1 vector, 2 CB, 3 GT, 4 CV, 5 HS, 6 DMA; none for an
opcode that is reserved or that the front end runs. -/
def engineKind (op : Nat) : Option Nat :=
  if op = 0x10 ∨ op = 0x11 then some 0
  else if op = 0x30 then some 1
  else if op = 0x50 ∨ 0x58 ≤ op ∧ op ≤ 0x5E then some 2
  else if 0x60 ≤ op ∧ op ≤ 0x64 then some 3
  else if op = 0x70 then some 4
  else if 0x90 ≤ op ∧ op ≤ 0x93 then some 5
  else if 0x80 ≤ op ∧ op ≤ 0x82 then some 6
  else none

def frontEndOp (op : Nat) : Bool := decide (1 ≤ op) && decide (op ≤ 6)

def unitKind (u : UnitId) : Nat :=
  if u.val < 4 then 0 else if u.val < 6 then 1 else if u.val < 10 then u.val - 4 else 6

/-! ## Queues -/

/-- Ring descriptors appended and not yet started (R70). -/
def Die.unstarted (x : Die) (qu : Queue) (n : Nat) : Nat := x.backlog qu - (n + 2 ^ 32 - qu.head) % 2 ^ 32

/-- Whether a descriptor stands at a position: the ring's count says so; a list runs until its RETURN (R92). -/
def Die.hasNext (x : Die) (qu : Queue) : Bool := match qu.next with
  | .ring n => decide (0 < x.unstarted qu n)
  | .list .. => true

/-- Local place of a position (R70, R92). -/
def Queue.placeOf (qu : Queue) (p : Pos) : Bool × Nat := match p with
  | .ring n => (qu.sram, qu.base + 64 * (n % 2 ^ qu.log2))
  | .list sram off _ => (sram, off)

/-- The position after one (R70, R92). -/
def Pos.after (p : Pos) : Pos := match p with
  | .ring n => .ring ((n + 1) % 2 ^ 32)
  | .list sram off v => .list sram (off + 64) v

/-- The quadwords of 64 bytes. -/
def quads (bs : List Byte) : List Nat := (List.range 8).map fun i => leNat ((bs.drop (8 * i)).take 8)

/-- The descriptor at the front of a queue without its codes. -/
def State.peekNext (s : State) (q : QueueId) : List Nat :=
  let (sram, off) := (s.queue q).placeOf (s.queue q).next
  quads (s.peek q.die sram off 64)

/-- Whether a queue can bring a descriptor to its front: enabled, running, not halted, holding or skipping, and not frozen. -/
def State.queueLive (s : State) (q : QueueId) : Bool :=
  let x := s.getCtx q.die q.ctx
  let qu := s.queue q
  x.state == .running && qu.enabled && qu.status == 0 && qu.hold.isNone && qu.skip == 0 && (s.die q.die).hasNext qu

/-- The conditions B, W and G of R72 for a descriptor at a queue's front; a gate opens last within an instant (R50). -/
def State.headerMet (s : State) (q : QueueId) (d : List Nat) : Bool :=
  (!dBarrier d || (s.queue q).started.isEmpty)
    && (!dWait d || decide (dTarget d ≤ (s.die q.die).obj (dWaitObj d)))
    && (!dGate d || (s.queue q).gateOpen || (decide (dGateFt d ≤ (s.die q.die).ft) && s.calm 4))

/-- Whether a queue has an eligible engine descriptor of its own unit at its front (R72, R73). -/
def State.eligible (s : State) (q : QueueId) : Bool :=
  s.queueLive q &&
    (let d := s.peekNext q
     engineKind (dOp d) == some (unitKind (qUnit q)) && s.headerMet q d)

/-- Slot of a unit's queue. -/
def slotOf (u : UnitId) (k : Fin 4) : Fin 72 := ⟨4 * u.val + k.val, by omega⟩

/-- The queues of a unit in a context in round-robin order after the one that the unit served last, in whichever context (R73, log 153). -/
def State.queueOrder (s : State) (d : DieId) (u : UnitId) (c : CtxId) : List QueueId :=
  [1, 2, 3, 4].map fun (i : Nat) => ⟨d, c, slotOf u ⟨((s.getUnit d u).lastQueue.val + i) % 4, by omega⟩⟩

/-- The queue of a context that the unit would serve next (R73). -/
def State.nextQueue (s : State) (d : DieId) (u : UnitId) (c : CtxId) : Option QueueId :=
  (s.queueOrder d u c).find? s.eligible

/-- Whether a context has work for a unit: an eligible descriptor, or a descriptor that was pre-empted and waits to be restored (R73,
R96, log 128). -/
def State.wants (s : State) (d : DieId) (u : UnitId) (c : CtxId) : Bool :=
  (s.nextQueue d u c).isSome || ((s.getCtx d c).state == .running && decide (u ∈ (s.getCtx d c).saved))

/-- Contexts in ascending number after the one served last (R73). -/
def ctxOrder (last : CtxId) : List CtxId := (List.range 8).map fun i => ⟨(last.val + 1 + i) % 8, by omega⟩

/-- Engine descriptors of a unit that have started and not retired in a context's queues. -/
def Ctx.inFlight (x : Ctx) (u : UnitId) : Nat :=
  sumNat ((List.finRange 4).map fun k =>
    (x.q[slotOf u k].started.filter fun e => decide (0x10 ≤ dOp e.qws) && !e.skipped).length)

/-- The unit's descriptors in flight, over all contexts whose state it holds (R72, R96). -/
def State.inFlight (s : State) (d : DieId) (u : UnitId) : Nat :=
  sumNat (allCtx.map fun c => if u ∈ (s.getCtx d c).saved then 0 else (s.getCtx d c).inFlight u)

/-- The context the unit serves next (R73): the bound one while it has work and no higher priority waits at a retirement; else the
highest priority, in ascending number after the last served. While descriptors of the bound context are in flight, no other. -/
def State.nextCtx (s : State) (d : DieId) (u : UnitId) : Option CtxId :=
  let un := s.getUnit d u
  let cands := (ctxOrder un.lastCtx).filter (s.wants d u)
  let top := (cands.map fun c => (s.getCtx d c).priority).foldl Nat.max 0
  let best := cands.find? fun c => (s.getCtx d c).priority == top
  match un.bound with
  | some b =>
    if 0 < s.inFlight d u then (if s.wants d u b then some b else none)
    else if b ∈ cands ∧ (s.getCtx d b).priority = top then some b else best
  | none => best

/-- Whether clocks reach engines and control clusters: power state Run, no switchover pause, no endpaper being written (R433, R447,
R473). -/
def State.running (s : State) : Bool := s.power.st == .run && s.pause.isNone && s.flash.writing.isNone

/-- Whether a self-test slice claims a matrix engine: it runs in this window, or overran one (R54, R57). -/
def State.testing (s : State) (d : DieId) (e : Fin 4) : Bool :=
  let on (a : Action) : Bool := a.kind == .selfTest && a.res == .engine d e
  s.gut.overrun.any on || (match s.gut.now with
    | some g => !g.closed && g.running.any on
    | none => false)

/-- Whether a unit's command stream stalls for a self-test slice, of either engine of a folio (R57). -/
def State.stalled (s : State) (d : DieId) (u : UnitId) : Bool :=
  if h : u.val < 4 then
    s.testing d ⟨u.val, h⟩ || (bit (s.setting 0x2030 (d.val + 1)) (u.val / 2) && s.testing d ⟨(u.val + 1) % 4, by omega⟩)
  else false

/-- Whether the module's engines may start work: not stopped by a freeze, not paused, not at the power limit's floor, not under
self-test (R57, R62, R73, R96, R430). -/
def State.unitFree (s : State) (d : DieId) (u : UnitId) : Bool :=
  let un := s.getUnit d u
  !un.stopping && un.stopFt.isNone && s.running && !s.power.stalled && !s.stalled d u
    && (s.die d).presence == .inService && !(s.die d).zeroing

/-- Whether a descriptor of a context stands between two of its element blocks on a unit (R96). -/
def Ctx.jobOn (x : Ctx) (u : UnitId) : Bool :=
  (List.finRange 4).any fun k => x.q[slotOf u k].started.any (·.job.isSome)

/-- A queue's descriptor that stands between two of its element blocks, when its unit may go on with it (R62, R96). -/
def State.inHand (s : State) (q : QueueId) : Option (Started × Job) :=
  let x := s.getCtx q.die q.ctx
  if s.unitFree q.die (qUnit q) ∧ x.state = .running ∧ qUnit q ∉ x.saved then
    (s.queue q).started.findSome? fun e => e.job.map fun j => (e, j)
  else none

/-- Whether it is a queue's turn on its unit and fewer than 4 descriptors are in flight (R72, R73). A unit whose state for the context is
in its save area restores it first (R96), and one that stands inside a descriptor ends that first. -/
def State.turn (s : State) (q : QueueId) : Bool :=
  let u := qUnit q
  s.unitFree q.die u && decide (s.inFlight q.die u < 4) && !(s.getCtx q.die q.ctx).jobOn u && decide (u ∉ (s.getCtx q.die q.ctx).saved) && s.nextCtx q.die u == some q.ctx
    && s.nextQueue q.die u q.ctx == some q

/-- Whether a freeze has stopped the front ends of the die (R62). -/
def State.frozenDie (s : State) (d : DieId) : Bool := match s.frz.cut with
  | some c => decide (c.ft ≤ (s.die d).ft)
  | none => false

/-- An engine stands at its boundary for the freeze: its stop FT is recorded, and an event when it comes later than 2 µs after the instant
(R62). -/
def State.stopUnit (s : State) (d : DieId) (u : UnitId) : State :=
  let ft := (s.die d).ft
  let s := (s.updUnit d u fun x => { x with stopFt := some ft }).emit d 0x06 1 u.val (((s.getUnit d u).bound.map (·.val)).getD 0) 0
  match s.frz.cut with
  | some c => if c.ft + 2000 < ft ∨ c.paused then s.raise { code := 0x060A, unit := uUnit d u, detail := ft } else s
  | none => s

/-- The records of a descriptor's start (types 0x0D, 0x12 for its wait, 0x0C for a NOP's tag). -/
def State.emitStart (s : State) (q : QueueId) (d : List Nat) : State :=
  let unit := if 0x10 ≤ dOp d then (qUnit q).val else 18
  let s := if dWait d then s.emit q.die 0x12 3 18 q.ctx.val
      (2 ^ 39 + dWaitObj d * 2 ^ 27 + (s.die q.die).obj (dWaitObj d) % 2 ^ 27) else s
  let s := s.emit q.die 0x0D 2 unit q.ctx.val
    (dOp d * 2 ^ 32 + (s.queue q).headAt (s.queue q).next % 2 ^ 16 * 2 ^ 16 + qNum q * 2 ^ 14)
  if dOp d = 1 ∧ dTag d ≠ 0 then s.emit q.die 0x0C 1 18 q.ctx.val (dTag d * 2 ^ 8) else s

/-- What the fetch of the descriptor at a queue's next position corrects (R225). -/
def State.correctFetch (s : State) (q : QueueId) : State :=
  let (sram, off) := (s.queue q).placeOf (s.queue q).next
  s.correctRuns (s.localRuns q.die sram off 64)

/-- Enters a descriptor in its queue's started list and moves to the next position; an engine takes the context and queue
(R72, R73). -/
def State.start (s : State) (q : QueueId) (d : List Nat) (next : Pos) (e : Started) : State :=
  let s := (s.correctFetch q).emitStart q d
  let s := s.updDie q.die fun x => { x with trace := x.trace.countTag (dTag d) q (s.queue q).next }
  let s := s.updQueue q fun x => { x with next := next, gateOpen := false, started := x.started ++ [{ e with stack := x.stack }] }
  if 0x10 ≤ dOp d then
    s.updUnit q.die (qUnit q) fun u =>
      { u with bound := some q.ctx, lastCtx := q.ctx, lastQueue := ⟨q.slot.val % 4, by omega⟩ }
  else s

/-- A started descriptor with nothing outstanding. -/
def startedOf (pos : Pos) (d : List Nat) (done : Bool) : Started :=
  { pos := pos, qws := d, done := done, status := 0, ops := [], signal := none, signalled := false, summary := none,
    collective := false, skipped := false, fault := none, got := [], tens := [], rails := [] }

/-- Changes the started descriptor at a position of a queue. -/
def State.updStarted (s : State) (q : QueueId) (p : Pos) (f : Started → Started) : State :=
  s.updQueue q fun x => { x with started := x.started.map fun e => if e.pos = p then f e else e }

/-- Whether a folio is disabled (R33). -/
def State.folioDisabled (s : State) (d : DieId) (f : Nat) : Bool := s.disabled.any (·.1 == 2 * d.val + f)

/-- Whether a folio is joined (R109). -/
def State.joined (s : State) (d : DieId) (f : Nat) : Bool := bit (s.setting 0x2030 (d.val + 1)) f

/-- Whether an engine's queues reject every engine descriptor: disabled, removed, or the higher engine of a joined folio
(R33, R69, R127). -/
def State.engineAbsent (s : State) (d : DieId) (e : Fin 4) : Bool :=
  s.folioDisabled d (e.val / 2) || (s.die d).mx[e].removed || (decide (e.val % 2 = 1) && s.joined d (e.val / 2))

/-- What stands at the front of a queue. -/
inductive Front where
  /-- nothing to run now -/
  | idle
  /-- the descriptor fails at once in its place (R79, R253) -/
  | fails (s : State) (status : Nat)
  /-- an eligible descriptor whose turn it is -/
  | ready (d : List Nat)
  deriving Repr

/-- The front of a queue (R79): the opcode is checked first, then B, W and G, then the engine's turn. -/
def State.front (s : State) (q : QueueId) : Front :=
  if !s.queueLive q || s.frozenDie q.die || (s.die q.die).intakeFrozen || !s.running then .idle else
  let (sram, off) := (s.queue q).placeOf (s.queue q).next
  match s.readLocal q.die sram off 64 with
  | (s1, 0, bs) =>
    let d := quads bs
    if frontEndOp (dOp d) then (if s.headerMet q d then .ready d else .idle)
    else match engineKind (dOp d) with
      | none => .fails s1 0x01
      | some k =>
        if k ≠ unitKind (qUnit q) then .fails s1 0x04
        else if s.headerMet q d && s.turn q then .ready d else .idle
  | (s1, st, _) => .fails s1 st

/-- Takes up the descriptors a skip consumes as they are appended (R91): each stands in the started list, to retire in
order, with its header signal when K is set. In a branch list the skip stops at RETURN. -/
def State.settleSkip : Nat → State → QueueId → State
  | 0, s, _ => s
  | fuel + 1, s, q =>
    let qu := s.queue q
    if qu.skip = 0 ∨ qu.status ≠ 0 ∨ !(s.die q.die).hasNext qu then s else
    let (sram, off) := qu.placeOf qu.next
    match (if qu.skipK || (match qu.next with
          | .list .. => true
          | .ring _ => false) then s.readLocal q.die sram off 64 else (s, 0, [])) with
    | (s, 0, bs) =>
      let d := quads bs
      if (match qu.next with
          | .list .. => decide (dOp d = 5)
          | .ring _ => false)
      then s.updQueue q fun x => { x with skip := 0 }
      else
        let e := { startedOf qu.next (if qu.skipK then d else []) true with
                     skipped := true, stack := qu.stack, skipLeft := qu.skip, skipHeld := qu.skipK }
        State.settleSkip fuel (s.updQueue q fun x =>
          { x with skip := x.skip - 1, next := x.next.after, started := x.started ++ [e] }) q
    | (s, st, _) => s.failAt q st qu.next

/-- Runs a descriptor row on a queue: an opcode other than the row's leaves the machine as it is; a descriptor that fails
at its front halts the queue (R79, R81). -/
def State.onFront (s : State) (q : QueueId) (op : Nat) (run : State → List Nat → State) : Result :=
  let s := s.settleSkip (s.queue q).skip q
  match s.front q with
  | .idle => .next s
  | .fails s1 st => .next (s1.failAt q st (s1.queue q).next)
  | .ready d => if dOp d = op then .next (run s d) else .next s

/-! ## Global addresses (R257) -/

/-- A global address in its parts. -/
structure GAddr where
  node : Nat
  space : Nat
  off : Nat
  deriving DecidableEq, Repr

def gaddr (a : Nat) : GAddr := { node := bits a 63 48, space := bits a 47 44, off := bits a 43 0 }

/-- Where a global address points on its node. -/
inductive Where where
  | die (d : DieId) (sram : Bool) (off : Nat)
  | window (x : Nat)
  | obj (d : DieId) (o : Nat)
  | group (g off : Nat)
  deriving DecidableEq, Repr

/-- Interprets space and offset (R83, R237, R251, R257): status 0x01 for a reserved space, 0x10 out of place. -/
def GAddr.place (a : GAddr) : Except Nat Where :=
  if 3 < a.space then .error 0x01
  else if a.space = 3 then
    (if a.node = 0xFFFF then .ok (.group (bits a.off 43 32) (bits a.off 31 0)) else .error 0x10)
  else if a.node = 0xFFFF then .error 0x10
  else if a.space = 0 then
    if 0x80000000000 ≤ a.off then .ok (.window (a.off - 0x80000000000))
    else if h : a.off / 0x2000000000 < 20 then .ok (.die ⟨a.off / 0x2000000000, h⟩ false (a.off % 0x2000000000))
    else .error 0x10
  else if a.space = 1 then
    if h : a.off / 0x10000000 < 20 then
      (if a.off % 0x10000000 < sramSize then .ok (.die ⟨a.off / 0x10000000, h⟩ true (a.off % 0x10000000))
       else .error 0x10)
    else .error 0x10
  else if h : a.off / 0x10000 < 20 then
    if a.off % 0x10000 / 4 < 4096 then
      (if a.off % 4 = 0 then .ok (.obj ⟨a.off / 0x10000, h⟩ (a.off % 0x10000 / 4)) else .error 0x11)
    else .error 0x10
  else .error 0x10

/-! ## Source streams (R256, R273, R277) -/

def State.node (s : State) : Nat := s.topo.plan.node

def State.source (s : State) (d : SrcDie) : Source := s.src[d]

def State.updSource (s : State) (d : SrcDie) (f : Source → Source) : State := { s with src := s.src.set d (f s.src[d]) }

def srcOf (d : DieId) : SrcDie := ⟨d.val, by omega⟩
def hostSrc : SrcDie := 20

/-- The partition tag of a quire (R295). -/
def State.tagOf (s : State) (k : Fin 4) : Nat := s.setting 0x4330 (k.val + 1)

/-- The tag that a die's operations carry. -/
def State.dieTag (s : State) (d : DieId) : Nat := match (s.die d).quire with
  | some k => s.tagOf k
  | none => 0xFF

/-- The quire that a tag names on this module. -/
def State.quireOfTag (s : State) (tag : Nat) : Option (Fin 4) := allQuires.find? fun k => s.tagOf k == tag

/-- The destination key of an address (R277). -/
def keyOf (a : GAddr) (w : Where) (tag : Nat) : DestKey := match w with
  | .die d _ _ => .die a.node d.val
  | .obj d _ => .die a.node d.val
  | .window _ => .window a.node tag
  | .group g _ => .group g

/-- Operations that write, for the clasp (R269): all but loads and settles. -/
def isWrite (op : Nat) : Bool := decide (2 ≤ op) && decide (op ≤ 0x0F)

/-- The request to be issued. -/
structure Issue where
  owner : Owner
  sink : Sink := .nowhere
  stream : Nat
  target : Nat
  op : Nat
  wide : Bool := false
  signed : Bool := false
  clasp : Bool := false
  gclasp : Bool := false
  payload : List Byte := []
  size : Nat
  release : Nat := 0
  deriving DecidableEq, Repr

/-- Whether this module is the root of a multicast group: its entry is valid with ingress 0xFF (R266, R267). -/
def State.groupRoot (s : State) (g : Nat) : Bool :=
  let e := s.setting (0x4210 + g / 128) (1 + g % 128)
  bit e 63 && bits e 55 48 == 0xFF

/-- Whether an operation is addressed to other nodes: its address names one, or its multicast group forwards copies (R267, R294). -/
def State.leavesNode (s : State) (a : GAddr) : Bool :=
  if a.space = 3 then
    let g := bits a.off 43 32
    bits (s.setting (0x4210 + g / 128) (1 + g % 128)) 47 0 != 0
  else a.node != s.node

/-- Enters an operation at its source: it waits for REQUEST_INJECT or CLASP_SEND (R273, R269). An operation to another
node of a module that has not joined completes with 0x20 at once (R294); a multicast store outside the group's root with 0x02
(R267). Answers the status when it is complete, else the
operation's number. -/
def State.issue (s : State) (d : SrcDie) (tag : Nat) (i : Issue) : State × (Nat ⊕ Nat) :=
  let a := gaddr i.target
  match a.place with
  | .error st => (s, .inl st)
  | .ok w =>
    if a.space = 3 ∧ !s.groupRoot (bits a.off 43 32) then (s, .inl 0x02)
    else if s.leavesNode a ∧ !s.topo.joined then (s, .inl 0x20)
    else
      let r : RemOp :=
        { id := s.nextOp, owner := i.owner, sink := i.sink, stream := i.stream, key := keyOf a w tag, node := a.node,
          target := i.target, op := i.op, wide := i.wide, signed := i.signed, clasp := i.clasp, gclasp := i.gclasp,
          tag := tag, payload := i.payload, size := i.size, release := i.release, seq := none, fresh := false,
          firstFt := 0, lastFt := 0, attempt := 0, silent := false, backoff := none, sentAt := 0,
          timeout := 0, limit := 0, nkWait := 0, hotHold := 0 }
      ({ s with nextOp := s.nextOp + 1 }.updSource d fun x => { x with ops := x.ops ++ [r] }, .inr s.nextOp)

/-- A signal add or set of a queue's front end (R83, R84, R86): applied at once on its own die, else issued on stream
0x40 + c. Answers its status, or the number of the operation that waits. -/
def State.frontSignal (s : State) (q : QueueId) (owner : Owner) (target value release : Nat) (set : Bool) :
    State × (Nat ⊕ Nat) :=
  let a := gaddr target
  match a.place with
  | .error st => (s, .inl st)
  | .ok (.obj d o) =>
    if a.node = s.node ∧ d = q.die then
      let (s, st) := s.signalAt d o set value release
      (s, .inl st)
    else
      s.issue (srcOf q.die) (s.dieTag q.die)
        { owner := owner, stream := 0x40 + q.ctx.val, target := target, op := if set then 0x09 else 0x08,
          payload := leBytes 4 value, size := 4, release := release }
  | .ok _ => (s, .inl 0x14)

/-! ## Retirement (R80, R88) -/

/-- A flag word with no tile flagged: bits [63:32] read all ones (R154). -/
def flagsClear : Nat := 0xFFFFFFFF00000000

/-- Index of the flag word of an engine in a context. -/
def flagIndex (e : Fin 4) (c : CtxId) : Fin 32 := ⟨4 * c.val + e.val, by omega⟩

/-- Imports the flag words that a mask names into a summary, and clears them; the higher engine of a joined folio has none
(R156, R201). -/
def State.importFlags (s : State) (d : DieId) (c : CtxId) (mask : Nat) (v : Summary) : Summary × State :=
  (List.finRange 4).foldl (fun ((v : Summary), (s : State)) e =>
    if !bit mask e.val || (decide (e.val % 2 = 1) && s.joined d (e.val / 2)) then (v, s)
    else
      let w := (s.die d).flags[flagIndex e c]
      ({ v with anyNan := v.anyNan || bit w 0, anySat := v.anySat || bit w 1 || bit w 2 },
       s.updDie d fun x => { x with flags := x.flags.set (flagIndex e c) flagsClear })) (v, s)

/-- Retires the oldest started descriptor of a queue: the head count advances for a ring descriptor, and the summary slot
is written (R80, R88, R92). -/
def State.retire (s : State) (q : QueueId) : State :=
  match (s.queue q).started with
  | [] => s
  | e :: rest =>
    let s := if e.skipped then s else s.emit q.die 0x0E 2 (if 0x10 ≤ dOp e.qws then (qUnit q).val else 18) q.ctx.val
      ((s.queue q).headAt e.pos % 2 ^ 16 * 2 ^ 16 + qNum q * 2 ^ 14)
    let s := s.updQueue q fun x =>
      { x with started := rest, head := match e.pos with
          | .ring n => (n + 1) % 2 ^ 32
          | .list .. => x.head }
    match e.summary with
    | some (k, v) =>
      let (v, s) := if dOp e.qws = 0x30 then s.importFlags q.die q.ctx (bits (qw e.qws 6) 30 27) v else (v, s)
      s.updCtx q.die q.ctx fun x => { x with su := x.su.setIfInBounds k v }
    | none => s

/-- Step of completion for the oldest started descriptor of a queue whose work is done: its header signal, then its retirement (R80). A
cancelled one ends as status 0x0B and does neither (R81). -/
def State.complete (s : State) (q : QueueId) : State :=
  match (s.queue q).started with
  | [] => s
  | e :: rest =>
    if e.cancelled then
      (s.emit q.die 0x0E 2 (if 0x10 ≤ dOp e.qws then (qUnit q).val else 18) q.ctx.val
        (0x0B * 2 ^ 32 + (s.queue q).headAt e.pos % 2 ^ 16 * 2 ^ 16 + qNum q * 2 ^ 14)).updQueue q fun x => { x with started := rest }
    else if dSignal e.qws ∧ !e.signalled then
      match s.frontSignal q (.header q e.pos) (dSignalAddr e.qws) (dValue e.qws) 0 false with
      | (s, .inl 0) => s.retire q
      | (s, .inl st) => s.failAt q st e.pos
      | (s, .inr id) => s.updStarted q e.pos fun x => { x with signal := some id }
    else s.retire q

end Sys2Proof.Machine
end

