-- ==== Sys2Proof/Machine/Trace.lean ====
section
/-! DEFINITION. The time records of the trace, and the drain of a die's buffer into its region (R493 to R495). -/

namespace Sys2Proof.Machine

/-- A time record (type 0x01): the bits of FT and cycle count that other records leave out. -/
def State.timeRecord (s : State) (d : DieId) : State :=
  let x := s.die d
  s.emit d 0x01 0 23 0 (x.ft / 2 ^ 40 % 2 ^ 24 * 2 ^ 16 + x.cycles / 2 ^ 32 % 2 ^ 16)

/-- A time record and a clock pair (type 0x02), at first lock and at a change of core clock (R40, R493). -/
def State.clockPair (s : State) (d : DieId) (change : Bool) : State :=
  (s.timeRecord d).emit d 0x02 0 23 0 (s.coreClock * 2 ^ 28 + if change then 2 ^ 27 else 0)

/-- A further pair on every die when the core clock is no longer what it was and runs (R40): after a step of the limit's controller, a
power state's entry or exit, a switchover pause. -/
def State.pairsFrom (s : State) (before : Nat) : State :=
  if s.coreClock = before ∨ s.coreClock = 0 then s else allDies.foldl (fun s d => s.clockPair d true) s

/-- The records that follow the start-up pair of a die (R40). -/
def State.traceTime (s : State) (d : DieId) : State := s.clockPair d false

/-- TRACE_TIME_RECORD (R493): at every FT multiple of 2^30 ns. -/
def execTraceTimeRecord (d : DieId) (s : State) : Result :=
  if (s.die d).ft % 2 ^ 30 = 0 then .next (s.timeRecord d) else .next s

/-! ## The region (R494) -/

/-- Stack offset of a die's trace region, and its capacity in records. -/
def State.traceBase (s : State) (d : DieId) : Nat := (s.region d 3).1

def State.traceCapacity (s : State) : Nat := (s.setting 0x6010 1 * mib - 4096) / 16

def ribbonCode : RibbonState → Nat
  | .idle => 0
  | .armed => 1
  | .fired => 2
  | .frozen => 3

def Ribbon.bytes (r : Ribbon) : List Byte :=
  leBytes 1 (ribbonCode r.st) ++ leBytes 1 r.kind ++ leBytes 1 (if r.spread then 1 else 0) ++ leBytes 1 0 ++ leBytes 4 r.post ++
  leBytes 8 r.value ++ leBytes 8 r.fireFt ++ leBytes 8 r.index

/-- The first 208 bytes of the header. -/
def State.traceHeader (s : State) (d : DieId) : List Byte :=
  let x := s.die d
  let t := x.trace
  [0x54#8, 0x52#8, 0x41#8, 0x43#8] ++ leBytes 2 1 ++ leBytes 1 d.val ++ leBytes 1 (16 * t.mode + t.classes) ++ leBytes 4 t.units ++
  leBytes 4 0 ++ leBytes 8 t.written ++ leBytes 8 s.traceCapacity ++ leBytes 8 x.startPair.1 ++ leBytes 8 x.startPair.2 ++
  (t.totals.toList.flatMap (leBytes 8)) ++ t.ribbons.toList.flatMap Ribbon.bytes

/-- Writes the header into the region. -/
def State.putHeader (s : State) (d : DieId) : State :=
  if s.traceOn d then s.updDie d fun x => x.put false (s.traceBase d) (s.traceHeader d) else s

/-- A pad record (type 0x3F). -/
def Die.pad (x : Die) : TraceRec := x.stamp 0x3F 0 23 0 0

/-- Writes records into the region from record n on. -/
def State.putRecords (s : State) (d : DieId) : Nat → List TraceRec → State
  | _, [] => s
  | n, r :: rs =>
    let off := s.traceBase d + 4096 + 16 * (n % s.traceCapacity)
    State.putRecords (s.updDie d fun x => x.put false off r.bytes) d (n + 1) rs

/-- Records that the region still takes: all in wrap mode, up to the capacity in stop mode. -/
def State.traceRoom (s : State) (d : DieId) : Nat :=
  let t := (s.die d).trace
  if t.mode = 0 then 4 else min 4 (s.traceCapacity - t.written)

/-- Drains one group: the oldest four records, pad records filling a partial one. -/
def State.drainGroup (s : State) (d : DieId) : State :=
  let t := (s.die d).trace
  let g := t.buf.take 4
  let g := (g ++ List.replicate (4 - g.length) (s.die d).pad).take (s.traceRoom d)
  let s := s.putRecords d t.written g
  (s.updDie d fun x => { x with trace := { x.trace with buf := x.trace.buf.drop g.length, written := x.trace.written + g.length } }).putHeader d

/-- Whether the drain may run: the trace is on and has not ended in stop mode. -/
def State.mayDrain (s : State) (d : DieId) : Bool := s.traceOn d && decide (0 < s.traceRoom d) && decide (0 < s.traceCapacity)

/-- TRACE_DRAIN (R494): a whole group. -/
def execTraceDrain (d : DieId) (s : State) : Result :=
  if s.mayDrain d ∧ 4 ≤ (s.die d).trace.buf.length then .next (s.drainGroup d) else .next s

/-- TRACE_GROUP_TIMEOUT (R494): a partial group has waited 10 µs. -/
def execTraceGroupTimeout (d : DieId) (s : State) : Result :=
  let n := (s.die d).trace.buf.length
  if s.mayDrain d ∧ 0 < n ∧ n < 4 then .next (s.drainGroup d) else .next s

end Sys2Proof.Machine
end

