-- ==== Sys2Proof/Machine/HostLink.lean ====
section
/-! DEFINITION. The module's end of the host transport: packets, acknowledgement fields, sequenced sending, and the progress
of commands whose work is remote operations (R372, R373, R377, R378, R382). -/

namespace Sys2Proof.Machine

/-- The default module address (R372): fe80::/64 with the first 8 bytes of SM3 over the serial number. -/
def State.defaultAddr (s : State) : Nat :=
  leNat ([0xFE#8, 0x80#8, 0, 0, 0, 0, 0, 0] ++ (sm3 s.vendor.serial).take 8)

def State.hostAddr (s : State) : Nat := if s.setting 0x1400 1 = 0 then s.defaultAddr else s.setting 0x1400 1

/-- Bytes of a transport packet that its CRC covers (R373): the header to 0x2B, then the payload. -/
def hostHeader (k : HostPacket) : List Byte :=
  leBytes 1 k.version ++ leBytes 1 k.type ++ leBytes 1 (k.channel.val + 64 * (k.reserved % 4)) ++
  leBytes 1 ((if k.tagged then 128 else 0) + (if k.retrans then 64 else 0) + k.reserved / 4 % 64) ++ leBytes 4 k.session ++ leBytes 4 k.seq ++
  leBytes 4 k.ack ++ leBytes 8 k.gap ++ leBytes 8 k.senderTime ++ leBytes 8 k.echoTime ++
  leBytes 2 k.payload.length ++ leBytes 2 (k.reserved / 256)

def hostCrc (k : HostPacket) : Nat := crc32c (hostHeader k ++ k.payload)

/-- The tag of R384: the first 16 bytes of HMAC-SM3 over the header, its CRC as sent, and the payload. -/
def hostTag (key : Nat) (k : HostPacket) : List Byte :=
  (hmacSm3 (leBytes 32 key) (hostHeader k ++ leBytes 4 k.crc ++ k.payload)).take 16

/-- Whether the channel's HMAC-required bit is set (R374, R384). -/
def State.hmacOn (s : State) (c : ChanId) : Bool := bit (s.setting 0x1410 (c.val + 1)) 6

/-- The gap map: bit i for a kept packet at cumulative + 1 + i (R373). -/
def Channel.gapMap (x : Channel) : Nat :=
  sumNat ((List.range 64).map fun i => if x.held.any (fun k => k.seq == (x.expect + 1 + i) % 2 ^ 32) then 2 ^ i else 0)

/-- A packet of the module on a channel. -/
def State.packet (s : State) (c : ChanId) (type seq : Nat) (retrans : Bool) (payload : List Byte) : HostPacket :=
  let x := s.chan c
  let k : HostPacket :=
    { srcAddr := s.hostAddr, srcPort := s.setting 0x1400 2, dstAddr := x.addr, dstPort := x.port, udpOk := true,
      plain := true, version := 1, type := type, channel := c, tagged := s.hmacOn c, retrans := retrans,
      session := x.session, seq := seq, ack := x.expect, gap := x.gapMap, senderTime := s.edgeFt[8],
      echoTime := x.echo, payload := payload, crc := 0, hmac := [], tclass := s.setting 0x1400 3 }
  let k := { k with crc := hostCrc k }
  if k.tagged then { k with hmac := hostTag (if x.state = .closed then s.setting 0x7110 (c.val + 1) else x.key) k } else k

/-- The last accepted sequence, and the sequence at or below which every command has completed (R386). -/
def Channel.lastAccepted (x : Channel) : Nat := (x.expect + 2 ^ 32 - 1) % 2 ^ 32

def Channel.lastCompleted (x : Channel) : Nat := match x.cmds.find? (·.result.isNone) with
  | some y => (y.seq + 2 ^ 32 - 1) % 2 ^ 32
  | none => x.lastAccepted

/-- Sends an unsequenced packet; every packet acknowledges (R378). -/
def State.sendPlain (s : State) (c : ChanId) (type : Nat) (payload : List Byte) : State :=
  (s.send (.host (s.packet c type (s.chan c).txNext false payload))).updChan c fun x => { x with ackSince := none }

/-- Sends a sequenced packet: it takes the next sequence and stays until acknowledged (R377, R378). -/
def State.sendSequenced (s : State) (c : ChanId) (type : Nat) (payload : List Byte) : State :=
  let n := (s.chan c).txNext
  (s.send (.host (s.packet c type n false payload))).updChan c fun x =>
    { x with txNext := (n + 1) % 2 ^ 32, ackSince := none,
             sent := x.sent ++ [{ seq := n, type := type, payload := payload, sentAt := s.mono,
                                  timeout := s.setting 0x1420 1 * 1000, backedOff := false }] }

/-- A notice with a status, whose header names the refused packet (R373). -/
def State.notice (s : State) (k : HostPacket) (status : Nat) : State :=
  let r := s.packet k.channel 0x0B k.seq false (leBytes 4 (status * 2 ^ 24))
  let r := { r with dstAddr := k.srcAddr, dstPort := k.srcPort }
  s.send (.host r)

/-- Host events name the host edge die with the channel as stream, and the quire that a quire channel belongs to (R374, R390). -/
def State.hostEvent (s : State) (c : ChanId) (code : Nat) : State :=
  s.raise { code := code, unit := uHost, stream := some c.val,
            quire := if c.val = 0 then none else some (bits (s.setting 0x1410 (c.val + 1)) 1 0) }

def State.countHost (s : State) (c : ChanId) (i : Fin 6) : State :=
  s.updChan c fun x => { x with counts := x.counts.set i (x.counts[i] + 1) }

/-- The completion record of R383. -/
def completionRecord (seq status original len ft : Nat) : List Byte :=
  leBytes 4 seq ++ leBytes 1 status ++ leBytes 1 original ++ leBytes 2 len ++ leBytes 8 ft ++ List.replicate 16 0

/-- Whether a sequenced packet fits in the window of 1,024 unacknowledged ones (R377). -/
def State.windowFree (s : State) (c : ChanId) : Bool := decide ((s.chan c).sent.length < 1024)

/-- Sends the completion record of a command that has ended and keeps it among the last 4,096, its data stripped (R383). -/
def State.tell (s : State) (c : ChanId) (seq : Nat) : State :=
  match (s.chan c).cmd seq with
  | none => s
  | some x => match x.result with
    | none => s
    | some (st, data) =>
      let s := s.sendSequenced c 0x02 (completionRecord seq st 0 data.length x.doneFt ++ data)
      s.updChan c fun y =>
        let cache := y.cache ++ [(seq, st)]
        { y with cmds := y.cmds.filter fun z => decide (z.seq ≠ seq), cache := cache.drop (cache.length - 4096),
                 past := y.past ++ (cache.take (cache.length - 4096)).map (·.1) }

/-! ## Progress of PUSH, PULL and SIGNAL (R381, R382) -/

/-- Length of a PUSH or PULL (R380), or of an OBS READ (R490). -/
def HostCmd.length (x : HostCmd) : Nat := if x.op = 0x24 then bits (x.qw 4) 47 0 else bits (x.qw 3) 47 0

/-- The host handle of a PULL or an OBS READ. -/
def HostCmd.handle (x : HostCmd) : Nat := if x.op = 0x24 then x.qw 5 else x.qw 4

/-- Bytes of a PULL that stand read from an offset on, in order, at least `need` of them where they stand; fuel bounds the pieces. -/
def pullRun (data : List (Nat × List Byte)) : Nat → Nat → Nat → List Byte
  | 0, _, _ => []
  | fuel + 1, off, need =>
    if need = 0 then []
    else match data.find? fun e => decide (e.1 ≤ off ∧ off < e.1 + e.2.length) with
      | some (at_, bs) =>
        let part := bs.drop (off - at_)
        part ++ pullRun data fuel (off + part.length) (need - part.length)
      | none => []

/-- Sends a PULL's bulk packets in ascending offset as its data comes and the window of 1,024 permits (R377, R382). -/
def State.pullSend : Nat → State → ChanId → Nat → State
  | 0, s, _, _ => s
  | fuel + 1, s, c, seq =>
    match (s.chan c).cmd seq with
    | none => s
    | some x =>
      let n := min 8192 (x.length - x.off)
      let run := pullRun x.data 2049 x.off n
      if n = 0 ∨ run.length < n ∨ 1024 ≤ (s.chan c).sent.length then s
      else
        let header := leBytes 4 seq ++ leBytes 4 0 ++ leBytes 8 x.off ++ leBytes 8 x.handle
        let tx := (s.chan c).txNext
        let s := s.sendSequenced c 0x03 (header ++ run.take n)
        let s := s.updChan c (·.updCmd seq fun y => { y with off := y.off + n, bulk := y.bulk ++ [tx] })
        State.pullSend fuel s c seq

/-- Ends a command when all its work is done. -/
def State.commandProgress (s : State) (c : ChanId) (seq : Nat) : State :=
  match (s.chan c).cmd seq with
  | none => s
  | some x =>
    if x.result.isSome ∨ !x.started then s
    else if x.op = 0x02 ∨ x.op = 0x24 then
      let s := if x.status = 0 then s.pullSend 1024 c seq else s
      match (s.chan c).cmd seq with
      | some y => if y.bulk = [] ∧ y.ops = [] ∧ (y.length ≤ y.off ∨ y.status ≠ 0) then s.finish c seq y.status [] else s
      | none => s
    else if x.op = 0x01 then
      if x.ops = [] ∧ x.length ≤ x.off then s.finish c seq x.status [] else s
    else if x.ops = [] then s.finish c seq x.status [] else s

/-- Bytes of a transport packet. -/
def hostBytes (k : HostPacket) : Nat := 48 + k.payload.length + (if k.tagged then 16 else 0)

/-- Bytes in the receive buffer: packets ahead of a gap, commands that have not started with their bulk data, and stores that HE has
not injected (R377, R389). -/
def State.buffered (s : State) : Nat :=
  sumNat (allChans.map fun c =>
    let x := s.chan c
    sumNat (x.held.map hostBytes)
      + sumNat ((x.cmds.filter fun y => !y.started && y.result.isNone).map fun y =>
          y.payload.length + sumNat (y.data.map fun (e : Nat × List Byte) => e.2.length)))
    + sumNat (((s.source hostSrc).ops.filter fun o => o.seq.isNone).map fun o => o.payload.length)

end Sys2Proof.Machine
end

