-- ==== Sys2Proof/Machine/Flags.lean ====
section
/-! DEFINITION. Flag computations: the comparison of a COND, the matrix flag words, and the flags an element-wise summary
gathers (R88, R90, R154, R155). -/

namespace Sys2Proof.Machine

/-! ## COND (R90) -/

/-- Less, equal, or neither (a NaN is neither), of two FP32 values; −0 equals +0. -/
def f32Lt (a b : F32) : Bool := !isNan32 a && !isNan32 b && (val32 a).lt (val32 b)

def f32Eq (a b : F32) : Bool := !isNan32 a && !isNan32 b && (val32 a).eqv (val32 b)

/-- A comparison code over an order's outcomes: 0 eq, 1 ne, 2 lt, 3 le, 4 gt, 5 ge. -/
def compareBy (code : Nat) (lt eq gt : Bool) : Bool :=
  if code = 0 then eq else if code = 1 then !eq else if code = 2 then lt else if code = 3 then lt || eq
  else if code = 4 then gt else gt || eq

def compareF32 (code : Nat) (a b : F32) : Bool := compareBy code (f32Lt a b) (f32Eq a b) (f32Lt b a)

def compareNat (code a b : Nat) : Bool := compareBy code (decide (a < b)) (decide (a = b)) (decide (b < a))

/-- Slot field (compare) operand: fields 0 max, 1 sum, 2 count, 3 any-NaN, 4 any-saturated (R89). -/
def Summary.test (x : Summary) (field code operand : Nat) : Bool :=
  if field = 0 then compareF32 code x.max (BitVec.ofNat 32 operand)
  else if field = 1 then compareF32 code x.sum (BitVec.ofNat 32 operand)
  else if field = 2 then compareNat code x.count operand
  else if field = 3 then compareNat code (if x.anyNan then 1 else 0) operand
  else compareNat code (if x.anySat then 1 else 0) operand

/-! ## Matrix flag words (R153 to R157) -/

/-- The four flags of a tile. -/
structure TileFlags where
  n : Bool
  s : Bool
  cs : Bool
  cnz : Bool
  deriving DecidableEq, Repr

def TileFlags.none : TileFlags := ⟨false, false, false, false⟩

def TileFlags.or (a b : TileFlags) : TileFlags := ⟨a.n || b.n, a.s || b.s, a.cs || b.cs, a.cnz || b.cnz⟩

def TileFlags.any (a : TileFlags) : Bool := a.n || a.s || a.cs || a.cnz

def TileFlags.code (a : TileFlags) : Nat :=
  (if a.n then 1 else 0) + (if a.s then 2 else 0) + (if a.cs then 4 else 0) + (if a.cnz then 8 else 0)

/-- A flag word after a tile: the first flagged tile's place, the count held at 0xFFFF, the flags ORed (R154, R155). -/
def orFlags (w : Nat) (f : TileFlags) (head tile : Nat) : Nat :=
  if !f.any then w
  else
    let count := bits w 31 16
    let place := if count = 0 then head % 65536 * 2 ^ 16 + tile % 65536 else bits w 63 32
    place * 2 ^ 32 + min (count + 1) 0xFFFF * 2 ^ 16 + (bits w 3 0 ||| f.code)

/-- Takes a tile's flags into the engine's word, with events 0x0107 and 0x0108 when N or S is newly set (R157). -/
def State.takeFlags (s : State) (d : DieId) (e : Fin 4) (c : CtxId) (f : TileFlags) (head tile : Nat) : State :=
  let w := (s.die d).flags[flagIndex e c]
  let w' := orFlags w f head tile
  let s := s.updDie d fun x => { x with flags := x.flags.set (flagIndex e c) w' }
  let s := if bit w' 0 ∧ !bit w 0 then s.raise { code := 0x0107, unit := uEngine d e, ctx := some c.val } else s
  if bit w' 1 ∧ !bit w 1 then s.raise { code := 0x0108, unit := uEngine d e, ctx := some c.val } else s

end Sys2Proof.Machine
end

