-- ==== Sys2Proof/Machine/Queue.lean ====
section
/-! DEFINITION. The descriptors of the queue front end and the completion of every descriptor (R79 to R92, R49). -/

namespace Sys2Proof.Machine

/-- Starts a descriptor that has nothing outstanding and moves to the next. -/
def State.startDone (s : State) (q : QueueId) (d : List Nat) (next : Pos) : State :=
  s.start q d next (startedOf (s.queue q).next d true)

/-- Position of the descriptor after the front one. -/
def State.afterFront (s : State) (q : QueueId) : Pos := (s.queue q).next.after

/-- NOP (R79). -/
def execNop (q : QueueId) (s : State) : Result := s.onFront q 1 fun s d => s.startDone q d (s.afterFront q)

/-- WAIT: a NOP with its W, B and G conditions (R79). -/
def execWait (q : QueueId) (s : State) : Result := s.onFront q 2 fun s d => s.startDone q d (s.afterFront q)

/-- SIGNAL (R86): the body operation, at once on its own die, else as a remote signal whose reply retirement awaits. -/
def execSignal (q : QueueId) (s : State) : Result :=
  s.onFront q 3 fun s d =>
    let op := bits (qw d 4) 63 60
    let p := (s.queue q).next
    if op ≠ 1 ∧ op ≠ 2 then s.failAt q 0x01 p
    else
      let s := s.startDone q d p.after
      match s.frontSignal q (.descriptor q p) (qw d 5) (bits (qw d 4) 31 0) (qw d 6) (op == 2) with
      | (s, .inl 0) => s
      | (s, .inl st) => s.failAt q st p
      | (s, .inr id) => s.updStarted q p fun e => { e with ops := [id] }

/-! ## COND and RETURN (R89 to R92) -/

/-- The checks of COND's fields: reserved values, a flag's operand, the place and alignment of a list. -/
def State.condStatus (s : State) (q : QueueId) (d : List Nat) : Nat :=
  let w := qw d 4
  let action := bits w 63 60
  let field := bits w 55 53
  let sram := bits (qw d 5) 47 44
  let off := bits (qw d 5) 43 0
  if (action ≠ 1 ∧ action ≠ 2) ∨ 5 < bits w 59 56 ∨ 4 < field ∨ (action = 2 ∧ 1 < sram) then 0x01
  else if (field = 3 ∨ field = 4) ∧ 1 < bits w 31 0 then 0x02
  else if action = 2 ∧ !s.localOk q.die (sram == 1) off 64 then 0x10
  else if action = 2 ∧ off % 64 ≠ 0 then 0x11
  else 0

/-- COND. A branch at depth 4 fails with 0x07. -/
def execCond (q : QueueId) (s : State) : Result :=
  s.onFront q 4 fun s d =>
    let p := (s.queue q).next
    let w := qw d 4
    let st := s.condStatus q d
    if st ≠ 0 then s.failAt q st p
    else
      let slot := (s.getCtx q.die q.ctx).su.getD (bits w 51 48) Summary.zero
      let true_ := slot.test (bits w 55 53) (bits w 59 56) (bits w 31 0)
      let s := s.emit q.die 0x0F 2 18 q.ctx.val ((if true_ then 2 ^ 39 else 0) + bits w 51 48 * 2 ^ 35)
      if !true_ then s.startDone q d p.after
      else if bits w 63 60 = 1 then
        let s := s.startDone q d p.after
        let s := s.updQueue q fun x => { x with skip := bits w 47 32, skipK := bit w 52 }
        State.settleSkip (bits w 47 32) s q
      else if 4 ≤ (s.queue q).stack.length then s.failAt q 0x07 p
      else
        let s := s.startDone q d (.list (bits (qw d 5) 47 44 == 1) (bits (qw d 5) 43 0) ((s.queue q).visits + 1))
        s.updQueue q fun x => { x with stack := p.after :: x.stack, visits := x.visits + 1 }

/-- RETURN: the return position is popped; at depth 0 it fails with 0x08. -/
def execRet (q : QueueId) (s : State) : Result :=
  s.onFront q 5 fun s d =>
    match (s.queue q).stack with
    | [] => s.failAt q 0x08 (s.queue q).next
    | back :: rest => (s.startDone q d back).updQueue q fun x => { x with stack := rest }

/-! ## Completion, held releases, gates -/

/-- Whether the oldest started descriptor of a queue has completed, with every operation it awaits, and its signal is not in
flight (R80). -/
def State.headDone (s : State) (q : QueueId) : Bool := match (s.queue q).started with
  | e :: _ => e.done && e.ops.all (fun id => !((s.source (srcOf q.die)).ops.any (·.id == id))) && !e.collective
      && (e.cancelled || e.status == 0) && e.signal.isNone && (s.queue q).hold.isNone && !(s.die q.die).trace.dumpDue q e.pos
  | [] => false

/-- DESCRIPTOR_COMPLETE (R80): in ring order. In a halted queue the descriptors before the failing one still retire. -/
def execDescriptorComplete (q : QueueId) (s : State) : Result :=
  let c := (s.getCtx q.die q.ctx).state
  if (c = .running ∨ c = .stopping) ∧ !s.frozenDie q.die ∧ s.running ∧ s.headDone q then .next (s.complete q) else .next s

/-- Earlier of two held releases of one die: by release FT, then object index; the first in the table wins a tie (R85). -/
def Release.before (a b : Release) : Bool := decide (a.ft < b.ft) || (a.ft == b.ft && decide (a.obj < b.obj))

/-- The held release that a die applies next, when its FT is reached. -/
def Die.dueRelease (x : Die) : Option Release :=
  (x.rel.filter fun r => decide (r.ft ≤ (x.ft : Int))).foldl (fun b r => match b with
    | none => some r
    | some y => if r.before y then some r else some y) none

/-- HELD_RELEASE_APPLY (R85): a set whose object is a doorbell now is not applied, with event 0x081F. Within an instant the releases
follow freezes, gutters, power entries and samples, die by die in ascending number (R50). -/
def execHeldReleaseApply (d : DieId) (s : State) : Result :=
  if !s.calm 4 ∨ (allDies.any fun n => decide (n < d) && (s.die n).dueRelease.isSome) then .next s else
  match (s.die d).dueRelease with
  | none => .next s
  | some r =>
    let s := s.updDie d fun x => { x with rel := x.rel.erase r }
    if r.set ∧ (s.die d).isDoorbell r.obj then .next (s.raise { code := 0x081F, unit := uSo d r.obj })
    else .next ((if r.set then s.soSet d r.obj r.val else s.soAdd d r.obj r.val).emit d 0x12 3 18 0
      (r.obj * 2 ^ 27 + r.val % 2 ^ 27))

/-- GATE_FT_REACHED (R49): the gated operation becomes eligible. -/
def execGateFtReached (g : Gated) (s : State) : Result :=
  match g with
  | .queue q =>
    let d := s.peekNext q
    if s.queueLive q ∧ dGate d ∧ dGateFt d ≤ (s.die q.die).ft ∧ s.calm 4 then .next (s.updQueue q fun x => { x with gateOpen := true })
    else .next s
  | .command c seq =>
    match (s.chan c).cmd seq with
    | some x =>
      if bit (x.qw 0) 54 ∧ x.qw 1 ≤ s.now ∧ !x.started ∧ s.calm (if x.op = 0x10 then 2 else 4) then
        .next (s.updChan c (·.updCmd seq fun x => { x with gateOpen := true }))
      else .next s
    | none => .next s

end Sys2Proof.Machine
end

