-- ==== Sys2Proof/Machine/Context.lean ====
section
/-! DEFINITION. Hardware contexts: load, start, stop, unload, clear, pre-emption, save and restore (R74 to R77, R95 to R98). -/

namespace Sys2Proof.Machine

/-! ## The CONTEXT command (R380, R381) -/

/-- Quire of a quire channel (R374). -/
def State.chanQuire (s : State) (c : ChanId) : Fin 4 := ⟨bits (s.setting 0x1410 (c.val + 1)) 1 0 % 4, by omega⟩

/-- Whether a die takes governing commands now: its lease holds and its intake is open (R474, R476). -/
def Die.governed (x : Die) : Bool := !x.leaseExpired && !x.intakeFrozen

/-- A CONTEXT command in hand with this operation: a reserved operation ends it with 0x01, a die beyond 19 with 0x02, one
outside the channel's quire with 0x13, one that the spine does not reach with 0x20, and a state that does not take the
operation with 0x0C. While a freeze, a power state below Run or an expired lease holds, it waits (R389, R437, R474); so does a LOAD or
START in a quire that stays stopped until zeroing ends (R37). -/
def State.contextCommand (s : State) (c : ChanId) (seq op : Nat) (takes : CtxState → Bool)
    (run : HostCmd → DieId → CtxId → State) : Result :=
  match s.ready c seq 0x04 with
  | none => .next s
  | some x =>
    let w := x.qw 2
    let k := bits w 63 60
    if k = 0 ∨ 5 < k then .next (s.finish c seq 0x01 [])
    else if k ≠ op then .next s
    else if h : bits w 52 48 < 20 then
      let d : DieId := ⟨bits w 52 48, h⟩
      let cx : CtxId := ⟨bits w 42 40 % 8, by omega⟩
      if op = 5 ∧ 71 < bits w 38 32 then .next (s.finish c seq 0x02 [])
      else if op ≤ 2 ∧ s.quireHeld (s.chanQuire c) then .next s
      else if (s.die d).quire ≠ some (s.chanQuire c) then .next (s.finish c seq 0x13 [])
      else if !s.hostPath ∨ (s.die d).presence ≠ .inService then .next (s.finish c seq 0x20 [])
      else if s.frz.cut.isSome ∨ !(s.die d).governed ∨ !s.running then .next s
      else if !takes (s.getCtx d cx).state then .next (s.finish c seq 0x0C [])
      else .next (run x d cx)
    else .next (s.finish c seq 0x02 [])

/-! ## LOAD (R74, R75, R77) -/

/-- A queue as its record of 16 bytes gives it. -/
def queueOf (lo hi : Nat) : Queue :=
  if bit hi 63 then
    { Queue.reset with enabled := true, sram := bits lo 47 44 == 1, base := bits lo 43 0, log2 := bits hi 52 48,
                       doorbell := bits hi 43 32 }
  else Queue.reset

/-- The fields of a context record. -/
structure CtxRecord where
  priority : Nat
  saveArea : Nat
  errOn : Bool
  errSo : Nat
  preempt : Bool
  queues : Vector Queue 72
  /-- a queue's ring space or size is a reserved value -/
  reserved : Bool
  deriving DecidableEq, Repr

def parseCtx (b : List Byte) : CtxRecord :=
  let f (o : Nat) : Nat := leNat ((b.drop o).take 8)
  let rec_ (r : Fin 72) : Nat × Nat := (f (0x80 + 16 * r.val), f (0x88 + 16 * r.val))
  { priority := bits (f 0) 2 0, saveArea := bits (f 8) 47 0, errOn := bit (f 0x10) 12, errSo := bits (f 0x10) 11 0,
    preempt := bit (f 0x18) 0, queues := Vector.ofFn fun r => queueOf (rec_ r).1 (rec_ r).2,
    reserved := allSlots72.any fun r =>
      bit (rec_ r).2 63 && (decide (1 < bits (rec_ r).1 47 44) || decide (16 < bits (rec_ r).2 52 48)) }

def saveSize : Nat := 4 * mib

/-- The checks of LOAD in their order (R77, R526). -/
def State.loadStatus (s : State) (d : DieId) (r : CtxRecord) : Nat :=
  let on := r.queues.toList.filter (·.enabled)
  if r.reserved then 0x01
  else if on.any (fun q => !s.localOk d q.sram q.base (64 * 2 ^ q.log2)) || !s.localOk d false r.saveArea saveSize then 0x10
  else if on.any (fun q => q.base % 64 != 0) || r.saveArea % 4096 != 0 then 0x11
  else 0

/-- Writes every queue status word of a context (R76). -/
def State.writeAllWords (s : State) (d : DieId) (c : CtxId) : State :=
  allSlots72.foldl (fun s r => s.writeStatusWord ⟨d, c, r⟩ (s.queue ⟨d, c, r⟩).head) s

/-- LOAD: a load that fails leaves the context empty. -/
def execLoad (c : ChanId) (seq : Nat) (s : State) : Result :=
  s.contextCommand c seq 1 (· == .empty) fun x d cx =>
    let off := x.qw 3
    if !s.localOk d false off 2048 then s.finish c seq 0x10 []
    else if off % 4096 ≠ 0 then s.finish c seq 0x11 []
    else match s.readLocal d false off 2048 with
      | (s, 0, b) =>
        let r := parseCtx b
        let st := s.loadStatus d r
        if st ≠ 0 then s.finish c seq st []
        else
          let s := s.updCtx d cx fun _ =>
            { Ctx.reset with state := .loaded, priority := r.priority, saveArea := r.saveArea, errOn := r.errOn,
                             errSo := r.errSo, preempt := r.preempt, recOff := off, q := r.queues }
          let s := s.updDie d fun y =>
            { y with flags := Vector.ofFn fun (i : Fin 32) =>
                       if i.val / 4 = cx.val then flagsClear else y.flags[i] }
          (s.writeAllWords d cx).finish c seq 0 []
      | (s, st, _) => s.finish c seq st []

/-! ## START, STOP, UNLOAD, CLEAR (R77) -/

/-- Halts the enabled queues of a context whose doorbell already stands past their ring (R70). -/
def State.haltOverrun (s : State) (d : DieId) (cx : CtxId) : State :=
  allSlots72.foldl (fun s r =>
    let q : QueueId := ⟨d, cx, r⟩
    let qu := s.queue q
    if qu.enabled ∧ qu.status = 0 ∧ 2 ^ qu.log2 < (s.die d).backlog qu then s.failAt q 0x09 qu.next else s) s

/-- START: the queues execute; what a unit saved is restored before it serves the context (R96). -/
def execStart (c : ChanId) (seq : Nat) (s : State) : Result :=
  s.contextCommand c seq 2 (fun x => x == .loaded || x == .stopped) fun _ d cx =>
    (State.haltOverrun (s.updCtx d cx fun y => { y with state := .running }) d cx).finish c seq 0 []

/-- Units that hold work of a context: they stop at their boundary and save (R95, R96). -/
def State.busyUnits (s : State) (d : DieId) (cx : CtxId) : List UnitId :=
  allUnits.filter fun u => decide (0 < (s.getCtx d cx).inFlight u ∧ u ∉ (s.getCtx d cx).saved)

/-- Ends a STOP: the head counts and other queue state go to the save area, the status words are written, the context is
stopped (R97, R98). The layout of the 16 KiB is open (log 12). -/
def State.stopped (s : State) (d : DieId) (cx : CtxId) : State :=
  let (bs, s) := s.freshBytes 16384
  let s := (s.writeLocal d false ((s.getCtx d cx).saveArea + 0x330000) bs).1
  let s := s.writeAllWords d cx
  let s := s.updCtx d cx fun y => { y with state := .stopped, savesLeft := [], stopCmd := none }
  s.updDie d fun x => { x with unit := x.unit.map fun u => if u.bound = some cx then { u with bound := none } else u }

/-- STOP: with no unit at work it completes at once, else when every engine has saved. -/
def execStop (c : ChanId) (seq : Nat) (s : State) : Result :=
  s.contextCommand c seq 3 (· == .running) fun _ d cx =>
    let us := s.busyUnits d cx
    if us.isEmpty then (s.stopped d cx).finish c seq 0 []
    else
      let s := s.updCtx d cx fun y => { y with state := .stopping, savesLeft := us, stopCmd := some (c, seq) }
      let s := us.foldl (fun s u => s.updUnit d u fun x => { x with stopping := true, bound := some cx }) s
      s.updChan c (·.updCmd seq fun x => { x with started := true })

/-- Drops the engine work of a context: its matrix runs. -/
def Die.dropRuns (x : Die) (cx : CtxId) : Die :=
  { x with mx := x.mx.map fun m => { m with runs := m.runs.filter fun r => decide (r.q.ctx ≠ cx) } }

/-- Operations of a die's descriptors that no queue has started any more: those not yet sent are dropped, the others end for nobody. -/
def State.orphanOps (s : State) (d : DieId) : State :=
  let gone : Owner → Bool
    | .descriptor q p => q.die == d && !((s.queue q).started.any (·.pos == p))
    | .header q p => q.die == d && !((s.queue q).started.any (·.pos == p))
    | _ => false
  let end_ (o : RemOp) : RemOp := if gone o.owner then { o with owner := .orphan } else o
  s.updSource (srcOf d) fun x => { x with ops := (x.ops.filter fun o => !(gone o.owner && o.seq.isNone)).map end_ }

/-- Ends what still runs of a queue's cancelled descriptors. -/
def State.dropCancelled (s : State) (q : QueueId) : State :=
  let gone := ((s.queue q).started.filter (·.cancelled)).map (·.pos)
  let s := s.updQueue q fun x => { x with started := x.started.filter fun e => !e.cancelled }
  let s := s.updDie q.die fun x => { x with mx := x.mx.map fun (m : Mx) =>
    { m with runs := m.runs.filter fun r => !(r.q == q && gone.contains r.pos) } }
  s.orphanOps q.die

/-- UNLOAD: the status words are written and the context is empty. -/
def execUnload (c : ChanId) (seq : Nat) (s : State) : Result :=
  s.contextCommand c seq 4 (fun x => x == .loaded || x == .stopped || x == .faulted) fun _ d cx =>
    let s := s.writeAllWords d cx
    (((s.updCtx d cx fun _ => Ctx.reset).updDie d (·.dropRuns cx)).orphanOps d).finish c seq 0 []

/-- CLEAR: the queue's status becomes 0x00; the next START resumes at the descriptor that halted it. -/
def execClear (c : ChanId) (seq : Nat) (s : State) : Result :=
  s.contextCommand c seq 5 (· == .stopped) fun x d cx =>
    let q : QueueId := ⟨d, cx, ⟨bits (x.qw 2) 38 32 % 72, by omega⟩⟩
    let s := (s.updQueue q fun y => { y with status := 0, haltPos := none }).dropCancelled q
    (s.writeStatusWord q (s.queue q).head).finish c seq 0 []

/-! ## Pre-emption, save, restore (R95 to R98) -/

/-- PREEMPTION (R95): the bound context is pre-emptible, has work in flight, and context x of higher priority has an
eligible descriptor for the unit, or one that was pre-empted. -/
def execPreemption (d : DieId) (u : UnitId) (x : CtxId) (s : State) : Result :=
  let un := s.getUnit d u
  match un.bound with
  | none => .next s
  | some b =>
    if b ≠ x ∧ !un.stopping ∧ (s.getCtx d b).preempt ∧ (s.getCtx d b).state = .running ∧ 0 < s.inFlight d u
        ∧ (s.getCtx d b).priority < (s.getCtx d x).priority ∧ s.wants d u x ∧ !s.frozenDie d then
      .next (((s.updUnit d u fun y => { y with stopping := true }).emit d 0x07 1 u.val b.val 0).raise
        { code := 0x0802, unit := uUnit d u, ctx := some b.val })
    else .next s

/-- Offset and size of a unit's part of the save area (R97); units GT to DM7 share 64 KiB. -/
def saveExtent (u : UnitId) : Nat × Nat :=
  if u.val < 4 then (0x80000 * u.val, 0x80000)
  else if u.val < 6 then (0x200000 + 0x10000 * (u.val - 4), 0x10000)
  else if u.val = 6 then (0x220000, 0x100000)
  else (0x320000 + 0x1000 * (u.val - 7), 0x1000)

/-- A save or restore meets an uncorrectable error: the context is faulted, its queues report 0x12, event 0x0806; a STOP
that waits ends with 0x12 (R98). -/
def State.faultCtx (s : State) (d : DieId) (cx : CtxId) : State :=
  let stop := (s.getCtx d cx).stopCmd
  let s := s.updCtx d cx fun y =>
    { y with state := .faulted, savesLeft := [], stopCmd := none,
             q := y.q.map fun q => if q.enabled then { q with status := 0x12 } else q }
  let s := s.updDie d fun x =>
    { x with unit := x.unit.map fun u => if u.bound = some cx then { u with bound := none, stopping := false } else u }
  let s := (s.writeAllWords d cx).raise { code := 0x0806, unit := uDie d, ctx := some cx.val }
  match stop with
  | some (c, seq) => s.finish c seq 0x12 []
  | none => s

/-- The context whose saved state a unit restores next: of the running ones, the highest priority, then the order of R73. -/
def State.restoreNext (s : State) (d : DieId) (u : UnitId) : Option CtxId :=
  let cs := (ctxOrder (s.getUnit d u).lastCtx).filter fun c =>
    decide ((s.getCtx d c).state = .running ∧ u ∈ (s.getCtx d c).saved)
  let top := (cs.map fun c => (s.getCtx d c).priority).foldl Nat.max 0
  cs.find? fun c => (s.getCtx d c).priority == top

end Sys2Proof.Machine
end

