-- ==== Sys2Proof/Machine/TensorOps.lean ====
section
/-! DEFINITION. The tensor descriptor and the elements it names: parsing, checks, reading and writing rows (R133 to R135, R186
to R190), and the settings an open colophon imposes (R175). -/

namespace Sys2Proof.Machine

/-! ## The descriptor (R186) -/

/-- The format of a descriptor that has passed its reserved-value check. -/
def Tensor.format (t : Tensor) : Fmt := (Fmt.ofCode t.fmt).getD .fp32

/-- A tensor descriptor of 64 bytes, and whether it holds a reserved value. -/
def parseTensor (b : List Byte) : Tensor × Bool :=
  let f (o n : Nat) : Nat := leNat ((b.drop o).take n)
  let w0 := f 0 8
  let w1 := f 8 8
  let st := f 0x2E 18
  let t : Tensor :=
    { fmt := bits w0 63 56, sram := bits w0 47 44 == 1, base := bits w0 43 0, stride0 := bits w1 63 48,
      scaleSram := bits w1 47 44 == 1, scale := bits w1 43 0,
      sizes := #v[f 0x10 3, f 0x13 3, f 0x16 3, f 0x19 3, f 0x1C 3],
      origin := #v[f 0x1F 3, f 0x22 3, f 0x25 3, f 0x28 3, f 0x2B 3],
      strides := #v[bits st 35 0, bits st 71 36, bits st 107 72, bits st 143 108] }
  (t, (Fmt.ofCode t.fmt).isNone || decide (1 < bits w0 47 44) || (t.format.isMx && decide (1 < bits w1 47 44)))

def Tensor.size (t : Tensor) (i : Nat) : Nat := t.sizes.toList.getD i 1
def Tensor.org (t : Tensor) (i : Nat) : Nat := t.origin.toList.getD i 0

/-- Stride of a dimension above 0, in bytes. -/
def Tensor.strideOf (t : Tensor) (i : Nat) : Nat := t.strides.toList.getD (i - 1) 0

def Tensor.empty (t : Tensor) : Bool := t.sizes.toList.any (· == 0)

/-- Number of rows: the product of the sizes of dimensions 1 to 4. -/
def Tensor.rowCount (t : Tensor) : Nat := t.size 1 * t.size 2 * t.size 3 * t.size 4

def Tensor.count (t : Tensor) : Nat := t.size 0 * t.rowCount

/-- Scale bytes of a row (R189). -/
def Tensor.blocks (t : Tensor) : Nat := ceilDiv (t.size 0) 32

/-- Bytes of a row's packing groups, or of its elements at the stride (R133, R187). -/
def Tensor.rowBytes (t : Tensor) : Nat :=
  if t.format.packed then ceilDiv (t.size 0) t.format.groupElems * t.format.groupBytes
  else (t.size 0 - 1) * t.stride0 * t.format.groupBytes + t.format.groupBytes

/-- Bytes from the base to the end of the last element. -/
def Tensor.extent (t : Tensor) : Nat :=
  if t.empty then 0
  else t.rowBytes + (t.size 1 - 1) * t.strideOf 1 + (t.size 2 - 1) * t.strideOf 2 + (t.size 3 - 1) * t.strideOf 3
    + (t.size 4 - 1) * t.strideOf 4

/-- Coordinates c1 to c4 of row n, dimension 1 innermost. -/
def Tensor.rowCoords (t : Tensor) (n : Nat) : List Nat :=
  [n % t.size 1, n / t.size 1 % t.size 2, n / (t.size 1 * t.size 2) % t.size 3,
   n / (t.size 1 * t.size 2 * t.size 3) % t.size 4]

/-- Address of a row at coordinates c1 to c4 (R187). -/
def Tensor.rowAddr (t : Tensor) (c : List Nat) : Nat :=
  t.base + c.getD 0 0 * t.strideOf 1 + c.getD 1 0 * t.strideOf 2 + c.getD 2 0 * t.strideOf 3 + c.getD 3 0 * t.strideOf 4

/-- Address of a row's scale bytes (R189). -/
def Tensor.scaleAddr (t : Tensor) (c : List Nat) : Nat :=
  t.scale + t.blocks * (c.getD 0 0 + t.size 1 * (c.getD 1 0 + t.size 2 * (c.getD 2 0 + t.size 3 * c.getD 3 0)))

/-! ## Checks (R188, R190) -/

/-- Extents outside their space (R190, first check). -/
def State.tensorOut (s : State) (d : DieId) (t : Tensor) : Bool :=
  !t.empty && (!s.localOk d t.sram t.base t.extent
    || (t.format.isMx && !s.localOk d t.scaleSram t.scale (t.blocks * t.rowCount)))

/-- R134: the base and the strides above dimension 0 are multiples of the group's size; an FP6 base is free. -/
def Tensor.misaligned (t : Tensor) : Bool :=
  let g := t.format.groupBytes
  (g != 3 && t.base % g != 0) || [1, 2, 3, 4].any fun i => t.strideOf i % g != 0

/-- The value rules of R190, and R188 for a tensor that is written. -/
def Tensor.badValue (t : Tensor) (written : Bool) : Bool :=
  (t.format.packed && t.stride0 != 1) || t.format == .e8m0
    || [0, 1, 2, 3, 4].any (fun i => t.size i != 0 && decide (16777215 < t.size i - 1 + t.org i))
    || (written && ((decide (1 < t.size 0) && t.stride0 == 0) || [1, 2, 3, 4].any fun i => decide (1 < t.size i) && t.strideOf i == 0))

/-- Status of R190 for one tensor, in the order listed. -/
def State.tensorStatus (s : State) (d : DieId) (t : Tensor) (written : Bool) : Nat :=
  if s.tensorOut d t then 0x10 else if t.misaligned then 0x11 else if t.badValue written then 0x02 else 0

/-- First nonzero status of several checks. -/
def firstOf (sts : List Nat) : Nat := sts.foldl firstStatus 0

/-- Reads n descriptors of 64 bytes at a local place. -/
def State.readTensors (s : State) (d : DieId) (sram : Bool) (off n : Nat) : State × Nat × List (Tensor × Bool) :=
  match s.readLocal d sram off (64 * n) with
  | (s, 0, b) => (s, 0, (List.range n).map fun i => parseTensor ((b.drop (64 * i)).take 64))
  | (s, st, _) => (s, st, [])

/-- Place checks of a structure in local memory: 0x10, then 0x11 (R526). -/
def State.placeStatus (s : State) (d : DieId) (sram : Bool) (off len align : Nat) : Nat :=
  if !s.localOk d sram off len then 0x10 else if off % align ≠ 0 then 0x11 else 0

/-! ## Reading (R133 to R137) -/

/-- Element i of a packing group's bytes. -/
def unpack (f : Fmt) (group : List Byte) (i : Nat) : Nat := bits (leNat group) (f.bitsOf * i + f.bitsOf - 1) (f.bitsOf * i)

/-- Reads local bytes, keeping the first failing status. -/
def State.readAcc (s : State) (d : DieId) (st : Nat) (sram : Bool) (off len : Nat) : State × Nat × List Byte :=
  let (s, r, bs) := s.readLocal d sram off len
  (s, if st = 0 then r else st, if r = 0 then bs else List.replicate len 0)

/-- The element codes of a row. -/
def State.rowCodes (s : State) (d : DieId) (t : Tensor) (c : List Nat) : State × Nat × List Nat :=
  let f := t.format
  let a := t.rowAddr c
  let n := t.size 0
  if f.packed then
    let (s, st, bs) := s.readAcc d 0 t.sram a t.rowBytes
    (s, st, (List.range n).map fun i => unpack f ((bs.drop (i / f.groupElems * f.groupBytes)).take f.groupBytes) (i % f.groupElems))
  else if t.stride0 = 1 then
    let (s, st, bs) := s.readAcc d 0 t.sram a t.rowBytes
    (s, st, (chunksOf f.groupBytes (n + 1) bs).map leNat)
  else
    (List.range n).foldl (fun (s, st, xs) i =>
      let (s, st, bs) := s.readAcc d st t.sram (a + i * t.stride0 * f.groupBytes) f.groupBytes
      (s, st, xs ++ [leNat bs])) (s, 0, [])

/-- The elements i0 to i0 + n − 1 of every row, as a tensor of their own (scale bytes apart). -/
def Tensor.part (t : Tensor) (i0 n : Nat) : Tensor :=
  let f := t.format
  { t with base := t.base + (if f.packed then i0 / f.groupElems * f.groupBytes else i0 * t.stride0 * f.groupBytes),
           sizes := t.sizes.set 0 n, origin := t.origin.set 0 (t.origin[0] + i0) }

/-- The scale byte of each block of a row; 127 for a plain format. -/
def State.rowScales (s : State) (d : DieId) (t : Tensor) (c : List Nat) : State × Nat × List Nat :=
  if t.format.isMx then
    let (s, st, bs) := s.readAcc d 0 t.scaleSram (t.scaleAddr c) t.blocks
    (s, st, bs.map (·.toNat))
  else (s, 0, List.replicate t.blocks 127)

/-- The decoded elements of a row (R136). -/
def State.rowValues (s : State) (d : DieId) (t : Tensor) (c : List Nat) : State × Nat × List Ex :=
  let (s, st, ws) := s.rowCodes d t c
  let (s, st2, ks) := s.rowScales d t c
  (s, if st = 0 then st2 else st, ws.zipIdx.map fun (w, i) => t.format.decode w (ks.getD (i / 32) 127))

/-- The decoded elements i0 to i0 + n − 1 of a row; i0 is at a group boundary. -/
def State.segValues (s : State) (d : DieId) (t : Tensor) (c : List Nat) (i0 n : Nat) : State × Nat × List Ex :=
  if n = 0 then (s, 0, []) else
  let (s, st, ws) := s.rowCodes d (t.part i0 n) c
  let nb := (i0 + n - 1) / 32 - i0 / 32 + 1
  let (s, st, ks) := if t.format.isMx then s.readAcc d st t.scaleSram (t.scaleAddr c + i0 / 32) nb else (s, st, [])
  (s, st, ws.zipIdx.map fun (w, i) =>
    t.format.decode w (if t.format.isMx then (ks.getD ((i0 + i) / 32 - i0 / 32) 0).toNat else 127))

/-- Every row of a tensor, decoded, in ascending order. -/
def State.allValues (s : State) (d : DieId) (t : Tensor) : State × Nat × List (List Ex) :=
  (List.range t.rowCount).foldl (fun (s, st, xs) n =>
    let (s, st2, r) := s.rowValues d t (t.rowCoords n)
    (s, if st = 0 then st2 else st, xs ++ [r])) (s, 0, [])

/-! ## Writing -/

/-- What a descriptor has done so far: the state, its first failing status, its writes. -/
structure Work where
  s : State
  st : Nat
  wrote : List Wrote

def Work.write (k : Work) (d : DieId) (sram : Bool) (off : Nat) (bs : List Byte) : Work :=
  if bs = [] then k
  else
    let (s, r) := k.s.writeLocal d sram off bs
    { s := s, st := if k.st = 0 then r else k.st, wrote := k.wrote ++ [⟨sram, off, k.s.peek d sram off bs.length⟩] }

/-- Packs the codes of a row into its groups, unused positions zero. -/
def packRow (f : Fmt) (ws : List Nat) : List Byte :=
  (chunksOf f.groupElems (ws.length + 1) ws).flatMap fun g =>
    leBytes f.groupBytes (sumNat (g.zipIdx.map fun (w, i) => w * 2 ^ (f.bitsOf * i)))

/-- The writes of a row all of whose codes are given, in ascending address. -/
def Tensor.planRow (t : Tensor) (c : List Nat) (ws : List Nat) : List (Bool × Nat × List Byte) :=
  let f := t.format
  if f.packed ∨ t.stride0 = 1 then [(t.sram, t.rowAddr c, packRow f ws)]
  else ws.zipIdx.map fun (w, i) => (t.sram, t.rowAddr c + i * t.stride0 * f.groupBytes, leBytes f.groupBytes w)

/-- Splits a run of bytes at 64-byte boundaries. -/
def lineSplit (off : Nat) (bs : List Byte) : List (Nat × List Byte) :=
  let first := min bs.length (64 - off % 64)
  ((off, bs.take first) :: ((chunksOf 64 (bs.length / 64 + 2) (bs.drop first)).zipIdx.map fun (c, i) =>
    (off + first + 64 * i, c))).filter fun w => decide (w.2 ≠ [])

def Work.writeAll (k : Work) (d : DieId) (ws : List (Bool × Nat × List Byte)) : Work :=
  ws.foldl (fun k (sram, off, bs) => k.write d sram off bs) k

/-- The uncorrectable word that a write of an extent covers only in part (R226, R252). -/
def State.partBad (s : State) (d : DieId) (sram : Bool) (off len : Nat) : Option Place :=
  (s.localRuns d sram off len).findSome? fun (p, n) =>
    (((s.die p.die).badIn p.sram p.off n).find? fun w => !wholeWord p.off n w).map fun w => ⟨p.die, p.sram, 32 * w⟩

/-- Writes one output group of CB whole, or not at all when a word of it is uncorrectable (R220, R253). -/
def Work.writeGroup (k : Work) (d : DieId) (g : List (Bool × Nat × List Byte)) : Work :=
  match g.findSome? fun (sram, off, bs) => k.s.partBad d sram off bs.length with
  | some p => { k with s := k.s.memError p, st := firstStatus k.st 0x12 }
  | none => k.writeAll d g

/-- Writes the output groups of CB in ascending address as its rails agree: a group that disagrees once is recomputed, with
event 0x0201; twice ends the operation there with event 0x0202 and status 0x31 (R220). Groups without a comparison agree. -/
def Work.writeGroups (k : Work) (d : DieId) : List (List (Bool × Nat × List Byte)) → List RailObs → Work
  | [], _ => k
  | g :: gs, rs =>
    let cb := unitCode 0x04 d.val 2 0
    if k.st ≠ 0 then k
    else match rs.headD .agree with
    | .agree => Work.writeGroups (k.writeGroup d g) d gs (rs.drop 1)
    | .once => Work.writeGroups (Work.writeGroup { k with s := k.s.raise { code := 0x0201, unit := cb } } d g) d gs (rs.drop 1)
    | .twice => { k with s := k.s.raise { code := 0x0202, unit := cb }, st := 0x31 }

/-- Puts a write in its place in a list of ascending addresses. -/
def insertWrite (w : Bool × Nat × List Byte) : List (Bool × Nat × List Byte) → List (Bool × Nat × List Byte)
  | [] => [w]
  | x :: xs => if w.2.1 ≤ x.2.1 then w :: x :: xs else x :: insertWrite w xs

/-- Gathers ascending writes that lie in one line of 64 bytes. -/
def lineGroups : List (Bool × Nat × List Byte) → List (List (Bool × Nat × List Byte))
  | [] => []
  | w :: ws => match lineGroups ws with
    | (x :: g) :: gs => if w.1 = x.1 ∧ w.2.1 / 64 = x.2.1 / 64 then (w :: x :: g) :: gs else [w] :: (x :: g) :: gs
    | gs => [w] :: gs

/-- The 64-byte output groups of a list of writes, in ascending address (R220). -/
def groupsOf (ws : List (Bool × Nat × List Byte)) : List (List (Bool × Nat × List Byte)) :=
  lineGroups ((ws.flatMap fun (sram, off, bs) => (lineSplit off bs).map fun (o, c) => (sram, o, c)).foldr insertWrite [])

/-- Writes the codes of a row; `none` leaves an element as it stands. -/
def Work.writeRow (k : Work) (d : DieId) (t : Tensor) (c : List Nat) (ws : List (Option Nat)) : Work :=
  let f := t.format
  let a := t.rowAddr c
  if ws.all (·.isNone) then k
  else if ws.all (·.isSome) then k.writeAll d (t.planRow c (ws.map (·.getD 0)))
  else if f.packed then
    let (s, st, old) := k.s.rowCodes d t c
    let new := (ws.zip old).map fun (w, o) => w.getD o
    { k with s := s, st := if k.st = 0 then st else k.st }.write d t.sram a (packRow f new)
  else
    ws.zipIdx.foldl (fun k (w, i) => match w with
      | some v => k.write d t.sram (a + i * t.stride0 * f.groupBytes) (leBytes f.groupBytes v)
      | none => k) k

/-- Writes the scale bytes of a row's blocks; `none` leaves one as it stands. -/
def Work.writeScales (k : Work) (d : DieId) (t : Tensor) (c : List Nat) (ks : List (Option Nat)) : Work :=
  if t.format.isMx then
    ks.zipIdx.foldl (fun k (w, b) => match w with
      | some v => k.write d t.scaleSram (t.scaleAddr c + b) (leBytes 1 v)
      | none => k) k
  else k

/-- After a failure each element that was written holds its old or its new value, and which is open (R81, log 16). -/
def Work.undoSome (k : Work) (d : DieId) : State :=
  k.wrote.reverse.foldl (fun s w =>
    w.old.zipIdx.foldl (fun s (b, i) =>
      let (pick, s) := s.fresh 2
      if pick = 0 then (s.writeLocal d w.sram (w.off + i) [b]).1 else s) s) k.s

/-! ## Encoding a row (R143 to R148, R152, R216) -/

/-- Flags of an encoding: CS and CNZ (R153). -/
structure ConvFlags where
  cs : Bool
  cnz : Bool
  deriving DecidableEq, Repr

/-- The rounding of an output: nearest even, or stochastic with its seed and tag (R148). -/
structure Rounding where
  stochastic : Bool
  seed : Nat
  tag : Nat
  deriving DecidableEq, Repr

/-- u of the element at index c0 of a row. -/
def Rounding.u (r : Rounding) (t : Tensor) (c0 : Nat) (c : List Nat) : Option Nat :=
  if r.stochastic then
    some (srKey r.seed r.tag [c0 + t.org 0, c.getD 0 0 + t.org 1, c.getD 1 0 + t.org 2, c.getD 2 0 + t.org 3,
      c.getD 3 0 + t.org 4])
  else none

/-- Encodes consecutive elements of one block or row from index i0 on, under a scale. -/
def encodeRun (t : Tensor) (r : Rounding) (scale i0 : Nat) (c : List Nat) (xs : List Ex) : List Enc :=
  xs.zipIdx.map fun (x, i) =>
    if t.format.isMx ∧ scale = 0xFF then ⟨0, false, false⟩ else t.format.encode x scale (r.u t (i0 + i) c)

/-- The codes, scales and flags of a whole row (R152). -/
def encodeRow (t : Tensor) (r : Rounding) (c : List Nat) (xs : List Ex) : List Nat × List Nat × ConvFlags :=
  let parts := (chunksOf 32 (xs.length + 1) xs).zipIdx.map fun (b, k) =>
    let scale := if t.format.isMx then mxScale t.format b else 127
    (scale, encodeRun t r scale (32 * k) c b)
  let es := parts.flatMap (·.2)
  (es.map (·.bits), parts.map (·.1), ⟨es.any (·.cs), es.any (·.cnz)⟩)

/-! ## Settings of a program (R175) -/

/-- Whether a descriptor's arithmetic fields match the open colophon; panel and width count in canonical mode, where the
descriptor carries them. -/
def Ctx.settingsOk (x : Ctx) (mode : Nat) (panel : Option Nat) (wide : Option Bool) : Bool := match x.colophon with
  | none => true
  | some c => c.mode == mode && (mode != 0 || ((panel.getD c.panel == c.panel) && (wide.getD c.wide == c.wide)))

/-- AFX width of matrix combinations: the colophon's, else AFX64. -/
def Ctx.matrixWide (x : Ctx) : Bool := match x.colophon with
  | some c => c.wide
  | none => false

end Sys2Proof.Machine
end

