-- ==== Sys2Proof/Machine/Matrix.lean ====
section
/-! DEFINITION. The matrix engines: MMA, the drain of a tile with its check, self-test by MXTEST, spares and removal (04, and
the canonical combination of panels of 06). -/

namespace Sys2Proof.Machine

/-! ## The body (R119) -/

def wShape (w : Nat) : Nat := bits w 63 60
def wMode (w : Nat) : Nat := bits w 59 58
def wPanel (w : Nat) : Nat := bits w 57 54
def wInit (w : Nat) : Nat := bits w 53 52
def wDest (w : Nat) : Nat := bits w 51 49
def wStochastic (w : Nat) : Bool := wDest w == 1 && bit w 48
def wHandle (w : Nat) : Nat := bits w 47 40
def wLoop (w : Nat) : Nat := bits w 39 38

/-- Panel length P (R119, R162). -/
def panelLen (code : Nat) : Nat := 2 ^ (code + 8)

def tileM (shape : Nat) : Nat := if shape = 0 then 256 else if shape = 1 then 64 else 16
def tileN (shape : Nat) (folio : Bool) : Nat := (65536 / tileM shape) * (if folio then 2 else 1)

/-- Operand classes (R102): 0 integer, 1 16-bit, 2 8- and 6-bit, 3 4-bit float; none for FP32, INT32, E8M0. -/
def Fmt.matClass : Fmt → Option Nat
  | .int8 => some 0
  | .bf16 | .fp16 => some 1
  | .e4m3 | .e5m2 | .e3m2 | .e2m3 | .mxE4m3 | .mxE5m2 | .mxE3m2 | .mxE2m3 => some 2
  | .e2m1 | .mxE2m1 => some 3
  | .fp32 | .int32 | .e8m0 => none

/-- R120: the formats of A, B and C go together under a destination. -/
def formatsOk (a b c : Fmt) (dest : Nat) : Bool := match a.matClass, b.matClass with
  | some x, some y => x == y && (if x = 0 then c == .int32 || (dest == 1 && c == .int8)
                                 else c == .fp32 || (dest == 1 && c.isFloat))
  | _, _ => false

/-- R111: M, N, K agree, and batch dimensions but for broadcast of size 1. -/
def shapesOk (a b c : Tensor) : Bool :=
  a.size 0 == b.size 0 && a.size 1 == c.size 1 && b.size 1 == c.size 0
    && [2, 3, 4].all fun i => (a.size i == c.size i || a.size i == 1) && (b.size i == c.size i || b.size i == 1)

/-- Panels of a K extent (R111, R114). -/
def panelCount (w k : Nat) : Nat := if wMode w = 0 then ceilDiv k (panelLen (wPanel w)) else 1

/-! ## Validation (R121, R163, R172, R175) -/

/-- The engine of a matrix queue. -/
def engineOf (q : QueueId) : Fin 4 := ⟨(qUnit q).val % 4, by omega⟩

def reservedMma (d : List Nat) : Bool :=
  let w := qw d 7
  [4, 5, 6].any (fun i => decide (1 < bits (qw d i) 47 44)) || decide (2 < wShape w) || wMode w == 3
    || (wMode w == 0 && decide (8 < wPanel w)) || decide (1 < wInit w) || decide (2 < wDest w) || decide (1 < wLoop w)

/-- A quarter of the staging region for an engine, a half for a folio (R172). -/
def State.stagingShare (s : State) (folio : Bool) : Nat := s.setting 0x2072 1 * mib / (if folio then 2 else 4)

def stagingNeed (w k : Nat) (folio : Bool) : Nat := (panelCount w k + 1) * (if folio then 524288 else 262144)

/-- Checks 4 to 8 and those that follow check 7; a zero size ends them after check 7 (R122). -/
def State.mmaStatus (s : State) (q : QueueId) (w : Nat) (a b c : Tensor × Bool) : Nat :=
  let x := s.getCtx q.die q.ctx
  let folio := s.joined q.die ((engineOf q).val / 2)
  let canon := wMode w = 0
  let p := panelLen (wPanel w)
  if a.2 || b.2 || c.2 then 0x01
  else if !formatsOk a.1.format b.1.format c.1.format (wDest w) then 0x02
  else if !shapesOk a.1 b.1 c.1 then 0x02
  else if wInit w = 1 ∧ wDest w = 2 then 0x02
  else if canon ∧ (a.1.org 0 ≠ b.1.org 0 ∨ a.1.org 0 % p ≠ 0 ∨ c.1.org 0 % 256 ≠ 0) then 0x02
  else if !x.settingsOk (wMode w) (if canon then some (wPanel w) else none) none then 0x02
  else if 1 < panelCount w (a.1.size 0) ∧ s.stagingShare folio < stagingNeed w (a.1.size 0) folio then 0x02
  else if wDest w = 2 ∧ !(x.streams.any (·.handle == wHandle w)) then 0x02
  else if a.1.empty || b.1.empty || c.1.empty then 0
  else if [a.1, b.1, c.1].any (s.tensorOut q.die) then 0x10
  else if [a.1, b.1, c.1].any (·.misaligned) then 0x11
  else if a.1.badValue false || b.1.badValue false || c.1.badValue true then 0x02
  else 0

/-- Reads one tensor descriptor at a descriptor field. -/
def State.tensorAt (s : State) (d : DieId) (f : Nat) : State × Nat × (Tensor × Bool) :=
  let (s, st, b) := s.readLocal d (bits f 47 44 == 1) (bits f 43 0) 64
  (s, st, parseTensor b)

/-- Reads the three tensor descriptors after their place checks. -/
def State.mmaTensors (s : State) (q : QueueId) (d : List Nat) :
    State × Nat × (Tensor × Bool) × (Tensor × Bool) × (Tensor × Bool) :=
  let fs := [qw d 4, qw d 5, qw d 6]
  let place := fs.map fun f => s.placeStatus q.die (bits f 47 44 == 1) (bits f 43 0) 64 64
  let (s, s1, a) := s.tensorAt q.die (qw d 4)
  let (s, s2, b) := s.tensorAt q.die (qw d 5)
  let (s, s3, c) := s.tensorAt q.die (qw d 6)
  (s, if 0x10 ∈ place then 0x10 else if 0x11 ∈ place then 0x11 else firstOf [s1, s2, s3], a, b, c)

/-- The seed of a die's quire (R150). -/
def State.seedAt (s : State) (d : DieId) : Nat := match (s.die d).quire with
  | some k => s.setting 0x2070 (k.val + 1)
  | none => 0

/-- The stream that a descriptor with destination 2 feeds learns its panel count (R318). -/
def State.feedStream (s : State) (r : MmaRun) : State :=
  let feed (y : Stream) : Stream :=
    if y.handle = wHandle r.w7 then { y with panels := max y.panels (panelCount r.w7 (r.a.size 0)) } else y
  if wDest r.w7 ≠ 2 then s else s.updCtx r.q.die r.q.ctx fun x => { x with streams := x.streams.map feed }

/-- MMA (R119, R121, R122): the tensor descriptors are read once and the tile loop starts; a zero size retires at once. -/
def execMma (q : QueueId) (s : State) : Result :=
  s.onFront q 0x10 fun s d =>
    let p := (s.queue q).next
    let e := engineOf q
    if reservedMma d then s.failAt q 0x01 p
    else if s.engineAbsent q.die e then s.failAt q 0x03 p
    else
      let (s, st, a, b, c) := s.mmaTensors q d
      let st := if st = 0 then s.mmaStatus q (qw d 7) a b c else st
      if st ≠ 0 then s.failAt q st p
      else if a.1.empty || b.1.empty || c.1.empty then s.start q d p.after (startedOf p d true)
      else
        let run : MmaRun := { q := q, pos := p, a := a.1, b := b.1, c := c.1, w7 := qw d 7, tag := dTag d,
                              seed := s.seedAt q.die, tile := 0, panel := 0, retry := false, panels := [], flags := 0 }
        let s := (s.start q d p.after (startedOf p d false)).feedStream run
        s.updDie q.die fun x => { x with mx := x.mx.set e { x.mx[e] with runs := x.mx[e].runs ++ [run] } }

/-! ## The tile (R111, R112) -/

/-- Place of a tile: its batch coordinates, first row and column, rows and columns. -/
structure TileAt where
  batch : List Nat
  m0 : Nat
  n0 : Nat
  rows : Nat
  cols : Nat
  deriving DecidableEq, Repr

def MmaRun.tilesPerBatch (r : MmaRun) (folio : Bool) : Nat :=
  ceilDiv (r.c.size 1) (tileM (wShape r.w7)) * ceilDiv (r.c.size 0) (tileN (wShape r.w7) folio)

def MmaRun.tiles (r : MmaRun) (folio : Bool) : Nat := r.c.size 2 * r.c.size 3 * r.c.size 4 * r.tilesPerBatch folio

def MmaRun.panelTotal (r : MmaRun) : Nat := panelCount r.w7 (r.a.size 0)

/-- The tile in hand, in the descriptor's loop order; batches outermost dimension first. -/
def MmaRun.at_ (r : MmaRun) (folio : Bool) : TileAt :=
  let tm := tileM (wShape r.w7)
  let tn := tileN (wShape r.w7) folio
  let nm := ceilDiv (r.c.size 1) tm
  let nn := ceilDiv (r.c.size 0) tn
  let b := r.tile / (nm * nn)
  let t := r.tile % (nm * nn)
  let (mi, ni) := if wLoop r.w7 = 0 then (t / nn, t % nn) else (t % nm, t / nm)
  { batch := [b % r.c.size 2, b / r.c.size 2 % r.c.size 3, b / (r.c.size 2 * r.c.size 3)], m0 := mi * tm, n0 := ni * tn,
    rows := min tm (r.c.size 1 - mi * tm), cols := min tn (r.c.size 0 - ni * tn) }

/-- Coordinates of a row of an operand: a batch dimension of size 1 is broadcast. -/
def operandRow (t : Tensor) (i : Nat) (batch : List Nat) : List Nat :=
  i :: batch.zipIdx.map fun (b, k) => if t.size (k + 2) = 1 then 0 else b

/-- First K and length of the panel in hand. -/
def MmaRun.panelAt (r : MmaRun) : Nat × Nat :=
  let k := r.a.size 0
  if wMode r.w7 = 0 then
    let p := panelLen (wPanel r.w7)
    (r.panel * p, min p (k - r.panel * p))
  else (0, k)

/-- The decoded K segments of consecutive rows of an operand. -/
def State.operandRows (s : State) (d : DieId) (t : Tensor) (i0 n : Nat) (batch : List Nat) (k0 kn : Nat) :
    State × Nat × List (List Ex) :=
  (List.range n).foldl (fun (s, st, xs) i =>
    let (s, st2, v) := s.segValues d t (operandRow t (i0 + i) batch) k0 kn
    (s, firstStatus st st2, xs ++ [v])) (s, 0, [])

/-- A cell's value with its S and N marks: an FP32 pattern or an INT32 field. -/
structure Cell where
  v : Nat
  s : Bool
  n : Bool
  deriving DecidableEq, Repr

/-- FP32 accumulation over K in ascending order (R139, R140). -/
def cellFloat (init : Rs) (as bs : List Ex) : Cell :=
  let r := (as.zip bs).foldl (fun (acc : Rs) (a, b) =>
    let p := a.mul b
    let r := accAdd acc.v p
    ⟨r.v, acc.s || r.s || a.isInf || b.isInf, r.n⟩) init
  ⟨r.v.toNat, r.s, isNan32 r.v⟩

/-- The integer of a decoded integer element. -/
def Ex.int : Ex → Int
  | .num v _ => v.signed
  | .nan => 0

/-- INT32 accumulation, held at the limits (R141). -/
def cellInt (init : Int × Bool) (as bs : List Ex) : Cell :=
  let r := (as.zip bs).foldl (fun (acc : Int × Bool) (a, b) =>
    let h := holdInt 32 (acc.1 + a.int * b.int)
    (h.1, acc.2 || h.2)) init
  ⟨fieldOf 32 r.1, r.2, false⟩

def MmaRun.isInt (r : MmaRun) : Bool := r.a.format == .int8

/-- K elements that a cell takes in one K-cycle (R102). -/
def MmaRun.rate (r : MmaRun) : Nat := match r.a.format.matClass with
  | some 0 | some 2 => 2
  | some 3 => 4
  | _ => 1

/-- Twice the cycles of a K-cycle, the rate factor of R107: 2 in wide-16, 1.5 there when B is FP6, else 1. -/
def MmaRun.twiceS (r : MmaRun) : Nat :=
  if wShape r.w7 ≠ 2 then 2
  else match r.b.format with
    | .e3m2 | .e2m3 | .mxE3m2 | .mxE2m3 => 3
    | _ => 4

/-- The boundaries inside the panel-tile in hand, as K elements taken: wherever its issued cycles reach a multiple of 2,048 (R113, R115,
log 129). -/
def MmaRun.boundaries (r : MmaRun) : List Nat :=
  let kn := r.panelAt.2
  ((List.range (kn * r.twiceS / (4096 * r.rate) + 1)).map fun j => 4096 * (j + 1) / r.twiceS * r.rate).filter fun n =>
    decide (r.k < n) && decide (n < kn)

/-- A cell of the accumulating bank, to go on from (R97). -/
def accCell (c : Nat × Bool) : Rs := ⟨BitVec.ofNat 32 c.1, c.2, isNan32 (BitVec.ofNat 32 c.1)⟩

/-- The cells of the panel-tile in hand after its first n elements of K: status, rows of cells (R111). A tile that a save interrupted goes
on with its next K step from the accumulating bank (R115). -/
def State.panelCells (s : State) (r : MmaRun) (t : TileAt) (n : Nat) : State × Nat × List (List Cell) :=
  let d := r.q.die
  let k0 := r.panelAt.1 + r.k
  let (s, s1, as) := s.operandRows d r.a t.m0 t.rows t.batch k0 (n - r.k)
  let (s, s2, bs) := s.operandRows d r.b t.n0 t.cols t.batch k0 (n - r.k)
  let cells (ints : List (List (Int × Bool))) (floats : List (List Rs)) : List (List Cell) :=
    if r.isInt then (as.zip ints).map fun (a, c) => (bs.zip c).map fun (b, c0) => cellInt c0 a b
    else (as.zip floats).map fun (a, c) => (bs.zip c).map fun (b, c0) => cellFloat c0 a b
  if 0 < r.k then
    (s, firstOf [s1, s2], cells (r.acc.map fun x => x.map fun c => (signedOf 32 c.1, c.2)) (r.acc.map fun x => x.map accCell))
  else
    let (s, s3, cs) := if wInit r.w7 = 1 ∧ r.panel = 0 then
        (List.range t.rows).foldl (fun (s, st, xs) i =>
          let (s, st2, v) := s.segValues d r.c ((t.m0 + i) :: t.batch) t.n0 t.cols
          (s, firstStatus st st2, xs ++ [v])) (s, 0, [])
      else (s, 0, List.replicate t.rows (List.replicate t.cols (Ex.num Dy.zero false)))
    (s, firstOf [s1, s2, s3], cells (cs.map fun x => x.map fun c => (c.int, false)) (cs.map fun x => x.map term32))

/-- The cells of the whole panel-tile in hand. -/
def State.panelTile (s : State) (r : MmaRun) (t : TileAt) : State × Nat × List (List Cell) := s.panelCells r t r.panelAt.2

def cellFlags (rows : List (List Cell)) : TileFlags :=
  ⟨rows.any (·.any (·.n)), rows.any (·.any (·.s)), false, false⟩

/-! ## The check (R123, R124) -/

/-- A value that exempts its row and column: NaN, ±0x7F7FFFFF, or an INT32 limit (R142). -/
def exemptValue (int : Bool) (v : Nat) : Bool :=
  if int then v == 0x7FFFFFFF || v == 0x80000000 else v == 0x7FC00000 || v == 0x7F7FFFFF || v == 0xFF7FFFFF

/-- A physical row or column of an engine, or of a folio's higher engine (R108, R110). -/
structure CheckLine where
  higher : Bool
  row : Bool
  index : Nat
  deriving DecidableEq, Repr

def checkLine (k : CheckObs) : CheckLine := ⟨k.higher, k.row, k.index.val⟩

/-- The tile's values on a line: a wide shape's row groups hold the output columns in turn (R108). -/
def onLine (shape : Nat) (k : CheckLine) (rows : List (List Cell)) : List Nat :=
  let tm := tileM shape
  let half := if k.higher then 65536 / tm else 0
  if k.row then
    (((rows.getD (k.index % tm) []).drop (half + 256 * (k.index / tm))).take 256).map (·.v)
  else
    rows.flatMap fun r => (List.range (256 / tm)).filterMap fun g => (r[half + 256 * g + k.index]?).map (·.v)

/-- |difference| ≤ τ for a float comparison (R124). -/
def withinTau (kTile g : Nat) (k : CheckObs) : Bool :=
  let f := BitVec.ofNat 32 k.diff
  let m := val32 (BitVec.ofNat 32 k.mag)
  let tau : Dy := ⟨false, (kTile + 512) * m.sig, (g : Int) - 24 + m.exp⟩
  !isNan32 f && !isNan32 (BitVec.ofNat 32 k.mag) && !tau.lt { val32 f with neg := false }

/-- Row and column of the tile that a physical cell holds (R108, R110). -/
def cellPlace (shape : Nat) (k : CellObs) : Nat × Nat :=
  let tm := tileM shape
  (k.row.val % tm, (if k.higher then 65536 / tm else 0) + 256 * (k.row.val / tm) + k.column.val)

/-- The tile as it drains: faulty cells with the values they hold. -/
def withCells (shape : Nat) (obs : List CellObs) (rows : List (List Cell)) : List (List Cell) :=
  obs.foldl (fun rows k => modifyAt (fun r => modifyAt (fun (c : Cell) => { c with v := k.value % 2 ^ 32 }) r (cellPlace shape k).2) rows
    (cellPlace shape k).1) rows

def sumInt (xs : List Int) : Int := xs.foldl (· + ·) 0

/-- Difference of an integer line: its drained sum less the exact sum of its products, and what faulty checksum cells add (R123). -/
def intDiff (shape : Nat) (obs : TileObs) (exact drained : List (List Cell)) (l : CheckLine) : Int :=
  let total (rows : List (List Cell)) : Int := sumInt ((onLine shape l rows).map (signedOf 32))
  total drained - total exact + sumInt ((obs.checks.filter fun k => checkLine k == l).map fun k => signedOf 64 k.diff)

/-- Lines of the comparison that may differ from zero. -/
def obsLines (obs : TileObs) : List CheckLine :=
  obs.checks.map checkLine ++ obs.cells.flatMap fun k => [⟨k.higher, true, k.row.val⟩, ⟨k.higher, false, k.column.val⟩]

/-- Whether a line is out of the comparison: its dimension is unchecked, or it holds an exempt value (R124, R126, R142). -/
def State.lineOut (s : State) (r : MmaRun) (e : Fin 4) (rows : List (List Cell)) (l : CheckLine) : Bool :=
  let u := (s.die r.q.die).mx[if l.higher then (⟨(e.val + 1) % 4, by omega⟩ : Fin 4) else e].unchecked
  (l.row && u == 2) || (!l.row && u == 1) || (onLine (wShape r.w7) l rows).any (exemptValue r.isInt)

/-- Whether the drain's comparison passes. Integer lines are compared exactly. R123 gives the float sums no order and the registers no
width: the difference and the magnitude sum of a float line come with the command (log 130). -/
def State.tilePasses (s : State) (r : MmaRun) (e : Fin 4) (obs : TileObs) (exact drained : List (List Cell)) : Bool :=
  if r.isInt then
    (obsLines obs).all fun l => s.lineOut r e drained l || intDiff (wShape r.w7) obs exact drained l == 0
  else obs.checks.all fun k => s.lineOut r e drained (checkLine k) || withinTau r.panelAt.2 (s.setting 0x2060 1) k

/-! ## Output (R117, R153, R172, R332) -/

/-- Combines the panels of one element block in AFX: cells of up to 256 elements, from the panels' values (R165, R168). -/
def combineBlock (int wide : Bool) (panels : List (List Nat)) : List Cell :=
  let n := (panels.headD []).length
  if int then
    (List.range n).map fun i =>
      let t : Int := (panels.map fun p => signedOf 32 (p.getD i 0)).foldl (· + ·) 0
      let h := holdInt 32 t
      ⟨fieldOf 32 h.1, h.2, false⟩
  else
    let ts (i : Nat) : List F32 := panels.map fun p => BitVec.ofNat 32 (p.getD i 0)
    let a := anchorOf ((List.range n).flatMap ts)
    (List.range n).map fun i =>
      let r := canonCombine (ts i) a wide
      ⟨r.v.toNat, r.s, isNan32 r.v⟩

/-- A row of cells from a row's panels: blocks of 256 elements. -/
def combineRow (int wide : Bool) (panels : List (List Nat)) (cols : Nat) : List Cell :=
  (List.range (ceilDiv cols 256)).flatMap fun b =>
    combineBlock int wide (panels.map fun p => (p.drop (256 * b)).take 256)

/-- The exact value of a cell for its conversion. -/
def Cell.ex (int : Bool) (c : Cell) : Ex :=
  if int then .num (Dy.ofInt (signedOf 32 c.v)) false else dec32 (BitVec.ofNat 32 c.v)

/-- The writes of a finished tile and the flags of its conversion. -/
def tileWrites (r : MmaRun) (t : TileAt) (rows : List (List Cell)) :
    List (Bool × Nat × List Byte) × TileFlags :=
  let part := r.c.part t.n0 t.cols
  let rd : Rounding := ⟨wStochastic r.w7, r.seed, r.tag⟩
  let outs := rows.zipIdx.map fun ((row : List Cell), (i : Nat)) =>
    let c := (t.m0 + i) :: t.batch
    if wDest r.w7 = 1 then
      let (ws, ks, f) := encodeRow part rd c (row.map (Cell.ex r.isInt))
      (part.planRow c ws ++ (if r.c.format.isMx then [(r.c.scaleSram, r.c.scaleAddr c + t.n0 / 32, ks.flatMap (leBytes 1))]
        else []), f)
    else (part.planRow c (row.map Cell.v), ⟨false, false⟩)
  (outs.flatMap (·.1), ⟨false, false, outs.any (·.2.cs), outs.any (·.2.cnz)⟩)

/-- Flat index of row i of a tile in C's logical order. -/
def MmaRun.flat (r : MmaRun) (t : TileAt) (i : Nat) : Nat :=
  let b := t.batch
  t.n0 + r.c.size 0 * ((t.m0 + i) + r.c.size 1 * (b.getD 0 0 + r.c.size 2 * (b.getD 1 0 + r.c.size 3 * b.getD 2 0)))

/-- A stream that has taken a tile's rows: as present in memory, or as terms; the tile's S flag comes with them (R153, R332). -/
def Stream.takeTile (y : Stream) (r : MmaRun) (t : TileAt) (sat : Bool) (panels : List (List (List Nat))) : Stream :=
  let runs : List (Nat × Nat) := (List.range t.rows).map fun i => (r.flat t i, t.cols)
  { y with
    present := y.present ++ runs, sats := if sat then y.sats ++ runs else y.sats,
    terms := if panels.length = 1 then y.terms
      else y.terms ++ (List.range t.rows).map fun i => ⟨r.flat t i, panels.map fun p => p.getD i []⟩ }

/-- Records a tile's rows in the stream that its descriptor names. -/
def State.toStream (s : State) (r : MmaRun) (t : TileAt) (sat : Bool) (panels : List (List (List Nat))) : State :=
  s.updCtx r.q.die r.q.ctx fun x =>
    { x with streams := x.streams.map fun y => if y.handle = wHandle r.w7 then y.takeTile r t sat panels else y }

/-- Head count of the descriptor for the flag word (R154). -/
def MmaRun.head (r : MmaRun) (s : State) : Nat := (s.queue r.q).headAt r.pos

def State.updMx (s : State) (d : DieId) (e : Fin 4) (f : Mx → Mx) : State :=
  s.updDie d fun x => { x with mx := x.mx.set e (f x.mx[e]) }

/-- Replaces the loop at work, or ends it. -/
def State.setRun (s : State) (d : DieId) (e : Fin 4) (r : Option MmaRun) : State :=
  s.updMx d e fun m => { m with runs := (match r with
    | some x => [x]
    | none => []) ++ m.runs.drop 1 }

/-- Ends the loop at work with a failing status; a descriptor that was cancelled before fails no more (R81). -/
def State.failRun (s : State) (d : DieId) (e : Fin 4) (r : MmaRun) (st : Nat) : State :=
  let s := s.setRun d e none
  if (s.queue r.q).started.any (·.pos == r.pos) then s.failAt r.q st r.pos else s

/-- The higher engine of a folio. -/
def higherOf (e : Fin 4) : Fin 4 := ⟨(e.val + 1) % 4, by omega⟩

/-- The registers of an accumulator bank that hold a tile: physical row by row, from output column `half` on (R101, R108). -/
def bankCells (tm half : Nat) (rows : List (List Cell)) : SMap Nat :=
  (List.range 65536).filterMap fun x =>
    match (rows.getD (x / 256 % tm) [])[half + 256 * (x / 256 / tm) + x % 256]? with
    | some c => if c.v = 0 then none else some (x, c.v)
    | none => none

/-- Puts a tile's cells in the accumulating bank of its engine; in a folio, each engine holds its own half (R110). -/
def State.fillBank (s : State) (d : DieId) (e : Fin 4) (folio : Bool) (shape : Nat) (rows : List (List Cell)) : State :=
  let tm := tileM shape
  let put (half : Nat) (m : Mx) : Mx := { m with banks := m.banks.set m.bank (bankCells tm half rows) }
  let s := s.updMx d e (put 0)
  if folio then s.updMx d (higherOf e) (put (65536 / tm)) else s

/-- The banks alternate at a tile's end; the checksum cells of the bank that drains hold that tile's sums (R113, R123). -/
def Mx.swap (m : Mx) (free : Nat) : Mx :=
  { m with bank := ⟨(m.bank.val + 1) % 2, by omega⟩, checks := m.checks.set m.bank.val (some free) }

def State.drained (s : State) (d : DieId) (e : Fin 4) (folio : Bool) (shape : Nat) (rows : List (List Cell)) : State :=
  let s := s.fillBank d e folio shape rows
  let s := s.updMx d e (·.swap s.free)
  let s := if folio then s.updMx d (higherOf e) (·.swap (s.free + 1026)) else s
  { s with free := s.free + 2052 }

/-- The trace's record of a tile's end (type 0x11). How many cycles the feeders stalled is open. -/
def State.emitTile (s : State) (d : DieId) (e : Fin 4) (r : MmaRun) (f : TileFlags) : State :=
  let b (x : Bool) : Nat := if x then 1 else 0
  let (stall, s) := s.fresh (2 ^ 20)
  s.emit d 0x11 3 e.val r.q.ctx.val (r.tile % 2 ^ 16 * 2 ^ 24 + (8 * b f.n + 4 * b f.s + 2 * b f.cs + b f.cnz) * 2 ^ 20 + stall)

/-- After the last panel of a tile: output, flags, and the next tile or the end of the loop. -/
def State.finishTile (s : State) (d : DieId) (e : Fin 4) (r : MmaRun) (t : TileAt) (folio : Bool) (panelFlags : TileFlags)
    (panels : List (List (List Nat))) (single : List (List Cell)) (rails : List RailObs) : State :=
  let multi := decide (1 < panels.length)
  let wide := (s.getCtx r.q.die r.q.ctx).matrixWide
  let rows := if multi then (List.range t.rows).map fun i => combineRow r.isInt wide (panels.map fun p => p.getD i []) t.cols
    else single
  let stream := wDest r.w7 = 2
  let (ws, cf) := tileWrites r t rows
  let k : Work := { s := s, st := 0, wrote := [] }
  let k := if stream ∧ multi then k else if multi then k.writeGroups d (groupsOf ws) rails else k.writeAll d ws
  let flags := (panelFlags.or cf).or (if multi ∧ !stream then cellFlags rows else TileFlags.none)
  let s := k.s
  let s := (s.takeFlags d e r.q.ctx flags (r.head s) r.tile).emitTile d e r flags
  if k.st ≠ 0 then s.failRun d e r k.st
  else
    let s := if stream then s.toStream r t flags.s panels else s
    if r.tile + 1 < r.tiles folio then
      s.setRun d e (some { r with tile := r.tile + 1, panel := 0, retry := false, panels := [], flags := 0, k := 0, acc := [] })
    else (s.setRun d e none).updStarted r.q r.pos fun x => { x with done := true }

/-- The four flags of a code (R153). -/
def flagsOf (c : Nat) : TileFlags := ⟨bit c 0, bit c 1, bit c 2, bit c 3⟩

/-- What a failed tile leaves in memory: each element that it would have written holds its value from before, or one that the faulty
drain wrote, which is open (R81, R125). A panel partial goes to CB alone and leaves nothing (R114). -/
def State.spoilTile (s : State) (r : MmaRun) (t : TileAt) (rows : List (List Cell)) : State :=
  if wDest r.w7 = 2 ∨ 1 < r.panelTotal then s
  else
    (tileWrites r t rows).1.foldl (fun s (sram, off, bs) =>
      let (bs, s) := s.freshBytes bs.length
      let k : Work := { s := s, st := 0, wrote := [] }
      (k.write r.q.die sram off bs).undoSome r.q.die) s

/-- The engine's boundary at a tile's end: a freeze in force stops it there with its stop FT; one that is to be saved drains no further
(R62, R115). -/
def State.tileBoundary (s : State) (d : DieId) (e : Fin 4) : State :=
  let u : UnitId := ⟨e.val, by omega⟩
  let s := if (s.getUnit d u).stopping || s.power.stalled then s.updUnit d u fun x => { x with parked := true } else s
  if s.frozenDie d ∧ (s.getUnit d u).stopFt.isNone ∧ !(s.getUnit d u).stopping then s.stopUnit d u else s

/-- Bytes of canonical staging that a stream's tiles hold until the collective has released them (R172, R332). -/
def Stream.staged (y : Stream) : Nat := sumNat (y.terms.map fun t => sumNat (t.panels.map fun p => 4 * p.length))

/-- Whether the engine holds the next tile's first K step: its staging share lacks room for the tile's panels (R332). -/
def State.streamHeld (s : State) (d : DieId) (e : Fin 4) (r : MmaRun) : Bool :=
  let folio := s.joined d (e.val / 2)
  let held := sumNat (((s.getCtx d r.q.ctx).streams.filter (·.handle == wHandle r.w7)).map Stream.staged)
  wDest r.w7 == 2 && decide (1 < r.panelTotal) && r.panel == 0 && r.k == 0 && !r.retry
    && decide (s.stagingShare folio < held + stagingNeed r.w7 (r.a.size 0) folio)

/-- TILE_DRAIN (R113, R125, R155): the panel-tile in hand is formed, checked and drained. -/
def execTileDrain (d : DieId) (e : Fin 4) (obs : TileObs) (s : State) : Result :=
  match (s.die d).mx[e].runs with
  | [] => .next s
  | r :: _ =>
    let u : UnitId := ⟨e.val, by omega⟩
    let x := s.getCtx d r.q.ctx
    let folio := s.joined d (e.val / 2)
    if r.q.die ≠ d ∨ (x.state ≠ .running ∧ x.state ≠ .stopping) ∨ u ∈ x.saved ∨ (s.getUnit d u).stopFt.isSome
        ∨ (s.getUnit d u).parked ∨ s.stalled d u ∨ !s.running ∨ s.streamHeld d e r
        ∨ (s.die d).presence ≠ .inService then .next s
    else if s.engineAbsent d e then .next (s.failRun d e r 0x03)
    else
      let t := r.at_ folio
      let (s, st, exact) := s.panelTile r t
      let rows := withCells (wShape r.w7) obs.cells exact
      let flags := (flagsOf r.flags).or (cellFlags rows)
      if st ≠ 0 then .next (s.failRun d e r st)
      else if !s.tilePasses r e obs exact rows then
        if s.setting 0x2060 2 = 1 ∧ !r.retry ∧ !(wInit r.w7 = 1 ∧ r.panel = 0) then
          .next (((s.updMx d e fun m => { m with recomputed := m.recomputed + 1 }).setRun d e
            (some { r with retry := true, k := 0, acc := [] })).tileBoundary d e)
        else
          let s := ((s.updMx d e fun m => { m with failures := m.failures + 1 }).spoilTile r t rows).takeFlags d e r.q.ctx flags (r.head s) r.tile
          .next (((s.failRun d e r 0x30).raise { code := 0x0101, unit := uEngine d e }).tileBoundary d e)
      else
        let s := if r.retry then s.raise { code := 0x0102, unit := uEngine d e } else s
        let s := s.drained d e folio (wShape r.w7) rows
        let vals := rows.map fun row => row.map (·.v)
        let panels := r.panels ++ [vals]
        let s := if r.panel + 1 < r.panelTotal then
            s.setRun d e (some { r with panel := r.panel + 1, retry := false, panels := panels, flags := flags.code, k := 0, acc := [] })
          else s.finishTile d e r t folio flags panels rows obs.rails
        .next (s.tileBoundary d e)

/-! ## Self-test, spares and removal (R126 to R128, R482) -/

/-- A fault that the engine's state already covers: the replaced line, or a checksum already out of duty. -/
def Mx.covers (m : Mx) (f : CellFault) : Bool := match f with
  | .cell r c => m.spare && (if m.column then m.index == c.val else m.index == r.val)
  | .row r => m.spare && !m.column && m.index == r.val
  | .column c => m.spare && m.column && m.index == c.val
  | .checkRow => m.unchecked == 1 && !m.spare
  | .checkColumn => m.unchecked == 2 && !m.spare

/-- What a fault makes of an engine that has lost nothing yet (R126). -/
def Mx.tipIn (m : Mx) (f : CellFault) : Mx := match f with
  | .cell r _ => { m with unchecked := 1, spare := true, column := false, index := r.val }
  | .row r => { m with unchecked := 1, spare := true, column := false, index := r.val }
  | .column c => { m with unchecked := 2, spare := true, column := true, index := c.val }
  | .checkRow => { m with unchecked := 1 }
  | .checkColumn => { m with unchecked := 2 }

/-- Fails the descriptors in progress on an engine with 0x03. -/
def State.failEngine (s : State) (d : DieId) (e : Fin 4) : State :=
  (s.die d).mx[e].runs.foldl (fun s r =>
    let s := s.updMx d e fun m => { m with runs := m.runs.filter (· ≠ r) }
    if (s.queue r.q).started.any (·.pos == r.pos) then s.failAt r.q 0x03 r.pos else s) s

/-- Removes an engine from service, and a joined folio with it (R127). -/
def State.removeEngine (s : State) (d : DieId) (e : Fin 4) : State :=
  let f := e.val / 2
  let lower : Fin 4 := ⟨2 * f, by omega⟩
  let other : Fin 4 := ⟨2 * f + (1 - e.val % 2), by omega⟩
  let s := (s.updMx d e fun m => { m with removed := true, found := [] }).raise { code := 0x0105, unit := uEngine d e }
  if s.joined d f then
    let s := (s.updMx d other fun m => { m with removed := true, found := [] }).raise { code := 0x0106, unit := uFolio d f }
    s.failEngine d lower
  else s.failEngine d e

/-- One found fault: a spare is tipped in, or the engine is removed when it has already lost a dimension (R126, R127). -/
def State.applyFault (s : State) (d : DieId) (e : Fin 4) (f : CellFault) : State :=
  let m := (s.die d).mx[e]
  if m.removed || m.covers f then s
  else if m.unchecked = 0 then (s.updMx d e (·.tipIn f)).raise { code := 0x0104, unit := uEngine d e }
  else s.removeEngine d e

/-- MATRIX_SPARE_TIP_IN (R126): at a tile boundary, every fault found since the last. -/
def execMatrixSpareTipIn (d : DieId) (e : Fin 4) (s : State) : Result :=
  let fs := (s.die d).mx[e].found
  if fs.isEmpty then .next s
  else .next (fs.foldl (fun s f => s.applyFault d e f) (s.updMx d e fun m => { m with found := [] }))

/-- Event 0x0103 of an engine: the detail is the FT of its last passing self-test (R482). -/
def State.faultEvent (s : State) (d : DieId) (e : Fin 4) : State :=
  s.raise { code := 0x0103, unit := uEngine d e, detail := (s.die d).mx[e].passFt }

/-- A full self-test of one engine outside gutters that found these faults (R128). -/
def State.testEngine (s : State) (d : DieId) (e : Fin 4) (fs : List CellFault) : State :=
  let s := State.updMx { s with free := s.free + 66562 } d e fun m =>
    { m with test := some s.free, checks := m.checks.set 2 (some (s.free + 65536)) }
  if fs.isEmpty then s.updMx d e fun m => { m with passFt := s.now, slices := 0, failedRound := false }
  else s.faultEvent d e

/-- MXTEST (R128): a fault fails it with 0x30 and event 0x0103 when it completes; the tip-in follows. -/
def execMxtest (q : QueueId) (found : List (Bool × CellFault)) (s : State) : Result :=
  s.onFront q 0x11 fun s d =>
    let p := (s.queue q).next
    let e := engineOf q
    if s.engineAbsent q.die e then s.failAt q 0x03 p
    else
      let folio := s.joined q.die (e.val / 2)
      let higher : Fin 4 := ⟨(e.val + 1) % 4, by omega⟩
      let low := (found.filter fun f => !f.1).map (·.2)
      let high := if folio then (found.filter (·.1)).map (·.2) else []
      let s := s.start q d p.after (startedOf p d true)
      let s := s.testEngine q.die e low
      let s := if folio then s.testEngine q.die higher high else s
      if low.isEmpty ∧ high.isEmpty then s
      else
        let s := s.failAt q 0x30 p
        let s := low.foldl (fun s f => s.applyFault q.die e f) s
        high.foldl (fun s f => s.applyFault q.die higher f) s

end Sys2Proof.Machine
end

