-- ==== Sys2Proof/Machine/Remote.lean ====
section
/-! DEFINITION. Remote operations: packets, injection and retry at the source, the handling order, lanes, clasps and the reply
cache at the destination, multicast, completion (R255 to R283). -/

namespace Sys2Proof.Machine

/-! ## Packets (R271, R272) -/

def addrOfNat (n : Nat) : Nat := n % 2 ^ 64

def b2n (b : Bool) : Nat := if b then 1 else 0

/-- Bytes of a request that its CRC covers (R271): the header to 0x2B, then the payload. -/
def requestBytes (r : Request) : List Byte :=
  leBytes 8 r.target ++ leBytes 8 r.attemptFt ++ leBytes 8 r.firstFt ++ leBytes 2 r.srcNode ++ leBytes 1 (r.srcDie + 32 * (r.reserved % 8)) ++
  leBytes 1 r.stream ++ leBytes 2 r.srcEpoch ++ leBytes 1 r.op ++
  leBytes 1 (128 * b2n r.clasp + 64 * b2n r.retry + 32 * b2n r.fresh + 16 * b2n r.wide + 8 * b2n r.signed + r.reserved / 8 % 8) ++
  leBytes 4 r.seq ++ leBytes 4 r.floor ++ leBytes 2 r.size ++ leBytes 1 r.tag ++ leBytes 1 (r.attempt + 8 * (r.reserved / 64 % 32)) ++ r.payload

def requestOk (r : Request) : Bool := r.crc == crc32c (requestBytes r)

/-- Bytes of a reply that its CRC covers (R272). -/
def replyBytes (r : Reply) : List Byte :=
  leBytes 8 r.replyFt ++ leBytes 2 r.node ++ leBytes 1 r.die ++ leBytes 1 r.stream ++ leBytes 4 r.seq ++
  leBytes 2 r.epoch ++ leBytes 1 r.status ++ leBytes 1 (128 * b2n r.hot + 64 * b2n r.cached + 32 * b2n r.nk + r.reserved % 32) ++
  leBytes 2 r.payload.length ++ leBytes 2 (r.reserved / 32) ++ r.payload

def replyOk (r : Reply) : Bool := r.crc == crc32c (replyBytes r)

/-! ## Access to a place (R226, R236, R253) -/

/-- Reads a place for a die: status and bytes; one that the spine does not reach ends with 0x20. -/
def State.readOwn (s : State) (d : DieId) (p : Place) (n : Nat) : State × Nat × List Byte :=
  if !s.reaches d p.die then (s.unreachable d p.die, 0x20, [])
  else
    let s1 := s.correctIn p n
    match badPlaces s [(p, n)] with
    | [] => (s1, 0, slice ((s.die p.die).mem p.sram) p.off n)
    | ps => (s1.memErrors ps, 0x12, [])

/-- Writes bytes at a place for a die: status. -/
def State.writeOwn (s : State) (d : DieId) (p : Place) (bs : List Byte) : State × Nat :=
  if !s.reaches d p.die then (s.unreachable d p.die, 0x20)
  else match s.partlyBad p bs.length with
    | [] => ((s.writePlace p bs).1, 0)
    | ps => ((s.writePlace p bs).1.memErrors ps, 0x12)

/-! ## Source state -/

/-- 0x5130, per die (R283). -/
def State.countRemote (s : State) (d : DieId) (i : Fin 7) : State :=
  s.updDie d fun x => { x with remCounts := x.remCounts.set i (x.remCounts[i] + 1) }

/-- FT counter of a source die: the host edge die's for die 20. -/
def State.srcFt (s : State) (d : SrcDie) : Nat :=
  if h : d.val < 20 then (s.die ⟨d.val, h⟩).ft else s.edgeFt[8]

/-- Epoch of a source die; the host edge die has none and sends 0 (log 11). -/
def State.srcEpoch (s : State) (d : SrcDie) : Nat := if h : d.val < 20 then (s.die ⟨d.val, h⟩).epoch else 0

/-- The compute die at which a source enters the spine: the host edge die enters at CD02 (R22). -/
def entryDie (d : SrcDie) : DieId := if h : d.val < 20 then ⟨d.val, h⟩ else 2

def State.srcOp (s : State) (d : SrcDie) (id : Nat) : Option RemOp := (s.source d).ops.find? (·.id == id)

def State.updOp (s : State) (d : SrcDie) (id : Nat) (f : RemOp → RemOp) : State :=
  s.updSource d fun x => { x with ops := x.ops.map fun o => if o.id = id then f o else o }

def State.srcKey (s : State) (d : SrcDie) (stream : Nat) (k : DestKey) : Option SrcKey :=
  (s.source d).keys.find? fun x => x.stream == stream && x.key == k

def State.updKey (s : State) (d : SrcDie) (stream : Nat) (k : DestKey) (f : SrcKey → SrcKey) : State :=
  s.updSource d fun x => { x with keys := x.keys.map fun y => if y.stream = stream ∧ y.key = k then f y else y }

/-- The key's state, made afresh with sequence 0 and N = 1 when there is none (R279). -/
def State.openKey (s : State) (d : SrcDie) (o : RemOp) : State :=
  if (s.srcKey d o.stream o.key).isSome then s else
  s.updSource d fun x => { x with keys := x.keys ++
    [{ stream := o.stream, key := o.key, node := o.node, next := 0, fresh := true, hotUntil := 0, idle := none,
       settled := false }] }

/-- Operations of a key that are outstanding: injected and not completed (R273). -/
def State.outstanding (s : State) (d : SrcDie) (stream : Nat) (k : DestKey) : List RemOp :=
  (s.source d).ops.filter fun o => o.stream == stream && o.key == k && o.seq.isSome

/-- The ack floor: every lower sequence has its reply (R271). -/
def State.ackFloor (s : State) (d : SrcDie) (stream : Nat) (k : DestKey) : Nat :=
  let next := ((s.srcKey d stream k).map (·.next)).getD 0
  ((s.outstanding d stream k).map fun o => o.seq.getD next).foldl Nat.min next

/-- Whether the windows of R273 and R274 allow one more operation. -/
def State.windowOpen (s : State) (d : SrcDie) (o : RemOp) : Bool :=
  let out := s.outstanding d o.stream o.key
  let hot := match s.srcKey d o.stream o.key with
    | some k => decide (s.mono < k.hotUntil)
    | none => false
  let (n, b) := if hot then (4, 16384) else (64, 262144)
  decide (out.length < n) && decide (sumNat (out.map (·.size)) + o.size ≤ b)

/-- Whether a source may inject now: its die is in service, no freeze is in force, and for another node no gutter stops
data injection (R54, R62, R49). -/
def State.mayInject (s : State) (d : SrcDie) (o : RemOp) : Bool :=
  s.frz.cut.isNone && (s.die (entryDie d)).presence == .inService && s.pause.isNone
    && (o.node == s.node || s.gut.now.isNone)

/-- The request of an attempt (R271). -/
def State.requestOf (s : State) (d : SrcDie) (o : RemOp) : Request :=
  let r : Request :=
    { target := addrOfNat o.target, attemptFt := s.srcFt d, firstFt := o.firstFt.toNat, srcNode := s.node,
      srcDie := d.val, stream := o.stream, srcEpoch := s.srcEpoch d, op := o.op, clasp := o.clasp && !o.gclasp && isWrite o.op,
      retry := decide (0 < o.attempt), fresh := o.fresh, wide := o.wide, signed := o.signed, seq := o.seq.getD 0,
      floor := s.ackFloor d o.stream o.key, tag := o.tag, attempt := o.attempt,
      size := o.size, payload := o.payload,
      release := o.release, crc := 0 }
  { r with crc := crc32c (requestBytes r) }

/-- The trace's records of a packet issued (0x13) and of an operation's end (0x0A). -/
def State.emitPacket (s : State) (d : SrcDie) (o : RemOp) : State :=
  if h : d.val < 20 then
    s.emit ⟨d.val, h⟩ 0x13 3 19 0 (o.op * 2 ^ 32 + o.stream % 256 * 2 ^ 24 + o.seq.getD 0 % 2 ^ 24)
  else s

def State.emitFinal (s : State) (d : SrcDie) (o : RemOp) (status : Nat) : State :=
  if h : d.val < 20 then
    s.emit ⟨d.val, h⟩ 0x0A 1 19 0 (status * 2 ^ 32 + o.stream % 256 * 2 ^ 24 + o.seq.getD 0 % 2 ^ 24)
  else s

/-- Injects an operation for the first time: it takes the key's next sequence (R277). -/
def State.inject (s : State) (d : SrcDie) (o : RemOp) : State :=
  let s := s.openKey d o
  match s.srcKey d o.stream o.key with
  | none => s
  | some k =>
    let o' := { o with seq := some k.next, fresh := k.fresh, firstFt := s.srcFt d, lastFt := s.srcFt d, sentAt := s.mono,
                       timeout := s.setting 0x4200 1 * 1000, limit := s.setting 0x4200 2,
                       nkWait := s.setting 0x4200 3 * 1000, hotHold := s.setting 0x4200 5 * 1000 }
    let s := s.updOp d o.id fun _ => o'
    let s := s.updKey d o.stream o.key fun k => { k with next := (k.next + 1) % 2 ^ 32, fresh := false, idle := none,
                                                         settled := false }
    let s := s.updSource d fun x =>
      { x with high := SMap.set 0 x.high o.stream (max k.next (SMap.get 0 x.high o.stream)) }
    (s.emitPacket d o').send (.request d (s.requestOf d o'))

/-- Sends a further attempt of an operation: same sequence and first-attempt FT, RT set (R277, R281). -/
def State.reinject (s : State) (d : SrcDie) (o : RemOp) : State :=
  let o' := { o with attempt := o.attempt + 1, lastFt := s.srcFt d, sentAt := s.mono, backoff := none }
  let s := s.updOp d o.id fun _ => o'
  let s := if h : d.val < 20 then s.countRemote ⟨d.val, h⟩ 0 else s
  (s.emitPacket d o').send (.request d (s.requestOf d o'))

/-- Whether an earlier operation of the same stream and key still waits to be injected. -/
def State.waitsBehind (s : State) (d : SrcDie) (o : RemOp) : Bool :=
  ((s.source d).ops.takeWhile fun x => decide (x.id ≠ o.id)).any fun x =>
    x.stream == o.stream && x.key == o.key && x.seq.isNone && !x.clasp && !x.gclasp

/-- Whether an operation belongs to a DMA channel that has stopped for a pre-emption or is saved: each packet is its boundary, and it
issues no further one until the context is restored (R265, R282). -/
def State.channelStopped (s : State) (o : RemOp) : Bool := match o.owner with
  | .descriptor q _ => decide (10 ≤ (qUnit q).val)
      && ((s.getUnit q.die (qUnit q)).stopping || decide (qUnit q ∈ (s.getCtx q.die q.ctx).saved)
        || !((s.getCtx q.die q.ctx).state == .running || (s.getCtx q.die q.ctx).state == .stopping))
  | _ => false

/-- The retry timers, backoffs and reply-cache clocks did not run while the module was frozen (R279, R281, R282). -/
def State.skipFrozen (s : State) (c : Cut) : State :=
  let lost := s.mono - c.since
  { s with
    src := s.src.map fun (x : Source) => { x with ops := x.ops.map fun (o : RemOp) =>
      { o with sentAt := o.sentAt + lost, backoff := o.backoff.map (· + lost) } },
    dies := s.dies.map fun (x : Die) => { x with recs := x.recs.map fun (r : Record) => { r with last := r.last + lost } } }

/-- REQUEST_INJECT (R273): the source sends an operation that is no clasp, within its windows. -/
def execRequestInject (d : SrcDie) (id : Nat) (s : State) : Result :=
  match s.srcOp d id with
  | some o =>
    if o.seq.isNone && !o.clasp && !o.gclasp && !s.channelStopped o && s.mayInject d o && s.windowOpen d o && !s.waitsBehind d o then
      .next (s.inject d o)
    else .next s
  | none => .next s

/-- Whether a write under a key is one that a clasp waits for at its source (R269). -/
def RemOp.holdsClasp (x o : RemOp) : Bool :=
  isWrite x.op && x.node == o.node && (x.key != o.key || x.seq.isNone || match o.key with
    | .window .. => true
    | _ => false)

/-- Whether an operation still has a store to make with its data. -/
def RemOp.relays (x : RemOp) : Bool := match x.sink with
  | .relay _ => true
  | _ => false

/-- Whether the source still holds a clasp (R269, R270): earlier writes of the stream to other dies of the node without
replies; for a window key, earlier writes under that key on every die; for a global clasp, every earlier operation. The
other operations of the clasp's own descriptor are earlier: its last write is the clasp (R262). A load is held only for a
global clasp. -/
def State.claspHeld (s : State) (d : SrcDie) (o : RemOp) : Bool :=
  let ops := (s.source d).ops
  let other := ops.filter fun x => x.id != o.id && x.owner == o.owner
  ((ops.takeWhile fun x => decide (x.id ≠ o.id)) ++ other).any fun x =>
    x.stream == o.stream && (o.gclasp || (isWrite o.op && (x.holdsClasp o || (x.relays && x.owner == o.owner))))

/-- CLASP_SEND (R269, R270): the clasp leaves once what it waits for has its replies. -/
def execClaspSend (d : SrcDie) (id : Nat) (s : State) : Result :=
  match s.srcOp d id with
  | some o =>
    if o.seq.isNone && (o.clasp || o.gclasp) && !s.channelStopped o && s.mayInject d o && s.windowOpen d o && !s.claspHeld d o then
      .next (s.inject d o)
    else .next s
  | none => .next s

/-! ## Completion at the source (R279, R281) -/

/-- What a completed operation means for the descriptor, header signal or command it belongs to (R80, R81, R382). -/
def State.ownerDone (s : State) (o : RemOp) (status : Nat) : State :=
  match o.owner with
  | .descriptor q p => match (s.queue q).started.find? (·.pos == p) with
    | none => s
    | some e =>
      if dOp e.qws = 0x60 ∨ dOp e.qws = 0x64 then
        s.updStarted q p fun e =>
          { e with ops := e.ops.filter (· ≠ o.id),
                   fault := if status = 0 then e.fault else match e.fault with
                     | some (id, st) => if id < o.id then some (id, st) else some (o.id, status)
                     | none => some (o.id, status) }
      else
        let s := s.updStarted q p fun e =>
          { e with ops := e.ops.filter (· ≠ o.id), status := firstStatus e.status status }
        if status = 0 then s else s.failAt q status p
  | .header q p =>
    if (s.queue q).started.any (fun e => e.pos == p && e.signal == some o.id) then
      if status = 0 then
        let s := s.updStarted q p fun e => { e with signalled := true, signal := none }
        match (s.queue q).started with
        | e :: _ => if e.pos = p then s.retire q else s
        | [] => s
      else s.failAt q status p
    else s
  | .command c seq =>
    let s := s.updChan c (·.updCmd seq fun x =>
      { x with ops := x.ops.filter (· ≠ o.id), status := firstStatus x.status status })
    s.commandProgress c seq
  | .copier d => s.updDie d fun x => { x with copy := x.copy.map fun r =>
      { r with ops := r.ops.filter (· ≠ o.id), status := firstStatus r.status status } }
  | .collective d x => s.updCtx d x fun y => { y with coll := y.coll.map fun r =>
      { r with ops := r.ops.filter (· ≠ o.id), status := firstStatus r.status status } }
  | .settle | .orphan => s

/-- Puts bytes j0 on of a row in a local tensor whose units lie `step` apart; bits from `keep` on are written as zero (R134). -/
def State.putRow (s : State) (d : DieId) (sram : Bool) (base unit step j0 keep : Nat) (bs : List Byte) : State × Nat :=
  let bs := bs.zipIdx.map fun (b, i) => if 8 * (j0 + i) + 8 ≤ keep then b else b &&& BitVec.ofNat 8 (2 ^ (keep - 8 * (j0 + i)) - 1)
  if step = unit then s.writeLocal d sram (base + j0) bs
  else bs.zipIdx.foldl (fun ((s : State), (st : Nat)) (b, i) =>
    let (s, r) := s.writeLocal d sram (base + (j0 + i) / unit * step + (j0 + i) % unit) [b]
    (s, firstStatus st r)) (s, 0)

/-- Places the data of a reply: in local memory of the source die, as a further remote store, or in the PULL's buffer. -/
def State.sinkData (s : State) (d : SrcDie) (o : RemOp) (data : List Byte) : State × Nat :=
  match o.sink with
  | .nowhere => (s, 0)
  | .memory sram off =>
    if h : d.val < 20 then s.writeLocal ⟨d.val, h⟩ sram off data else (s, 0)
  | .place p =>
    s.writeOwn (if h : d.val < 20 then ⟨d.val, h⟩ else p.die) p data
  | .relay target =>
    match s.issue d o.tag { owner := o.owner, stream := o.stream, target := target, op := 0x02, clasp := o.clasp,
                            gclasp := o.gclasp, payload := data, size := data.length } with
    | (s, .inl st) => (s, st)
    | (s, .inr id) => (match o.owner with
      | .descriptor q p => s.updStarted q p fun e => { e with ops := e.ops ++ [id] }
      | _ => s, 0)
  | .row sram base unit step j0 skip len keep =>
    if h : d.val < 20 then s.putRow ⟨d.val, h⟩ sram base unit step j0 keep ((data.drop skip).take len) else (s, 0)
  | .buffer idx skip len => (match o.owner with
    | .descriptor q p => s.updStarted q p fun e => { e with got := e.got ++ [(idx, (data.drop skip).take len)] }
    | _ => s, 0)
  | .pull off => (match o.owner with
    | .command c seq => s.updChan c (·.updCmd seq fun x => { x with data := x.data ++ [(off, data)] })
    | _ => s, 0)

/-- Ends an operation: it leaves its source, the key goes idle when it was the last, the reply's data is placed and its
owner told (R279, R281). -/
def State.completeOp (s : State) (d : SrcDie) (o : RemOp) (status : Nat) (data : List Byte) : State :=
  let s := (s.updSource d fun x => { x with ops := x.ops.filter (·.id ≠ o.id) }).emitFinal d o status
  let s := if (s.outstanding d o.stream o.key).isEmpty then
      s.updKey d o.stream o.key fun k => { k with idle := some s.mono, settled := decide (o.owner = .settle) || k.settled }
    else s
  let count (s : State) (i : Fin 7) : State := if h : d.val < 20 then s.countRemote ⟨d.val, h⟩ i else s
  let s := if status = 0x20 then count s 4 else if status = 0x21 then count s 5 else if status = 0x22 then count s 6 else s
  let (s, st) := if status = 0 then s.sinkData d o data else (s, status)
  s.ownerDone o st

/-- The unit a stream's events name (R256, R283): its DMA channel, front end's die, GT, CB, or the host edge die. -/
def streamUnit (d : SrcDie) (stream : Nat) : Nat :=
  if h : d.val < 20 then
    let x : DieId := ⟨d.val, h⟩
    if stream < 0x40 then unitCode 0x05 x.val (stream % 8) 0
    else if 0x48 ≤ stream ∧ stream < 0x50 then unitCode 0x04 x.val 3 0
    else if 0x50 ≤ stream ∧ stream < 0x58 then unitCode 0x04 x.val 2 0
    else uDie x
  else uHost

/-- After its last attempt an operation completes: 0x20 when every attempt was answered with NK, else 0x22; event 0x0441
(R281). -/
def State.giveUp (s : State) (d : SrcDie) (o : RemOp) : State :=
  (s.raise { code := 0x0441, unit := streamUnit d o.stream, stream := some o.stream }).completeOp d o
    (if o.silent then 0x22 else 0x20) []

/-- A failed attempt: retried, or given up at the attempt limit (R281). -/
def State.retryOrEnd (s : State) (d : SrcDie) (o : RemOp) : State :=
  if o.limit ≤ o.attempt + 1 then s.giveUp d o else s.reinject d o

/-- NK_BACKOFF_EXPIRY (R281). -/
def execNkBackoffExpiry (d : SrcDie) (id : Nat) (s : State) : Result :=
  match s.srcOp d id with
  | some o => match o.backoff with
    | some t => if s.mayInject d o && decide (t ≤ s.mono) then .next (s.reinject d o) else .next s
    | none => .next s
  | none => .next s

/-- HOT_HOLD_EXPIRY (R274): the key's reduced window ends. -/
def execHotHoldExpiry (d : SrcDie) (k : KeyRef) (s : State) : Result :=
  match s.srcKey d k.stream k.key with
  | some x => if 0 < x.hotUntil ∧ x.hotUntil ≤ s.mono then .next (s.updKey d k.stream k.key fun y => { y with hotUntil := 0 })
    else .next s
  | none => .next s

/-- The address a settle packet travels to: offset 0 of the key's die, window or group. -/
def settleTarget : DestKey → Nat
  | .die n d => n * 2 ^ 48 + d * 0x2000000000
  | .window n _ => n * 2 ^ 48 + 0x80000000000
  | .group g => 0xFFFF * 2 ^ 48 + 3 * 2 ^ 44 + g * 2 ^ 32

/-- SETTLE_SEND (R279): the settle delay of 10 µs after all replies have arrived; it is injected like any packet. -/
def execSettleSend (d : SrcDie) (k : KeyRef) (s : State) : Result :=
  match s.srcKey d k.stream k.key with
  | some x => match x.idle with
    | some t =>
      if !x.settled && decide (t + 10000 ≤ s.mono) then
        let o : RemOp :=
          { id := s.nextOp, owner := .settle, sink := .nowhere, stream := k.stream, key := k.key, node := x.node,
            target := settleTarget k.key, op := 0x10, wide := false, signed := false, clasp := false, gclasp := false,
            tag := match k.key with
              | .window _ tag => tag
              | _ => if h : d.val < 20 then s.dieTag ⟨d.val, h⟩ else 0,
            payload := [], size := 0, release := 0, seq := none, fresh := false, firstFt := 0, lastFt := 0, attempt := 0,
            silent := false, backoff := none, sentAt := 0, timeout := 0, limit := 0, nkWait := 0, hotHold := 0 }
        let s' := State.updSource { s with nextOp := s.nextOp + 1 } d fun y => { y with ops := y.ops ++ [o] }
        .next (if s.mayInject d o then s'.inject d o else s)
      else .next s
    | none => .next s
  | none => .next s

/-- SEQUENCE_STATE_DISCARD (R279): twice the packet lifetime after the settle. -/
def execSequenceStateDiscard (d : SrcDie) (k : KeyRef) (s : State) : Result :=
  match s.srcKey d k.stream k.key with
  | some x => match x.idle with
    | some t =>
      if x.settled && decide (t + 2000000 ≤ s.mono) then
        .next (s.updSource d fun y => { y with keys := y.keys.filter fun z => !(z.stream == k.stream && z.key == k.key) })
      else .next s
    | none => .next s
  | none => .next s

end Sys2Proof.Machine
end

