-- ==== Sys2Proof/Machine/Stitch.lean ====
section
/-! DEFINITION. Stitches: holding, reaching, the stitch plan record, the state block, the hold timeout and the release (R59,
R60, R87, R460, R465). -/

namespace Sys2Proof.Machine

/-! ## Holding (R59, R87) -/

/-- A queue takes part in stitches: enabled, of a context that runs, stops or was stopped. -/
def State.stitchQueues (s : State) (k : Fin 4) : List QueueId :=
  (s.diesOf k).flatMap fun d => allCtx.flatMap fun c =>
    let x := s.getCtx d c
    if x.state == .running || x.state == .stopping || x.state == .stopped then
      (allSlots72.filter fun r => x.q[r].enabled).map fun r => ⟨d, c, r⟩
    else []

/-- Identities that queues of the quire hold at. -/
def State.heldAt (s : State) (k : Fin 4) : List Nat := (s.stitchQueues k).filterMap fun q => (s.queue q).hold

/-- Raises 0x0805 when two queues of the quire hold at different identities, once. -/
def State.checkMismatch (s : State) (k : Fin 4) : State :=
  match s.heldAt k with
  | [] => s
  | i :: is =>
    if is.any (· ≠ i) ∧ !(s.quire k).mismatch then
      (s.updQuire k fun x => { x with mismatch := true }).raise { code := 0x0805, unit := uQuire k }
    else s

/-- STITCH: the queue holds once every earlier descriptor of it has retired (R87, R465). -/
def execStitch (q : QueueId) (s : State) : Result :=
  s.onFront q 6 fun s d =>
    if !(s.queue q).started.isEmpty then s
    else
      let s := s.startDone q d (s.afterFront q)
      let s := s.updQueue q fun x => { x with hold := some (qw d 4), holdAt := s.mono }
      match (s.die q.die).quire with
      | some k =>
        (s.updQuire k fun x => { x with heldSince := some (x.heldSince.getD s.mono) }).checkMismatch k
      | none => s

/-! ## The stitch plan record (R460) -/

def stitchMagic : List Byte := [0x53, 0x54, 0x49, 0x54, 0x43, 0x48, 0x50, 0x4C]

/-- The plan that 64 bytes spell when every check passes, else the offset of the first field that fails. -/
def State.parsePlan (s : State) (d : DieId) (b : List Byte) : Except Nat StitchPlan :=
  let f (o n : Nat) : Nat := leNat ((b.drop o).take n)
  let p : StitchPlan :=
    { preCopy := bit (f 0x0A 2) 0, base := f 0x10 8, len := f 0x18 8, block := f 0x20 8, buddy := f 0x28 8 }
  let size := s.localSize d
  let buddy := match (gaddr p.buddy).place with
    | .ok (.die _ false off) => off % (2 * mib) == 0
    | _ => false
  let checks : List (Nat × Bool) :=
    [(0x08, f 0x08 2 == 1), (0x0A, bits (f 0x0A 2) 15 1 == 0), (0x0C, f 0x0C 4 == 0),
     (0x10, p.base % (2 * mib) == 0 && decide (p.base ≤ size)),
     (0x18, p.len % (2 * mib) == 0 && decide (p.base + p.len ≤ size)),
     (0x20, p.block % 65536 == 0 && decide (p.block + 262144 ≤ size)
       && (p.len == 0 || decide (p.base ≤ p.block ∧ p.block + 262144 ≤ p.base + p.len))),
     (0x28, buddy), (0x30, f 0x30 12 == 0), (0x3C, f 0x3C 4 == crc32c (b.take 0x3C))]
  match checks.find? (fun c => !c.2) with
  | some c => .error c.1
  | none => .ok p

/-- Puts a plan in force: a new tracked range, or the first, starts with D set for every granule (R462). -/
def Die.takePlan (x : Die) (p : StitchPlan) : Die :=
  if x.splan.isSome ∧ x.tracked = (p.base, p.len) then { x with splan := some p, splanBad := false }
  else { x with splan := some p, splanBad := false, tracked := (p.base, p.len),
                dirty := List.range (p.len / (2 * mib)), copied := [], slots := [] }

/-- Reads the record at local offset 0: a die without the magic takes no part; a record that fails raises 0x0819. -/
def State.readPlan (s : State) (d : DieId) : State :=
  match s.readLocal d false 0 64 with
  | (s, 0, b) =>
    if b.take 8 ≠ stitchMagic then s.updDie d fun x => { x with splan := none, splanBad := false }
    else match s.parsePlan d b with
      | .ok p => s.updDie d (·.takePlan p)
      | .error off =>
        (s.updDie d fun x => { x with splan := none, splanBad := true }).raise { code := 0x0819, unit := uDie d, detail := off }
  | (s, _, _) => s.updDie d fun x => { x with splan := none }

/-! ## The state block (R465) -/

/-- State code of a context in the state block. -/
def ctxCode : CtxState → Nat
  | .empty => 0
  | .running | .stopping => 2
  | .loaded | .stopped | .faulted => 1

/-- Writes the state block of a participating die; the images of the save areas and the colophons have no stated layout,
so their bytes are open (log 12). -/
def State.writeStateBlock (s : State) (d : DieId) (p : StitchPlan) (identity ft : Nat) : State :=
  let x := s.die d
  let seed := match x.quire with
    | some k => s.setting 0x2070 (k.val + 1)
    | none => 0
  let head := leBytes 8 identity ++ leBytes 8 ft ++ leBytes 8 seed ++ List.replicate 40 0
    ++ (List.range 4096).flatMap fun o => leBytes 4 (x.obj o)
  let ctxs := allCtx.flatMap fun c =>
    leBytes 1 (ctxCode x.ctx[c].state) ++ leBytes 1 x.ctx[c].priority ++ List.replicate 6 0 ++ leBytes 8 x.ctx[c].recOff
      ++ List.replicate 48 0
  let (open_, s) := s.freshBytes (8 * 16384 + 8 * 256)
  let s := (s.writeLocal d false p.block (head ++ ctxs ++ open_ ++ List.replicate 112064 0)).1
  s.updDie d fun x => { x with snapNew := some x.ctx }

/-! ## Reaching (R59, R467 step 1) -/

/-- Bytes that wait for their copy: granules with D set and P clear. -/
def Die.pendingGranules (x : Die) : List Nat :=
  (List.range (x.tracked.2 / (2 * mib))).filter fun g => decide (g ∈ x.dirty ∧ g ∉ x.copied)

def State.pendingBytes (s : State) (k : Fin 4) : Nat :=
  sumNat ((s.diesOf k).map fun d => (s.die d).pendingGranules.length * (2 * mib))

/-- Whether a copy has nothing left to do. -/
def CopyRun.ended (r : CopyRun) : Bool := r.ops.isEmpty && (r.status != 0 || (r.tagSent && r.left.isEmpty))

/-- Sends REACHED, unless a copy of the quire still runs: a member finishes it first (R467). -/
def State.sendReached (s : State) (k : Fin 4) : State :=
  match (s.quire k).reached with
  | some (i, ft) =>
    if (s.quire k).told ∨ (s.diesOf k).any fun d => (s.die d).copy.any fun r => !r.ended then s
    else
      let r := { s.mgmtBase 0x11 k with identity := i, ft := ft, count := s.pendingBytes k }
      (s.updQuire k fun x => { x with told := true }).sendMgr r
  | none => s

/-- Whether the operations of the quire's dies are complete, but for settles and the stitch-copy engine (R59). -/
def State.opsDone (s : State) (k : Fin 4) : Bool :=
  (s.diesOf k).all fun d => (s.source (srcOf d)).ops.all fun o => match o.owner with
    | .settle | .copier _ => true
    | _ => false

/-- The identity at which every queue of the quire holds, if they all do. -/
def State.stitchIdentity (s : State) (k : Fin 4) : Option Nat :=
  match s.stitchQueues k with
  | [] => none
  | q :: qs => match (s.queue q).hold with
    | some i => if qs.all fun r => (s.queue r).hold == some i then some i else none
    | none => none

/-- STITCH_REACHED (R59, R460, R465): each die of the quire reads its plan and writes its state block; REACHED is sent. -/
def execStitchReached (k : QuireId) (s : State) : Result :=
  match s.stitchIdentity k with
  | none => .next s
  | some i =>
    if (s.quire k).reached.isSome ∨ !s.opsDone k then .next s
    else
      let ft := s.now
      let s := (s.diesOf k).foldl (fun s d =>
        let s := (s.readPlan d).emit d 0x08 1 23 0 (i % 2 ^ 32)
        match (s.die d).splan with
        | some p => s.writeStateBlock d p i ft
        | none => s) s
      .next ((s.updQuire k fun x => { x with reached := some (i, ft), stitch := (i, ft), told := false }).sendReached k)

/-- STITCH_HOLD_TIMEOUT (R60): from the first hold, reached or not; the queues stay held. -/
def execStitchHoldTimeout (k : QuireId) (s : State) : Result :=
  match (s.quire k).heldSince with
  | some t =>
    if !(s.quire k).timedOut ∧ t + s.setting 0x4130 2 * 1000000 ≤ s.mono then
      .next ((s.updQuire k fun x => { x with timedOut := true }).raise { code := 0x060C, unit := uQuire k })
    else .next s
  | none => .next s

/-! ## Release (R87, R59) -/

/-- Retires a held STITCH, performing its header signal. -/
def State.releaseQueue (s : State) (q : QueueId) : State :=
  (s.updQueue q fun x => { x with hold := none }).complete q

/-- Releases every held STITCH of an identity. With none held of any identity left, the stitch is over. -/
def State.releaseStitch (s : State) (k : Fin 4) (i : Nat) : State :=
  let qs := (s.stitchQueues k).filter fun q => (s.queue q).hold == some i
  if qs.isEmpty then s
  else
    let s := qs.foldl State.releaseQueue s
    let s := (s.diesOf k).foldl (fun s d => s.emit d 0x08 1 23 0 (2 ^ 39 + i % 2 ^ 32)) s
    let past := (s.heldAt k).isEmpty
    s.updQuire k fun x =>
      { x with reached := if x.reached.map (·.1) = some i then none else x.reached, told := false,
               heldSince := if past then none else x.heldSince, timedOut := x.timedOut && !past,
               mismatch := x.mismatch && !past,
               release := if x.release.map (·.1) = some i then none else x.release }

/-- STITCH_RELEASE (R87, R49): at the release FT, or at once when it has passed. -/
def execStitchRelease (k : QuireId) (identity ft : Nat) (s : State) : Result :=
  if s.now < ft then .next s else .next ((s.releaseStitch k identity).checkMismatch k)

end Sys2Proof.Machine
end

