-- ==== Sys2Proof/Machine/Commit.lean ====
section
/-! DEFINITION. The member's side of the commit exchange and of a rollback, and the stitch-copy engine (R462 to R470). -/

namespace Sys2Proof.Machine

def granule : Nat := 2 * mib

/-- A die that takes part in stitch copy: its plan is valid (R460). -/
def State.copiers (s : State) (k : Fin 4) : List DieId := (s.diesOf k).filter fun d => (s.die d).splan.isSome

/-! ## The stitch-copy engine (R463) -/

/-- Slot a granule is copied into: the one that does not hold its last committed copy; slot 0 when none does (log 13). -/
def Die.targetSlot (x : Die) (g : Nat) : Nat := if SMap.get 0 x.slots g = 1 then 1 else 0

def CopyRun.begin (seq : Nat) (gs : List Nat) (early : Bool) : CopyRun :=
  { seq := seq, left := gs, granule := 0, ops := [], tagSent := true, bytes := 0, status := 0, clean := true, early := early }

/-- Issues the stores of a granule, 4,096 bytes each, on stream 0xF0. -/
def State.issueGranule (s : State) (d : DieId) (p : StitchPlan) (g : Nat) (bs : List Byte) : State :=
  let dst := p.buddy + (s.die d).targetSlot g * p.len + g * granule
  (chunksOf 4096 513 bs).zipIdx.foldl (fun s (c, i) =>
    match s.issue (srcOf d) (s.dieTag d)
        { owner := .copier d, stream := 0xF0, target := dst + 4096 * i, op := 0x02, payload := c, size := c.length } with
    | (s, .inl st) => s.updDie d fun x => { x with copy := x.copy.map fun r => { r with status := firstStatus r.status st } }
    | (s, .inr id) => s.updDie d fun x => { x with copy := x.copy.map fun r => { r with ops := r.ops ++ [id] } }) s

/-- Issues the tag of the granule in hand as a clasp store. -/
def State.issueTag (s : State) (d : DieId) (p : StitchPlan) (r : CopyRun) : State :=
  let dst := p.buddy + 2 * p.len + 16 * r.granule + 8 * (s.die d).targetSlot r.granule
  match s.issue (srcOf d) (s.dieTag d)
      { owner := .copier d, stream := 0xF0, target := dst, op := 0x02, clasp := true, payload := leBytes 8 r.seq, size := 8 } with
  | (s, .inl st) => s.updDie d fun x => { x with copy := x.copy.map fun r =>
      { r with status := firstStatus r.status st, tagSent := true } }
  | (s, .inr id) => s.updDie d fun x => { x with copy := x.copy.map fun r => { r with ops := [id], tagSent := true } }

/-- Starts the copy of the next granule: its bytes are read and stored at the buddy. -/
def State.nextGranule (s : State) (d : DieId) (p : StitchPlan) (r : CopyRun) : State :=
  match r.left with
  | [] => s
  | g :: gs =>
    match s.readLocal d false ((s.die d).tracked.1 + g * granule) granule with
    | (s, 0, bs) =>
      let s := s.updDie d fun x => { x with copy := some { r with left := gs, granule := g, tagSent := false, clean := true } }
      s.issueGranule d p g bs
    | (s, st, _) => s.updDie d fun x => { x with copy := some { r with left := [], status := firstStatus r.status st } }

/-- Goes on with a copy whose stores in hand have all their replies: the granule's tag, then P and the next granule. A
failure ends the copy. -/
def State.copyStep (s : State) (d : DieId) : State :=
  match (s.die d).copy, (s.die d).splan with
  | some r, some p =>
    if r.ops ≠ [] then s
    else if r.status ≠ 0 then s.updDie d fun x => { x with copy := some { r with left := [], tagSent := true } }
    else if !r.tagSent then s.issueTag d p r
    else s.nextGranule d p r
  | _, _ => s

/-- After a reply that ended stores of the stitch-copy engine of a die: the copy goes on, and an early one that has ended
is put away, with a REACHED that waited for it (R463, R467). -/
def State.copyProgress (s : State) (d : DieId) : State :=
  match (s.die d).copy with
  | none => s
  | some r =>
    if r.ops ≠ [] then s
    else
      let s := if r.tagSent ∧ r.status = 0 ∧ r.clean then
          s.updDie d fun x =>
            { x with copied := insertNew x.copied r.granule, copy := some { r with bytes := r.bytes + granule } }
        else s
      let s := s.copyStep d
      match (s.die d).copy, (s.die d).quire with
      | some r', some k =>
        if r'.ended ∧ r'.early then (s.updDie d fun x => { x with copy := none }).sendReached k else s
      | _, _ => s

/-- PRE_COPY_GRANULE (R463): with pre-copy set, between stitches, the lowest granule with D set and P clear. -/
def execPreCopyGranule (d : DieId) (s : State) : Result :=
  let x := s.die d
  match x.splan, x.quire, x.pendingGranules with
  | some p, some k, g :: _ =>
    if p.preCopy ∧ x.copy.all (·.ended) ∧ (s.quire k).reached = none ∧ x.presence = .inService then
      let r := CopyRun.begin ((s.quire k).prepared + 1) [g] true
      .next ((s.updDie d fun x => { x with copy := some r }).nextGranule d p r)
    else .next s
  | _, _, _ => .next s

/-! ## The manager's place in an exchange (R309, R466) -/

/-- Whether this module acts as manager (R309, R310). -/
def State.isManager (s : State) : Bool := (s.setting 0x4350 1 == 1 && !s.mgr.yielded) || s.mgr.claimed

/-- The members that the manager knows: its domain's by the plan, and those that reported; at most 512 (R309). -/
def State.members (s : State) : List Nat :=
  ((Config.domainMembers (s.setting 0x4350 2) ++ s.mgr.members).foldl insertNew []).take 512

/-- The manager with the lowest node number among those of a partition's domains: it coordinates the exchange (R466). -/
def State.coordinator (s : State) (tag : Nat) : Nat := (Config.foreignManagers tag).foldl Nat.min s.node

def State.coordinates (s : State) (tag : Nat) : Bool := s.coordinator tag == s.node

/-- To whom the coordinating manager sends a record: every member of the partition; over several domains, the members of its own and
the other managers (R466). -/
def State.audience (s : State) (tag : Nat) : List Nat := match Config.foreignManagers tag with
  | [] => Config.partition tag
  | ms => (Config.partition tag).filter (fun n => s.members.contains n) ++ ms

/-- A manager that does not coordinate relays the coordinator's record to the members of its domain, as it is (R466, log 145). -/
def State.relayDown (s : State) (r : MgmtRecord) : State :=
  if s.isManager && mgmtOk r && !s.coordinates r.tag && r.node == s.coordinator r.tag then
    s.sendMgmtAll s.holder (((Config.partition r.tag).filter fun n => s.members.contains n && n != s.node).map fun n => .mgmt n r)
  else s

/-! ## PREPARE, VOTE (R467 steps 3 and 4) -/

/-- A record of the exchange that this module accepts: its CRC holds, its tag names a quire, and its manager epoch is not
below the one followed (R310, R466). -/
def State.acceptMgmt (s : State) (r : MgmtRecord) (type : Nat) : Option (Fin 4) :=
  if mgmtOk r ∧ r.type = type ∧ s.mgrEpoch ≤ r.mgrEpoch then s.quireOfTag r.tag else none

/-- PREPARE_RECEIVE: the dies that take part copy under sequence n. A pre-copy still running ends first. -/
def execPrepareReceive (r : MgmtRecord) (s : State) : Result :=
  let s := s.relayDown r
  match s.acceptMgmt r 0x12 with
  | none => .next s
  | some k =>
    if (s.quire k).reached = none ∨ (s.quire k).rollback ≠ none then .next s
    else
      let s := s.updQuire k fun x => { x with prep := some r.seq, prepared := max x.prepared r.seq }
      if (s.quire k).invalid ∨ (s.diesOf k).any fun d => (s.die d).splanBad then .next s
      else
        .next ((s.copiers k).foldl (fun s d =>
          match (s.die d).splan with
          | some p =>
            let c := CopyRun.begin r.seq (s.die d).pendingGranules false
            match (s.die d).copy with
            | some e =>
              if e.ended then (s.updDie d fun x => { x with copy := some c }).nextGranule d p c
              else s.updDie d fun x =>
                { x with copy := some { e with early := false, seq := r.seq, left := c.left.filter (· ≠ e.granule) } }
            | none => (s.updDie d fun x => { x with copy := some c }).nextGranule d p c
          | none => s) s)

/-- Reason code of a copy's status (R466). -/
def copyReason (st : Nat) : Nat := if st = 0 then 0 else if st = 0x12 then 0x04 else 0x02

/-- STITCH_COPY_COMPLETE: every copy of the quire has ended; VOTE carries the first reason and the bytes copied. -/
def execStitchCopyComplete (k : QuireId) (s : State) : Result :=
  match (s.quire k).prep with
  | none => .next s
  | some n =>
    let runs := (s.diesOf k).filterMap fun d => (s.die d).copy
    if runs.any (fun r => !r.ended) then .next s
    else
      let lost := (s.diesOf k).any fun d => (s.die d).presence ≠ .inService
      let result :=
        if (s.diesOf k).any fun d => (s.die d).splanBad then 0x01
        else if (s.quire k).invalid ∨ lost then 0x03
        else (runs.map fun r => copyReason r.status).foldl firstStatus 0
      let bytes := sumNat (runs.map (·.bytes))
      let v := { s.mgmtBase 0x13 k with
                 seq := n, identity := ((s.quire k).reached.map (·.1)).getD 0, count := bytes, result := result }
      let s := (s.diesOf k).foldl (fun s d => s.updDie d fun x => { x with copy := none }) s
      .next (s.sendMgr v)

/-! ## DECIDE (R464, R467 step 6) -/

/-- Commit of a die: granules with D and P take their new slot and clear both (R464). -/
def Die.commit (x : Die) : Die :=
  let done := x.dirty.filter fun g => decide (g ∈ x.copied)
  { x with slots := done.foldl (fun m g => SMap.set 0 m g (x.targetSlot g + 1)) x.slots,
           dirty := x.dirty.filter fun g => decide (g ∉ x.copied), copied := [], snapOld := x.snapNew }

/-- Abort of a die: P is cleared and D stays. -/
def Die.abortCopy (x : Die) : Die := { x with copied := [] }

/-- Detail of 0x0817: reason above the sequence (log 14). -/
def abortDetail (reason seq : Nat) : Nat := reason * 2 ^ 32 + seq

/-- DECIDE_RECEIVE: commit or abort of the sequence under copy, and the release FT; after a rollback, the release. -/
def execDecideReceive (r : MgmtRecord) (s : State) : Result :=
  let s := s.relayDown r
  match s.acceptMgmt r 0x14 with
  | none => .next s
  | some k =>
    let release (s : State) : State :=
      s.updQuire k fun x => { x with prep := none, rollback := none, restoring := false,
                                     release := some (r.identity, r.ft) }
    let dies (s : State) (f : Die → Die) : State := (s.diesOf k).foldl (fun s d => s.updDie d f) s
    if (s.quire k).rollback.isSome then
      (if (s.quire k).restoring then .next s else .next (release s))
    else if (s.quire k).prep ≠ some r.seq then .next s
    else if r.result = 0 then
      let s := (dies s Die.commit).updQuire k fun x => { x with lastCommitted := r.seq, invalid := false }
      .next ((release s).raise { code := 0x0816, unit := uQuire k, detail := r.seq })
    else
      .next ((release (dies s Die.abortCopy)).raise { code := 0x0817, unit := uQuire k, detail := abortDetail r.result r.seq })

/-! ## Rollback (R470) -/

/-- ROLLBACK_RECEIVE, step 1: the freeze at the record's FT. The steps that follow it come about at that instant. -/
def execRollbackReceive (r : MgmtRecord) (s : State) : Result :=
  let s := s.relayDown r
  match s.acceptMgmt r 0x15 with
  | none => .next s
  | some k =>
    if (s.quire k).rollback.isSome then .next s
    else
      let s := s.updQuire k fun x => { x with rollback := some (r.seq, r.ft), restoring := true, prep := none }
      .next { s with frz := { s.frz with pending := insertFt r.ft s.frz.pending } }

/-- What unloading leaves of a die's units: nothing bound, no engine at work. -/
def Die.clearEngines (x : Die) : Die :=
  { x with unit := x.unit.map fun u => { u with bound := none, stopping := false, parked := false },
           mx := x.mx.map fun m => { m with runs := [] }, copy := none }

/-- Steps 2 and 3 for a quire at the freeze FT: epochs with their boundary, release tables, contexts. -/
def State.rollbackQuire (s : State) (k : Fin 4) (ft : Nat) : State :=
  let s := (s.diesOf k).foldl (fun s d => s.updDie d fun x =>
    { x.clearEngines with epoch := (x.epoch + 1) % 65536, boundary := ft, rel := [], ctx := .replicate 8 Ctx.reset }) s
  s.updQuire k fun x => { x with reached := none, told := false, heldSince := none, timedOut := false, mismatch := false,
                                 release := none }

/-- The bytes of the state block's fields that have a layout: seed and objects (R465). -/
def State.readStateBlock (s : State) (d : DieId) (p : StitchPlan) : State :=
  let b := s.peek d false p.block (0x40 + 16384)
  let seed := leNat ((b.drop 16).take 8)
  let so := (List.range 4096).foldl (fun m o => SMap.set 0 m o (leNat ((b.drop (0x40 + 4 * o)).take 4))) []
  let s := match (s.die d).quire with
    | some k => s.setSetting 0x2070 (k.val + 1) seed
    | none => s
  s.updDie d fun x => { x with so := so }

/-- A context as a rollback loads it: running contexts run on, each queue holding at its STITCH. -/
def Ctx.replayed (x : Ctx) : Ctx := { x with stopCmd := none, savesLeft := [], coll := none }

/-- A queue of a context that a state block loads: it stands where its status word says, and holds when a STITCH stands there. A
call stack lies in the image, whose layout is open (log 12). -/
def State.blockQueue (s : State) (d : DieId) (recOff identity : Nat) (r : Fin 72) (q : Queue) : Queue :=
  if !q.enabled then q
  else
    let head := leNat (s.peek d false (recOff + 0x500 + 8 * r.val) 8) % 2 ^ 32
    let (sram, off) := q.placeOf (.ring head)
    let desc := quads (s.peek d sram off 64)
    if dOp desc = 6 then
      { q with head := head, next := (Pos.ring head).after, hold := some identity, holdAt := s.mono,
               started := [startedOf (.ring head) desc true] }
    else { q with head := head, next := .ring head }

/-- A context as the state block records it (R465): loaded from its context record. -/
def State.blockCtx (s : State) (d : DieId) (b : List Byte) (c : CtxId) : Ctx :=
  let e := b.drop (0x4040 + 64 * c.val)
  let st := leNat (e.take 1)
  if st = 0 then Ctx.reset
  else
    let off := leNat ((e.drop 8).take 8)
    let r := parseCtx (s.peek d false off 2048)
    { Ctx.reset with
      state := if st = 2 then .running else .loaded, priority := leNat ((e.drop 1).take 1) % 8, saveArea := r.saveArea,
      errOn := r.errOn, errSo := r.errSo, preempt := r.preempt, recOff := off,
      q := Vector.ofFn fun (i : Fin 72) => s.blockQueue d off (leNat (b.take 8)) i r.queues[i] }

/-- Restores a die: its granules with D set, or every one when it lost its bits, from the slots given; its objects and seed, its
contexts (R470 steps 4 and 5). -/
def State.restoreDie (s : State) (im : RestoreObs) : State :=
  let x := s.die im.die
  let gs := im.granules.filter fun g => x.splan.isNone || decide (g.1 ∈ x.dirty)
  let s := gs.foldl (fun s (g, _, bs) =>
    (s.writePlace ⟨im.die, false, x.tracked.1 + g * granule⟩ (bs.take granule)).1) s
  let s := if x.splan.isNone then s.readPlan im.die else s
  let s := s.updDie im.die fun y =>
    { y with dirty := (if x.splan.isNone then y.dirty else x.dirty).filter (fun g => !gs.any fun e => e.1 == g), copied := [],
             slots := gs.foldl (fun m (g, k, _) => SMap.set 0 m g (k + 1)) y.slots }
  match (s.die im.die).splan with
  | some p =>
    let s := s.readStateBlock im.die p
    let b := s.peek im.die false p.block 0x4240
    s.updDie im.die fun x => { x with ctx := match x.snapOld with
      | some c => c.map Ctx.replayed
      | none => Vector.ofFn fun (c : Fin 8) => s.blockCtx im.die b c }
  | none => s

/-- Ends the cut of a rollback once no quire restores: held packets are discarded, engines and sources go on (R470, log 15). -/
def State.endRollbackCut (s : State) : State :=
  match s.frz.cut with
  | some c =>
    if c.rollback ∧ allQuires.all fun k => !(s.quire k).restoring then
      let s := allDies.foldl (fun s d => s.updDie d fun x =>
        { x with cutHold := [], unit := x.unit.map fun u => { u with stopFt := none } }) s
      { s.skipFrozen c with frz := { s.frz with cut := none } }
    else s
  | none => s

/-- ROLLBACK_RESTORE_COMPLETE (R470 step 6): RESTORED is sent and event 0x0818 raised; the queues hold at the STITCH. It waits for a die
that resets (R471). -/
def execRollbackRestoreComplete (k : QuireId) (images : List RestoreObs) (s : State) : Result :=
  match (s.quire k).rollback, s.frz.cut with
  | some (c, _), some cut =>
    let waits := (s.diesOf k).any fun d => (s.die d).presence == .resetting && !(s.die d).heldDown
    if !(s.quire k).restoring ∨ !cut.rollback ∨ waits then .next s
    else
      let ims := images.filter fun im => (s.die im.die).quire == some k
      let s := ims.foldl State.restoreDie s
      let held := s.heldAt k
      let s := s.updQuire k fun x =>
        { x with restoring := false, invalid := false, lastCommitted := c, heldSince := some s.mono,
                 reached := held.head?.map fun i => (i, s.now), told := true }
      let s := s.sendMgr { s.mgmtBase 0x16 k with seq := c, identity := held.headD 0 }
      .next ((s.raise { code := 0x0818, unit := uQuire k, detail := c }).endRollbackCut)
  | _, _ => .next s

end Sys2Proof.Machine
end

