-- ==== Sys2Proof/Machine/Manager.lean ====
section
/-! DEFINITION. The manager of a domain: heartbeats and the role's loss, members' reports, the manager's side of a commit and a
rollback, stragglers, and the forwarding of retire suggestions (R309, R310, R467 to R471, R486, R487). -/

namespace Sys2Proof.Machine

/-! ## Exchanges (R467, R468, R470) -/

def Exchange.empty (tag : Nat) : Exchange :=
  { tag := tag, prepared := 0, committed := 0, identity := 0, reached := [], votes := [], restored := [], preparing := false,
    rolling := none, previous := [], late := [] }

def State.exchange (s : State) (tag : Nat) : Exchange :=
  (s.mgr.exchanges.find? fun e => e.tag == tag).getD (Exchange.empty tag)

def State.setExchange (s : State) (e : Exchange) : State :=
  { s with mgr := { s.mgr with exchanges := s.mgr.exchanges.filter (fun x => x.tag != e.tag) ++ [e] } }

/-- Whether every member of a partition stands in a list of nodes. -/
def allMembers (tag : Nat) (nodes : List Nat) : Bool :=
  (Config.partition tag).all fun n => decide (n ∈ nodes)

/-- A record of the manager of an exchange, to every member of the partition. -/
def State.sendMembers (s : State) (tag : Nat) (r : MgmtRecord) : State :=
  s.sendMgmtAll s.holder ((s.audience tag).map fun n => .mgmt n (sealed r))

def State.mgrRecord (s : State) (e : Exchange) (type seq ft result : Nat) : MgmtRecord :=
  { type := type, tag := e.tag, node := s.setting 0x4300 2, seq := seq, identity := e.identity, ft := ft, count := 0,
    lastCommitted := e.committed, result := result, quireByte := ((s.quireOfTag e.tag).map (·.val)).getD 0,
    mgrEpoch := s.mgrEpoch, leaseEpoch := 0, crc := 0 }

/-- An instant at least a lead ahead; how far is open (log 44). -/
def State.instant (s : State) (lead : Nat) : Nat × State :=
  let (x, s) := s.fresh (2 ^ 32)
  (s.now + lead + x, s)

/-- DECIDE with a release FT at least 100 µs ahead (R467 step 5). -/
def State.decideAll (s : State) (e : Exchange) (seq result : Nat) : State :=
  let (ft, s) := s.instant 100000
  let s := s.sendMembers e.tag (s.mgrRecord e 0x14 seq ft result)
  s.setExchange { e with committed := if result = 0 then seq else e.committed, preparing := false, rolling := none, votes := [],
                         restored := [], reached := [] }

/-- ROLLBACK to the committed sequence; without one, event 0x0817 with reason 0x03 (R470). -/
def State.rollbackAll (s : State) (tag : Nat) : State :=
  let e := s.exchange tag
  if e.committed = 0 then
    s.raise { code := 0x0817, unit := match s.quireOfTag tag with
      | some k => uQuire k
      | none => uModule, detail := abortDetail 3 0 }
  else
    let (ft, s) := s.instant 50000
    let s := s.sendMembers tag (s.mgrRecord e 0x15 e.committed ft 0)
    s.setExchange { e with rolling := some e.committed, restored := [], reached := [], votes := [], preparing := false }

/-! ## Stragglers (R487) -/

def insertNat (x : Nat) : List Nat → List Nat
  | [] => [x]
  | y :: ys => if x ≤ y then x :: y :: ys else y :: insertNat x ys

/-- The middle value, the lower of two (log 47). -/
def median (xs : List Nat) : Nat := (xs.foldr insertNat []).getD ((xs.length - 1) / 2) 0

/-- Judges the reached FTs of a stitch against the last one's: a member late by more than 10% of the median interval at three
stitches in a row raises 0x081D with its node and its lateness in µs (log 14). -/
def State.judge (s : State) (e : Exchange) : State × Exchange :=
  let med := median (e.reached.map (·.2))
  let gaps := e.reached.filterMap fun (n, ft) => (e.previous.find? (·.1 == n)).map fun p => ft - p.2
  let next := { e with previous := e.reached }
  if gaps.isEmpty then (s, next)
  else
    let gap := median gaps
    e.reached.foldl (fun ((s : State), (x : Exchange)) (n, ft) =>
      let c := if gap < 10 * (ft - med) then SMap.get 0 x.late n + 1 else 0
      let x := { x with late := SMap.set 0 x.late n c }
      (if 3 ≤ c then s.raise { code := 0x081D, unit := uModule, detail := n * 2 ^ 32 + (ft - med) / 1000 } else s, x)) (s, next)

/-- PREPARE once REACHED of every member is held: n is one above the highest sequence sent (R467 step 2). -/
def State.tryPrepare (s : State) (tag : Nat) : State :=
  let e := s.exchange tag
  if e.preparing ∨ e.rolling.isSome ∨ !allMembers tag (e.reached.map (·.1)) then s
  else
    let (s, e) := s.judge e
    let e := { e with prepared := max e.prepared e.committed + 1, preparing := true, votes := [] }
    (s.sendMembers tag (s.mgrRecord e 0x12 e.prepared 0 0)).setExchange e

/-- A manager notes when it hears management traffic from a node (R475). -/
def State.heard (s : State) (node : Nat) : State :=
  { s with gov := { s.gov with traffic := SMap.set 0 s.gov.traffic node (s.mono + 1) } }

/-- A record that this module takes as manager. -/
def State.mgrTakes (s : State) (r : MgmtRecord) (type : Nat) : Bool := s.isManager && mgmtOk r && r.type == type

/-- What a manager that does not coordinate does with a member's record: it relays it to the one that does (R466). -/
def State.relayUp (s : State) (r : MgmtRecord) : State :=
  (s.heard r.node).sendMgmt s.holder (.mgmt (s.coordinator r.tag) r)

/-- REACHED_RECEIVE (R467, R468): the highest last committed that a member reports is the partition's committed sequence. -/
def execReachedReceive (r : MgmtRecord) (s : State) : Result :=
  if !s.mgrTakes r 0x11 then .next s
  else if !s.coordinates r.tag then .next (s.relayUp r)
  else
    let s := s.heard r.node
    let e := s.exchange r.tag
    let e := { e with identity := r.identity, committed := max e.committed r.lastCommitted,
                      reached := e.reached.filter (fun x => x.1 != r.node) ++ [(r.node, r.ft)] }
    .next ((s.setExchange e).tryPrepare r.tag)

/-- VOTE_RECEIVE (R467, R470): commit when every vote is 0x00; the first failing reason aborts, and reason 0x03 is followed by a
rollback. -/
def execVoteReceive (r : MgmtRecord) (s : State) : Result :=
  let e := s.exchange r.tag
  if s.mgrTakes r 0x13 ∧ !s.coordinates r.tag then .next (s.relayUp r)
  else if !s.mgrTakes r 0x13 ∨ !e.preparing ∨ r.seq ≠ e.prepared then .next s
  else if r.result ≠ 0 then
    let s := (s.heard r.node).decideAll e r.seq r.result
    .next (if r.result = 3 then s.rollbackAll r.tag else s)
  else
    let e := { e with votes := e.votes.filter (fun x => x.1 != r.node) ++ [(r.node, r.result)] }
    if allMembers r.tag (e.votes.map (·.1)) then .next ((s.heard r.node).decideAll e r.seq 0) else
      .next ((s.heard r.node).setExchange e)

/-- INVALID_RECEIVE (R470, R471): an exchange in progress is aborted with reason 0x03 first. -/
def execInvalidReceive (r : MgmtRecord) (s : State) : Result :=
  let e := s.exchange r.tag
  if s.mgrTakes r 0x17 ∧ !s.coordinates r.tag then .next (s.relayUp r)
  else if !s.mgrTakes r 0x17 ∨ e.rolling.isSome then .next s
  else .next (((if e.preparing then s.decideAll e e.prepared 3 else s).rollbackAll r.tag).heard r.node)

/-- RESTORED_RECEIVE (R470): when every member has restored, DECIDE releases the quire. -/
def execRestoredReceive (r : MgmtRecord) (s : State) : Result :=
  let e := s.exchange r.tag
  if s.mgrTakes r 0x16 ∧ !s.coordinates r.tag then .next (s.relayUp r) else
  match e.rolling with
  | none => .next s
  | some c =>
    if !s.mgrTakes r 0x16 ∨ r.seq ≠ c then .next s
    else
      let s := s.heard r.node
      let e := { e with identity := r.identity, restored := insertNew e.restored r.node }
      if allMembers r.tag e.restored then .next (s.decideAll e c 0) else .next (s.setExchange e)

/-! ## The role (R310) -/

/-- Sends REACHED again to a new manager (R468). -/
def State.reachedAgain (s : State) : State :=
  allQuires.foldl (fun s k =>
    if (s.quire k).reached.isSome ∧ (s.quire k).rollback = none then
      (s.updQuire k fun x => { x with told := false }).sendReached k else s) s

/-- Follows a claimant: a higher epoch, or at an equal one a lower node (R310). -/
def State.follow (s : State) (node epoch : Nat) : State :=
  let new := s.manager ≠ node
  let mine := s.isManager && node != s.node
  let s := { s with mgrEpoch := epoch, mgr := { s.mgr with
    followed := some node, heardAt := s.mono, yielded := s.mgr.yielded || mine, claimed := s.mgr.claimed && !mine } }
  if new then s.reachedAgain else s

/-- MANAGER_HEARTBEAT (R310): sent to every member each 1 ms, or one heard. -/
def execManagerHeartbeat (heard : Option (Nat × Nat)) (s : State) : Result :=
  match heard with
  | none =>
    if s.isManager ∧ s.mgr.heardAt + 1000000 ≤ s.mono then
      .next (State.sendMgmtAll { s with mgr := { s.mgr with heardAt := s.mono } } s.holder
        (s.members.map fun n => .heartbeat n s.mgrEpoch))
    else .next s
  | some (node, epoch) =>
    let own := if s.isManager then s.node else s.manager
    if s.mgrEpoch < epoch ∨ (epoch = s.mgrEpoch ∧ node ≤ own) then .next (s.follow node epoch) else .next s

/-- MANAGER_LOSS_TIMEOUT (R310): the standby claims the role under the next manager epoch. -/
def execManagerLossTimeout (s : State) : Result :=
  if s.setting 0x4350 1 = 2 ∧ !s.mgr.claimed ∧ s.mgr.heardAt + s.setting 0x4350 5 * 1000000 ≤ s.mono then
    let s := { s with mgrEpoch := s.mgrEpoch + 1, mgr := { s.mgr with claimed := true, followed := some s.node, heardAt := s.mono } }
    .next (s.reachedAgain.raise { code := 0x040C, unit := uCtl s.holder })
  else .next s

/-- A discovery outcome that differs from the domain plan's is reported (R309). -/
def State.compare (s : State) (node : Nat) : MemberReport → State
  | .discovery port outcome =>
    if outcome = Config.domainOutcome node port then s else s.sendMgmt s.holder (.discrepancy node port outcome)
  | .congestion _ | .frozen _ _ | .event _ => s

/-- MEMBER_REPORT_RECEIVE (R309): a report from a module beyond the 512th is ignored, with event 0x040D. -/
def execMemberReportReceive (node : Nat) (m : MemberReport) (s : State) : Result :=
  if !s.isManager then .next s
  else if node ∉ s.members ∧ 512 ≤ s.members.length then
    .next ((s.heard node).raise { code := 0x040D, unit := uCtl s.holder })
  else .next (State.compare { s.heard node with
    mgr := { s.mgr with members := insertNew s.mgr.members node, reports := s.mgr.reports ++ [(node, m)] } } node m)

/-! ## Retire suggestions (R486) -/

/-- Puts a suggestion, as score and node, among others: lowest score first, ties to the lower node. -/
def putSuggestion (xs : List (Nat × Nat)) (x : Nat × Nat) : List (Nat × Nat) :=
  let before (y : Nat × Nat) : Bool := decide (y.1 < x.1 ∨ (y.1 = x.1 ∧ y.2 ≤ x.2))
  xs.takeWhile before ++ x :: xs.dropWhile before

/-- RETIRE_SUGGESTION_RECEIVE: it takes its place for the hour's forwarding; a member has one, its newest (log 124). -/
def execRetireSuggestionReceive (node score : Nat) (s : State) : Result :=
  if !s.isManager then .next s
  else
    let s := s.heard node
    .next { s with mgr := { s.mgr with
      suggestions := putSuggestion (s.mgr.suggestions.filter fun x => x.2 != node) (score, node) } }

/-- SUGGESTION_HOUR_END: the hour's budget of 0x5100:04 is forwarded, lowest score first, as event 0x081C; a suggestion that was not
forwarded is answered with a watch record. -/
def execSuggestionHourEnd (s : State) : Result :=
  if s.isManager ∧ s.mgr.hourStart + 3600000000000 ≤ s.mono then
    let n := s.setting 0x5100 4
    let all := s.mgr.suggestions
    let s := { s with mgr := { s.mgr with suggestions := [], hourStart := s.mono } }
    let s := (all.take n).foldl (fun (s : State) x => s.raise { code := 0x081C, unit := uModule, detail := x.2 }) s
    .next (s.sendMgmtAll s.holder ((all.drop n).map fun x => .watch x.2))
  else .next s

end Sys2Proof.Machine
end

