-- ==== Sys2Proof/Machine/Vector.lean ====
section
/-! DEFINITION. The vector engines: the per-element program of VPROG over whole tensors (07, with the canonical row sums of
06). -/

namespace Sys2Proof.Machine

/-! ## Instructions (R192 to R194) -/

def parseVIns (w : Nat) : VIns :=
  { op := bits w 63 58, dst := bits w 57 53, a := bits w 52 48, b := bits w 47 43, c := bits w 42 38, pred := bits w 37 36,
    x := bit w 35, ti := bits w 34 32, imm := bits w 31 0 }

/-- The kinds of operand code (R192). -/
inductive VKind where
  | v | t | imm | c0 | c1 | b | reserved
  deriving DecidableEq, Repr

def vKind (code : Nat) : VKind :=
  if code < 0x10 then .v else if code < 0x14 then .t else if code = 0x14 then .imm else if code = 0x15 then .c0
  else if code = 0x16 then .c1 else if 0x18 ≤ code ∧ code ≤ 0x1B then .b else .reserved

def VIns.isReduction (i : VIns) : Bool := i.op == 0x15 || i.op == 0x16 || i.op == 0x17
def VIns.isCompare (i : VIns) : Bool := i.op == 0x0D || i.op == 0x0E || i.op == 0x0F
def VIns.isTensor (i : VIns) : Bool := i.op == 1 || i.op == 2 || i.op == 3
def VIns.isPass (i : VIns) : Bool := i.op == 0x18
def VIns.isRsum (i : VIns) : Bool := i.op == 0x15

/-- Number of source fields that an opcode uses, a first. -/
def VIns.sources (i : VIns) : Nat :=
  if i.op = 1 ∨ i.op = 0x18 then 0
  else if i.op = 7 then 3
  else if (4 ≤ i.op ∧ i.op ≤ 9) ∨ (0x0D ≤ i.op ∧ i.op ≤ 0x10) then 2
  else 1

def VIns.srcs (i : VIns) : List Nat := [i.a, i.b, i.c].take i.sources

def VIns.hasDst (i : VIns) : Bool := i.op != 2 && i.op != 3 && i.op != 0x18

/-- A reserved value in an instruction (R202 check 1); unused fields are reserved fields. -/
def VIns.reserved (i : VIns) : Bool :=
  i.op == 0 || decide (0x18 < i.op) || (i.srcs ++ (if i.hasDst then [i.dst] else [])).any (fun o => vKind o == .reserved)
    || (i.isTensor && decide (5 < i.ti))

/-- Passes of a program (R195). -/
def splitPasses : List VIns → List (List VIns)
  | [] => [[]]
  | i :: is =>
    if i.isPass then [] :: splitPasses is
    else match splitPasses is with
      | p :: ps => (i :: p) :: ps
      | [] => [[i]]

/-- Whether an instruction obeys R192 to R194 and its tensor index is in range (R202 check 4). -/
def VIns.legal (i : VIns) (nin nout : Nat) : Bool :=
  let src (o : Nat) : Bool := vKind o != .b && (!i.x || vKind o == .t || vKind o == .imm || vKind o == .c1)
  i.isPass ||
  ((if i.x then !(i.op == 1 || i.op == 2 || i.op == 0x10 || i.isCompare || i.isReduction) else i.op != 3)
    && i.srcs.all src
    && (!(i.op == 2) || i.a != 0x14)
    && (!i.hasDst || vKind i.dst == (if i.isCompare then .b else if i.x || i.isReduction then .t else .v))
    && (!i.isTensor || (if i.ti < 4 then i.op == 1 && decide (i.ti < nin) else decide (i.ti - 4 < nout))))

/-- A reduction's result may be read only in a later pass (R195). -/
def passLegal (p : List VIns) : Bool :=
  let red := (p.filter (·.isReduction)).map (·.dst)
  p.all fun i => i.srcs.all fun o => decide (o ∉ red)

/-! ## The body and its validation (R200 to R202) -/

def vpCount (d : List Nat) : Nat := bits (qw d 6) 63 58
def vpIn (d : List Nat) : Nat := bits (qw d 6) 57 55
def vpOut (d : List Nat) : Nat := bits (qw d 6) 54 53
def vpMask (d : List Nat) : Bool := bit (qw d 6) 52
def vpFill (d : List Nat) : Bool := bit (qw d 6) 51
def vpMode (d : List Nat) : Nat := bits (qw d 6) 50 49
def vpPanel (d : List Nat) : Nat := bits (qw d 6) 48 45
def vpWide (d : List Nat) : Bool := bit (qw d 6) 44
def vpY (d : List Nat) : Bool := bit (qw d 6) 43
def vpSlot (d : List Nat) : Nat := bits (qw d 6) 42 39
def vpSrc (d : List Nat) : Nat := bits (qw d 6) 38 34
def vpCnt (d : List Nat) : Nat := bits (qw d 6) 33 31
def vpP (d : List Nat) : Nat := 2 ^ (vpPanel d + 8)

/-- Space and offset of a local field: bits [47:44] and [43:0]. -/
def fSpace (w : Nat) : Nat := bits w 47 44
def fSram (w : Nat) : Bool := bits w 47 44 == 1
def fOff (w : Nat) : Nat := bits w 43 0

def vpReserved (d : List Nat) : Bool :=
  decide (1 < fSpace (qw d 4)) || decide (1 < fSpace (qw d 5)) || decide (32 < vpCount d) || decide (4 < vpIn d)
    || decide (2 < vpOut d) || decide (2 < vpMode d) || (vpMode d == 0 && decide (8 < vpPanel d))
    || (vpY d && (decide (0x13 < vpSrc d) || decide (4 < vpCnt d)))

/-- Reads the program and the tensor set where their places are sound (R202). -/
def State.readProg (s : State) (die : DieId) (d : List Nat) : State × Nat × VProg :=
  let n := vpIn d + vpOut d + (if vpMask d then 1 else 0)
  let (s, s1, code) := if s.placeStatus die (fSram (qw d 4)) (fOff (qw d 4)) (8 * vpCount d) 64 = 0
    then s.readLocal die (fSram (qw d 4)) (fOff (qw d 4)) (8 * vpCount d) else (s, 0, [])
  let (s, s2, ts) := if s.placeStatus die (fSram (qw d 5)) (fOff (qw d 5)) (64 * n) 64 = 0
    then s.readTensors die (fSram (qw d 5)) (fOff (qw d 5)) n else (s, 0, [])
  let ins := (chunksOf 8 (vpCount d + 1) code).map fun b => parseVIns (leNat b)
  (s, firstStatus s1 s2,
   { ins := ins, inputs := (ts.take (vpIn d)).map (·.1), outputs := ((ts.drop (vpIn d)).take (vpOut d)).map (·.1),
     mask := if vpMask d then (ts.drop (vpIn d + vpOut d)).head?.map (·.1) else none,
     reserved := ins.any (·.reserved) || ts.any (·.2) })

/-- The tensor whose sizes the program iterates over (R201). -/
def VProg.iter (g : VProg) : Option Tensor := (g.inputs ++ g.outputs).head?

def VProg.rsums (g : VProg) : Nat := (g.ins.filter (·.isRsum)).length

def VProg.all (g : VProg) : List Tensor := g.inputs ++ g.outputs ++ g.mask.toList

/-- Outputs written only by STS have one element per row (R201). -/
def VProg.stsOnly (g : VProg) (k : Nat) : Bool :=
  g.ins.any (fun i => i.op == 3 && i.ti == 4 + k) && !(g.ins.any fun i => i.op == 2 && i.ti == 4 + k)

def VProg.sizesOk (g : VProg) : Bool := match g.iter with
  | none => true
  | some it =>
    (g.inputs ++ g.mask.toList).all (fun t => t.sizes == it.sizes)
      && g.outputs.zipIdx.all fun (t, k) => if g.stsOnly k then t.sizes == it.sizes.set 0 1 else t.sizes == it.sizes

/-- Whether the descriptor uses a scratch region (R200). -/
def vpScratch (d : List Nat) (g : VProg) : Bool := vpMode d == 0 && (decide (0 < g.rsums) || vpY d)

def VProg.panels (g : VProg) (d : List Nat) : Nat := match g.iter with
  | some it => ceilDiv (it.size 0) (vpP d)
  | none => 0

def VProg.rows (g : VProg) : Nat := match g.iter with
  | some it => it.rowCount
  | none => 0

/-- Bytes of the scratch region (R201). -/
def VProg.scratchLen (g : VProg) (d : List Nat) : Nat :=
  if vpScratch d g then 4 * g.panels d * (256 * g.rsums + (if vpY d then g.rows else 0)) else 0

/-- Engines that a flag import names and that are disabled (R202 check 6). -/
def State.importAbsent (s : State) (die : DieId) (d : List Nat) : Bool :=
  vpY d && (List.finRange 4).any fun e =>
    bit (bits (qw d 6) 30 27) e.val && (s.folioDisabled die (e.val / 2) || (s.die die).mx[e].removed)

/-- R202 in its order, for a program that has been read; a canonical summary of more terms than its width holds fails
too (R167). -/
def State.vprogStatus (s : State) (q : QueueId) (d : List Nat) (g : VProg) : Nat :=
  let die := q.die
  let n := vpIn d + vpOut d + (if vpMask d then 1 else 0)
  let sl := g.scratchLen d
  let places := [s.placeStatus die (fSram (qw d 4)) (fOff (qw d 4)) (8 * vpCount d) 64,
                 s.placeStatus die (fSram (qw d 5)) (fOff (qw d 5)) (64 * n) 64,
                 if vpScratch d g then s.placeStatus die (fSram (qw d 7)) (fOff (qw d 7)) sl 64 else 0]
  if g.reserved || (vpScratch d g && decide (1 < fSpace (qw d 7))) then 0x01
  else if places.any (· == 0x10) || g.all.any (s.tensorOut die) then 0x10
  else if places.any (· == 0x11) || g.all.any (·.misaligned) then 0x11
  else if !g.sizesOk || (g.inputs ++ g.mask.toList).any (·.badValue false) || g.outputs.any (·.badValue true) then 0x02
  else if !(g.ins.all fun i => i.legal (vpIn d) (vpOut d)) || decide (3 < (splitPasses g.ins).length)
      || !((splitPasses g.ins).all passLegal) then 0x02
  else if vpScratch d g && (match g.iter with
      | some it => it.org 0 % vpP d != 0 || (decide (0 < g.rsums) && it.org 1 % 256 != 0)
      | none => false) then 0x02
  else if s.importAbsent die d then 0x03
  else if !((s.getCtx die q.ctx).settingsOk (vpMode d) (some (vpPanel d)) (some (vpWide d))) then 0x02
  else if vpMode d = 0 ∧ vpY d ∧ afxMaxTerms (vpWide d) < g.rows * g.panels d then 0x02
  else 0

/-! ## Rows in flight (R191, R195, R196) -/

/-- Work done, and the descriptor's any-NaN and any-saturated states. -/
structure VAcc where
  k : Work
  nan : Bool
  sat : Bool

/-- What every row of a program shares. -/
structure VEnv where
  die : DieId
  d : List Nat
  g : VProg
  it : Tensor
  rd : Rounding

def VRow.start (active : List Bool) (rsums : Nat) : VRow :=
  { v := .replicate 16 [], t := .replicate 4 0, b := .replicate 4 [], parts := List.replicate rsums [], active := active, src := [], cnt := [] }

def f32OfNat (n : Nat) : F32 := (round32 (Dy.ofInt n)).v

/-- An immediate as a lane holds it: never Inf, NaN in one form. -/
def immF32 (n : Nat) : F32 := (term32 (dec32 (BitVec.ofNat 32 n))).v

/-- The value of a source operand in lane i of block b. -/
def VRow.operand (r : VRow) (e : VEnv) (c : List Nat) (imm b i code : Nat) : F32 := match vKind code with
  | .v => (r.v.toList.getD code []).getD i 0
  | .t => r.t.toList.getD (code - 0x10) 0
  | .imm => immF32 imm
  | .c0 => f32OfNat (512 * b + i + e.it.org 0)
  | .c1 => f32OfNat (c.getD 0 0 + e.it.org 1)
  | .b | .reserved => 0

/-- The arithmetic of R193 on its operands. -/
def vArith (op : Nat) (a b c : F32) : Rs := match op with
  | 0x04 => add32 a b
  | 0x05 => sub32 a b
  | 0x06 => mul32 a b
  | 0x07 => fma32 a b c
  | 0x08 => min32 a b
  | 0x09 => max32 a b
  | 0x0A => abs32 a
  | 0x0B => neg32 a
  | 0x0C => floor32 a
  | 0x11 => exp2_32 a
  | 0x12 => log2_32 a
  | 0x13 => rcp32 a
  | _ => rsqrt32 a

def vCompare (op : Nat) (a b : F32) : Bool :=
  if op = 0x0D then compareF32 2 a b else if op = 0x0E then compareF32 3 a b else compareF32 0 a b

/-- A row as LD sees it: each element decoded, none where its word is uncorrectable (R195, R198). -/
def State.rowLanes (s : State) (d : DieId) (t : Tensor) (c : List Nat) : State × List (Option Ex) :=
  match s.rowValues d t c with
  | (s, 0, xs) => (s, xs.map some)
  | (s, _, xs) =>
    let f := t.format
    let g := f.groupElems
    let bad (sram : Bool) (off n : Nat) : Bool := (badRuns s (s.localRuns d sram off n)).isSome
    (List.range (ceilDiv xs.length g)).foldl (fun ((s : State), (ys : List (Option Ex))) j =>
      let i := g * j
      let m := min g (xs.length - i)
      let a := t.rowAddr c + (if f.packed then j * f.groupBytes else i * t.stride0 * f.groupBytes)
      if bad t.sram a f.groupBytes || (f.isMx && bad t.scaleSram (t.scaleAddr c + i / 32) 1) then (s, ys ++ List.replicate m none)
      else
        let (s, _, vs) := s.segValues d t c i m
        (s, ys ++ vs.map some)) (s, [])

/-- Stores elements from index i0 of a row, a block boundary, on; `none` keeps an element. Answers the flags of the active
elements (R152, R193, R198). -/
def Work.storeRun (k : Work) (d : DieId) (t : Tensor) (c : List Nat) (i0 : Nat) (xs : List (Option Ex)) (act : List Bool)
    (rd : Rounding) : Work × ConvFlags :=
  let f := t.format
  let flagged (es : List Enc) : ConvFlags :=
    ⟨(es.zip act).any fun (e, a) => e.cs && a, (es.zip act).any fun (e, a) => e.cnz && a⟩
  if f.isMx then
    let (k, codes, scales, es) := (chunksOf 32 (xs.length + 1) xs).zipIdx.foldl
      (fun ((k : Work), (codes : List (Option Nat)), (scales : List (Option Nat)), (es : List Enc)) ((b : List (Option Ex)), j) =>
        if b.all (·.isNone) then (k, codes ++ b.map fun _ => none, scales ++ [none], es ++ b.map fun _ => ⟨0, false, false⟩)
        else
          let (s, st, old) := if b.all (·.isSome) then (k.s, 0, []) else k.s.segValues d t c (i0 + 32 * j) b.length
          let vals := b.zipIdx.map fun (x, i) => x.getD (old.getD i (.num Dy.zero false))
          let scale := mxScale f vals
          let enc := encodeRun t rd scale (i0 + 32 * j) c vals
          ({ k with s := s, st := firstStatus k.st st }, codes ++ enc.map fun e => some e.bits, scales ++ [some scale], es ++ enc))
      (k, [], [], [])
    let k := k.writeRow d (t.part i0 xs.length) c codes
    let k := scales.zipIdx.foldl (fun (k : Work) (w, b) => match w with
      | some v => k.write d t.scaleSram (t.scaleAddr c + i0 / 32 + b) (leBytes 1 v)
      | none => k) k
    (k, flagged es)
  else
    let es := xs.zipIdx.map fun (x, i) => match x with
      | some x => f.encode x 127 (rd.u t (i0 + i) c)
      | none => ⟨0, false, false⟩
    (k.writeRow d (t.part i0 xs.length) c ((xs.zip es).map fun (x, e) => x.map fun _ => e.bits), flagged es)

def VAcc.conv (a : VAcc) (f : ConvFlags) : VAcc := { a with nan := a.nan || f.cnz, sat := a.sat || f.cs }

/-- Notes the flags of results on active lanes. -/
def VAcc.note (a : VAcc) (rs : List Rs) (act : List Bool) : VAcc :=
  { a with nan := a.nan || (rs.zip act).any fun (r, x) => (r.n || isNan32 r.v) && x,
           sat := a.sat || (rs.zip act).any fun (r, x) => r.s && x }

/-- The lanes of an LD: a suppressed fault reads a free value (R198). -/
def VAcc.load (a : VAcc) (row : List (Option Ex)) (b m : Nat) (act : List Bool) : VAcc × List Rs :=
  (List.range m).foldl (fun ((a : VAcc), (rs : List Rs)) i => match row.getD (512 * b + i) none with
    | some x => (a, rs ++ [term32 x])
    | none =>
      let (v, s) := a.k.s.fresh (2 ^ 32)
      let st := if act.getD i true then firstStatus a.k.st 0x12 else a.k.st
      ({ a with k := { a.k with s := s, st := st } }, rs ++ [⟨BitVec.ofNat 32 v, false, false⟩])) (a, [])

/-- Puts lane results in a V register. -/
def VRow.setV (r : VRow) (dst : Nat) (vs : List F32) : VRow :=
  { r with v := r.v.setIfInBounds dst (vs ++ (r.v.toList.getD dst []).drop vs.length) }

/-- One reduction over the active lanes of a block (R195, R197): into a row scalar, or into the partial of the panel. -/
def VRow.reduce (r : VRow) (e : VEnv) (i : VIns) (ri b : Nat) (vs : List F32) (act : List Bool) : VRow × List Rs :=
  (vs.zip act).zipIdx.foldl (fun ((r : VRow), (rs : List Rs)) ((v, on), l) =>
    if !on then (r, rs)
    else if i.isRsum ∧ vpMode e.d = 0 then
      let p := (512 * b + l) / vpP e.d
      let x := add32 ((r.parts.getD ri []).getD p 0) v
      ({ r with parts := r.parts.set ri (modifyAt (fun _ => x.v) (r.parts.getD ri []) p) }, rs ++ [x])
    else
      let old := r.t.toList.getD (i.dst - 0x10) 0
      let x := if i.isRsum then add32 old v else if i.op = 0x16 then max32 old v else min32 old v
      ({ r with t := r.t.setIfInBounds (i.dst - 0x10) x.v }, rs ++ [x])) (r, [])

/-- One instruction on a block of m lanes (X = 0), in its order among the program's RSUMs. -/
def VRow.lane (e : VEnv) (c : List Nat) (loads : List (Nat × List (Option Ex))) (b m : Nat)
    (x : VAcc × VRow) (i : VIns) (ri : Nat) : VAcc × VRow :=
  let (a, r) := x
  let act := (List.range m).map fun l => r.active.getD (512 * b + l) true
  let src (code : Nat) : List F32 := (List.range m).map fun l => r.operand e c i.imm b l code
  if i.op = 1 then
    let (a, rs) := a.load ((loads.find? (·.1 == i.ti)).map (·.2) |>.getD []) b m act
    (a.note rs act, r.setV i.dst (rs.map (·.v)))
  else if i.op = 2 then
    let t := e.g.outputs.getD (i.ti - 4) e.it
    let xs := ((src i.a).zip act).map fun (v, on) =>
      if on then some (dec32 v) else if vpFill e.d then some (.num Dy.zero false) else none
    let (k, f) := a.k.storeRun e.die t c (512 * b) xs act { e.rd with stochastic := bit i.imm 0 }
    (VAcc.conv { a with k := k } f, r)
  else if i.isCompare then
    let ps := (((src i.a).zip (src i.b)).zip act).map fun ((u, v), on) => on && vCompare i.op u v
    (a, { r with b := r.b.setIfInBounds (i.dst - 0x18) (ps ++ (r.b.toList.getD (i.dst - 0x18) []).drop m) })
  else if i.op = 0x10 then
    let p := r.b.toList.getD i.pred []
    let rs := ((src i.a).zip (src i.b)).zipIdx.map fun ((u, v), l) => (⟨if p.getD l false then u else v, false, false⟩ : Rs)
    (a.note rs act, r.setV i.dst (rs.map (·.v)))
  else if i.isReduction then
    let (r, rs) := r.reduce e i ri b (src i.a) act
    (a.note rs (rs.map fun _ => true), r)
  else
    let rs := ((src i.a).zip ((src i.b).zip (src i.c))).map fun (u, v, w) => vArith i.op u v w
    (a.note rs act, r.setV i.dst (rs.map (·.v)))

/-- One row-scalar instruction (X = 1). -/
def VRow.scalar (e : VEnv) (c : List Nat) (x : VAcc × VRow) (i : VIns) : VAcc × VRow :=
  let (a, r) := x
  let v (code : Nat) : F32 := r.operand e c i.imm 0 0 code
  if i.op = 3 then
    let t := e.g.outputs.getD (i.ti - 4) e.it
    let n := min (t.size 0) 32
    let (k, f) := a.k.storeRun e.die t c 0 (some (dec32 (v i.a)) :: List.replicate (n - 1) none) [true]
      { e.rd with stochastic := false }
    (VAcc.conv { a with k := k } f, r)
  else
    let y := vArith i.op (v i.a) (v i.b) (v i.c)
    (a.note [y] [true], { r with t := r.t.setIfInBounds (i.dst - 0x10) y.v })

/-- The start values of a pass's reductions (R195). -/
def VRow.openPass (r : VRow) (e : VEnv) (p : List (VIns × Nat)) : VRow :=
  p.foldl (fun (r : VRow) (i, ri) =>
    if !i.isReduction then r
    else
      let z : F32 := if i.isRsum then 0 else if i.op = 0x16 then 0xFF7FFFFF else 0x7F7FFFFF
      let r := { r with t := r.t.setIfInBounds (i.dst - 0x10) z }
      if i.isRsum then { r with parts := r.parts.set ri (List.replicate (e.g.panels e.d) 0) } else r) r

/-- The instructions of a pass that run on lanes (X = 0). -/
def passLanes (p : List (VIns × Nat)) : List (VIns × Nat) := p.filter fun i => !i.1.x

/-- A pass begins on a row: its elements are read before any store of the pass, STS among them (R195), and its row-scalar instructions
run (R194). -/
def VRow.open_ (e : VEnv) (c : List Nat) (p : List (VIns × Nat)) (x : VAcc × VRow) :
    VAcc × VRow × List (Nat × List (Option Ex)) :=
  let (a, r) := x
  let r := r.openPass e p
  let tis := (((passLanes p).filter (·.1.op == 1)).map (·.1.ti)).foldl insertNew []
  let (a, loads) := tis.foldl (fun ((a : VAcc), (ls : List (Nat × List (Option Ex)))) ti =>
    let t := if ti < 4 then e.g.inputs.getD ti e.it else e.g.outputs.getD (ti - 4) e.it
    let (s, row) := a.k.s.rowLanes e.die t c
    let row := if 4 ≤ ti ∧ e.g.stsOnly (ti - 4) then List.replicate (e.it.size 0) (row.headD none) else row
    ({ a with k := { a.k with s := s } }, ls ++ [(ti, row)])) (a, [])
  let (a, r) := (p.filter (·.1.x)).foldl (fun x i => VRow.scalar e c x i.1) (a, r)
  (a, r, loads)

/-- One element block of a pass over a row. The last pass keeps the summary's source and predicate. -/
def VRow.block (e : VEnv) (c : List Nat) (p : List (VIns × Nat)) (last : Bool) (loads : List (Nat × List (Option Ex))) (b : Nat)
    (x : VAcc × VRow) : VAcc × VRow :=
  let m := min 512 (e.it.size 0 - 512 * b)
  let (a, r) := (passLanes p).foldl (fun x i => VRow.lane e c loads b m x i.1 i.2) x
  if last then
    (a, { r with
          src := r.src ++ (List.range m).map fun l => r.operand e c 0 b l (vpSrc e.d),
          cnt := r.cnt ++ (List.range m).map fun l => if vpCnt e.d = 4 then true else (r.b.toList.getD (vpCnt e.d) []).getD l false })
  else (a, r)

/-- The canonical row sums of a pass, with the row group as anchor block (R197, R164). -/
def combineRows (e : VEnv) (p : List (VIns × Nat)) (x : VAcc × List VRow) : VAcc × List VRow :=
  if vpMode e.d ≠ 0 then x
  else (p.filter (·.1.isRsum)).foldl (fun ((a : VAcc), (rs : List VRow)) (i, ri) =>
    let terms := rs.map fun r => r.parts.getD ri []
    let anchor := anchorOf terms.flatten
    let sums := terms.map fun ts => canonCombine ts anchor (vpWide e.d)
    (a.note sums (sums.map fun _ => true),
     (rs.zip sums).map fun ((r : VRow), (y : Rs)) => { r with t := r.t.setIfInBounds (i.dst - 0x10) y.v })) x

/-- The active lanes of a row (R198); a fault on the mask fails the descriptor. -/
def VAcc.maskRow (a : VAcc) (e : VEnv) (c : List Nat) : VAcc × List Bool := match e.g.mask with
  | none => (a, List.replicate (e.it.size 0) true)
  | some t =>
    let (s, st, xs) := a.k.s.rowValues e.die t c
    ({ a with k := { a.k with s := s, st := firstStatus a.k.st st } },
     xs.map fun x => match x with
       | .num v _ => v.sig != 0
       | .nan => false)

/-- An FP32 sum from +0 in order. -/
def sumRow (xs : List F32) : Rs :=
  xs.foldl (fun acc v =>
    let r := add32 acc.v v
    ⟨r.v, acc.s || r.s, acc.n || r.n⟩) ⟨0, false, false⟩

/-- Adds the rows of a group whose last pass is done. -/
def VSum.add (z : VSum) (e : VEnv) (r : VRow) : VSum :=
  let src := if vKind (vpSrc e.d) = .t then r.src.map fun _ => r.t.toList.getD (vpSrc e.d - 0x10) 0 else r.src
  let on := ((src.zip (r.cnt.zip r.active)).zipIdx.filter fun ((_, _, a), _) => a)
  let sums : List Rs := if vpMode e.d = 0 then
      (List.range (e.g.panels e.d)).map fun p => sumRow ((on.filter fun (_, l) => l / vpP e.d = p).map (·.1.1))
    else [sumRow (on.map (·.1.1))]
  { max := on.foldl (fun m ((v, _, _), _) => if isNan32 v then m else (max32 m v).v) z.max,
    sums := z.sums ++ sums.map (·.v),
    count := z.count + (on.filter fun ((_, k, _), _) => k).length, sat := z.sat || sums.any (·.s) }

/-- The sum over the whole tensor; its saturation, and a row's, sets S (R169, R199). -/
def VSum.value (z : VSum) (d : List Nat) : Rs :=
  let r := if vpMode d = 0 then canonCombine z.sums (anchorOf z.sums) (vpWide d) else sumRow z.sums
  { r with s := r.s || z.sat }

/-- The first rows of the row groups: runs of up to 256 indices of dimension 1 with equal higher indices (R196). -/
def rowGroups (it : Tensor) : List (List Nat) :=
  (List.range (it.size 2 * it.size 3 * it.size 4)).flatMap fun h =>
    chunksOf 256 (it.size 1 + 1) ((List.range (it.size 1)).map fun r => h * it.size 1 + r)

/-- Numbers the RSUMs of a program. -/
def numberRsums : List VIns → Nat → List (VIns × Nat)
  | [], _ => []
  | i :: is, n => (i, n) :: numberRsums is (if i.isRsum then n + 1 else n)

def numberPasses : List (List VIns) → Nat → List (List (VIns × Nat))
  | [], _ => []
  | p :: ps, n => numberRsums p n :: numberPasses ps (n + (p.filter (·.isRsum)).length)

/-! ## Element blocks (R195, R196, R203) -/

/-- The steps of a program: a row group begins; a pass begins on row i of the group, which is row n; an element block of it; the pass has
run over the group; the group ends. -/
inductive VStep where
  | group (rows : List Nat)
  | row (pass i n : Nat)
  | block (pass i n b : Nat)
  | pass (pass : Nat)
  | close
  deriving DecidableEq, Repr

def VStep.isBlock : VStep → Bool
  | .block .. => true
  | _ => false

def VProg.passes (g : VProg) : List (List (VIns × Nat)) := numberPasses (splitPasses g.ins) 0

/-- Whether a pass is the one after which the summary is taken (R199). -/
def VEnv.isLast (e : VEnv) (k : Nat) : Bool := vpY e.d && decide (k + 1 = e.g.passes.length)

/-- Element blocks of a pass on a row: one with row-scalar instructions alone reads no elements (R195). -/
def VEnv.blocks (e : VEnv) (k : Nat) (p : List (VIns × Nat)) : Nat :=
  if (passLanes p).isEmpty ∧ !e.isLast k then 0 else ceilDiv (e.it.size 0) 512

/-- A program's steps in their order (R196). -/
def VEnv.steps (e : VEnv) : List VStep :=
  (rowGroups e.it).flatMap fun rs =>
    .group rs :: e.g.passes.zipIdx.flatMap (fun (p, k) =>
      rs.zipIdx.flatMap (fun (n, i) => .row k i n :: (List.range (e.blocks k p)).map (.block k i n)) ++ [.pass k]) ++ [.close]

/-- A program at work: what it has done, the rows of its row group, the elements that LD takes of the row in hand, the summary. -/
structure VRun where
  a : VAcc
  rows : List VRow
  loads : List (Nat × List (Option Ex))
  sum : VSum

/-- Changes row i of the group. -/
def VRun.onRow (x : VRun) (i : Nat) (f : VAcc × VRow → VAcc × VRow) : VRun := match x.rows[i]? with
  | some r =>
    let (a, r) := f (x.a, r)
    { x with a := a, rows := x.rows.set i r }
  | none => x

/-- One step of a program. -/
def VRun.step (e : VEnv) (x : VRun) : VStep → VRun
  | .group rs =>
    let (a, rows) := rs.foldl (fun ((a : VAcc), (rows : List VRow)) n =>
      let (a, act) := a.maskRow e (e.it.rowCoords n)
      (a, rows ++ [VRow.start act e.g.rsums])) (x.a, [])
    { x with a := a, rows := rows }
  | .row k i n => match x.rows[i]? with
    | some r =>
      let (a, r, loads) := VRow.open_ e (e.it.rowCoords n) (e.g.passes.getD k []) (x.a, r)
      { x with a := a, rows := x.rows.set i r, loads := loads }
    | none => x
  | .block k i n b => x.onRow i (VRow.block e (e.it.rowCoords n) (e.g.passes.getD k []) (e.isLast k) x.loads b)
  | .pass k =>
    let (a, rows) := combineRows e (e.g.passes.getD k []) (x.a, x.rows)
    { x with a := a, rows := rows, loads := [] }
  | .close => { x with rows := [], sum := if vpY e.d then x.rows.foldl (fun z r => z.add e r) x.sum else x.sum }

/-- The steps up to the n-th element block, or all when no other block follows; and how many are left. -/
def takeBlocks : List VStep → Nat → List VStep
  | [], _ => []
  | i :: is, n =>
    if n = 0 ∧ (i :: is).any (·.isBlock) then []
    else i :: takeBlocks is (if i.isBlock then n - 1 else n)

/-- The seed of a die's quire (R150). -/
def State.seedOf (s : State) (d : DieId) : Nat := match (s.die d).quire with
  | some k => s.setting 0x2070 (k.val + 1)
  | none => 0

/-- The element blocks that a command goes on for, none for all that are left; one alone once a freeze has begun (R62). -/
def State.blocksNow (s : State) (d : DieId) (blocks : Option Nat) : Option Nat := if s.frozenDie d then some 1 else blocks

def VRun.start (s : State) : VRun :=
  { a := { k := { s := s, st := 0, wrote := [] }, nan := false, sat := false }, rows := [], loads := [],
    sum := { max := 0xFF7FFFFF, sums := [], count := 0, sat := false } }

/-- Runs a program on from a number of steps done. -/
def VRun.go (e : VEnv) (x : VRun) (done : Nat) (blocks : Option Nat) : VRun × Nat :=
  let left := e.steps.drop done
  let now := match blocks with
    | some n => takeBlocks left n
    | none => left
  (now.foldl (VRun.step e) x, done + now.length)

/-- The end of a program: its summary. The scratch region is left with values whose layout the manual does not state (log 16). -/
def VRun.finish (x : VRun) (e : VEnv) : Work × Summary :=
  let (bs, s) := x.a.k.s.freshBytes (e.g.scratchLen e.d)
  let v := x.sum.value e.d
  (Work.write { x.a.k with s := s } e.die (fSram (qw e.d 7)) (fOff (qw e.d 7)) bs,
   { max := x.sum.max, sum := v.v, count := x.sum.count % 2 ^ 32, anyNan := x.a.nan, anySat := x.a.sat || (vpY e.d && v.s) })

def vEnv (die : DieId) (d : List Nat) (g : VProg) (it : Tensor) (seed : Nat) : VEnv :=
  { die := die, d := d, g := g, it := it, rd := ⟨false, seed, dTag d⟩ }

/-- Ends a descriptor whose blocks have failed: it halts the queue, unless one before it failed (R81). -/
def State.failJob (s : State) (q : QueueId) (p : Pos) (st : Nat) : State :=
  (s.updStarted q p fun e => { e with job := none }).failAt q st p

/-- A freeze that has begun stops the unit at the boundary it has come to (R62). -/
def State.blockBoundary (s : State) (q : QueueId) : State :=
  if s.frozenDie q.die ∧ (s.getUnit q.die (qUnit q)).stopFt.isNone then s.stopUnit q.die (qUnit q) else s

/-- A program that stands between two element blocks, n steps done. -/
def VRun.job (x : VRun) (e : VEnv) (n : Nat) : Job :=
  { seed := e.rd.seed, wrote := x.a.k.wrote, nan := x.a.nan, sat := x.a.sat, work := .vector e.g n x.rows x.loads x.sum }

/-- Goes on with a program for some of its element blocks (R96, R203). -/
def vprogOn (q : QueueId) (p : Pos) (e : VEnv) (x : VRun) (done : Nat) (blocks : Option Nat) : State :=
  let (x, n) := x.go e done blocks
  if n < e.steps.length ∧ x.a.k.st = 0 then x.a.k.s.updStarted q p fun y => { y with job := some (x.job e n) }
  else
    let (k, v) := x.finish e
    if k.st ≠ 0 then (k.undoSome q.die).failJob q p k.st
    else k.s.updStarted q p fun y =>
      { y with job := none, done := true, summary := if vpY e.d then some (vpSlot e.d, v) else none }

/-- The slot of a descriptor with no active lane (R199). -/
def Summary.empty : Summary := { max := 0xFF7FFFFF, sum := 0, count := 0, anyNan := false, anySat := false }

/-- VPROG (R200): validated, then run over its tensors, of which none with a zero size or no instruction is touched (R94, R202); the
summary slot is written at retirement. The command runs some of its element blocks, or all that are left; a later one goes on (R203). -/
def execVprog (r : BlockRun) (s : State) : Result :=
  let q := r.queue
  let blocks := r.blocks
  match s.inHand q with
  | some (y, j) => (match j.work with
    | .vector g done rows loads sum => (match g.iter with
      | some it => .next (State.blockBoundary (vprogOn q y.pos (vEnv q.die y.qws g it j.seed)
          { a := { k := { s := s, st := 0, wrote := j.wrote }, nan := j.nan, sat := j.sat }, rows := rows, loads := loads, sum := sum }
          done (s.blocksNow q.die blocks)) q)
      | none => .next s)
    | _ => .next s)
  | none => s.onFront q 0x30 fun s d =>
    let p := (s.queue q).next
    let ends (s : State) (v : Summary) : State :=
      s.start q d p.after { startedOf p d true with summary := if vpY d then some (vpSlot d, v) else none }
    if vpReserved d then s.failAt q 0x01 p
    else
      let (s, st, g) := s.readProg q.die d
      let st := if st = 0 then s.vprogStatus q d g else st
      if st ≠ 0 then s.failAt q st p
      else match g.iter with
        | none => ends s Summary.empty
        | some it =>
          if it.empty ∨ vpCount d = 0 then ends s Summary.empty
          else
            let s := s.start q d p.after (startedOf p d false)
            vprogOn q p (vEnv q.die d g it (s.seedOf q.die)) (VRun.start s) 0 blocks

end Sys2Proof.Machine
end

