-- ==== Sys2Proof/Machine/Convert.lean ====
section
/-! DEFINITION. The convert engine: CONVERT from one tensor to another, with transpose and flag summary (R215 to R217). -/

namespace Sys2Proof.Machine

/-- A flag summary (R217). -/
def flagSummary (count : Nat) (nan sat : Bool) : Summary :=
  { max := 0xFF7FFFFF, sum := 0, count := count % 2 ^ 32, anyNan := nan, anySat := sat }

/-- Reads two tensor descriptors at two descriptor fields, after their place checks (R526). -/
def State.readPair (s : State) (die : DieId) (w v : Nat) : State × Nat × (Tensor × Bool) × (Tensor × Bool) :=
  let p1 := s.placeStatus die (fSram w) (fOff w) 64 64
  let p2 := s.placeStatus die (fSram v) (fOff v) 64 64
  let none_ := parseTensor []
  if p1 = 0x10 ∨ p2 = 0x10 then (s, 0x10, none_, none_)
  else if p1 = 0x11 ∨ p2 = 0x11 then (s, 0x11, none_, none_)
  else
    let (s, s1, a) := s.readLocal die (fSram w) (fOff w) 64
    let (s, s2, b) := s.readLocal die (fSram v) (fOff v) 64
    (s, firstStatus s1 s2, parseTensor a, parseTensor b)

/-- Sizes of a source as its destination must have them: dimensions 0 and 1 swap under X (R215). -/
def swapped (x : Bool) (v : Vector Nat 5) : Vector Nat 5 := if x then #v[v[1], v[0], v[2], v[3], v[4]] else v

/-- The values of elements i0 to i0 + m − 1 of a destination row: of the source's row, or under X of its column (R215). -/
def State.sourceRun (s : State) (die : DieId) (x : Bool) (src dst : Tensor) (n i0 m : Nat) : State × Nat × List Ex :=
  if x then
    let c := dst.rowCoords n
    let base := src.size 1 * (c.getD 1 0 + src.size 2 * (c.getD 2 0 + src.size 3 * c.getD 3 0))
    (List.range m).foldl (fun ((s : State), (st : Nat), (xs : List Ex)) i =>
      let (s, r, row) := s.rowValues die src (src.rowCoords (base + i0 + i))
      (s, firstStatus st r, xs ++ [row.getD (c.getD 0 0) .nan])) (s, 0, [])
  else s.segValues die src (src.rowCoords n) i0 m

/-- Whether a decoded value was an Inf (R137). -/
def anyInf (xs : List Ex) : Bool := xs.any (·.isInf)

def anyNaN (xs : List Ex) : Bool := xs.any (· == .nan)

/-- The checks of CONVERT on its two descriptors (R215, R526). -/
def State.convertStatus (s : State) (die : DieId) (x : Bool) (a b : Tensor × Bool) : Nat :=
  if a.2 || b.2 then 0x01
  else if [a.1, b.1].any (s.tensorOut die) then 0x10
  else if a.1.misaligned || b.1.misaligned then 0x11
  else if a.1.badValue false || b.1.badValue true || b.1.sizes != swapped x a.1.sizes then 0x02
  else 0

/-- What a CONVERT has done: its work, and its any-NaN and any-saturated states. -/
structure CAcc where
  k : Work
  nan : Bool
  sat : Bool

/-- The runs of a CONVERT in ascending order: every row of the destination in pieces of up to 4,096 elements. -/
def convertRuns (dst : Tensor) : List (Nat × Nat × Nat) :=
  (List.range dst.rowCount).flatMap fun n =>
    (List.range (ceilDiv (dst.size 0) 4096)).map fun b => (n, 4096 * b, min 4096 (dst.size 0 - 4096 * b))

/-- One run: its elements are read, encoded once and written with their scales, and give their flags (R143 to R153, R216). -/
def CAcc.run (die : DieId) (d : List Nat) (seed : Nat) (src dst : Tensor) (a : CAcc) (x : Nat × Nat × Nat) : CAcc :=
  let (n, i0, m) := x
  let (s, st, xs) := a.k.s.sourceRun die (bit (qw d 6) 63) src dst n i0 m
  let (k, f) := Work.storeRun { a.k with s := s, st := firstStatus a.k.st st } die dst (dst.rowCoords n) i0 (xs.map some)
    (xs.map fun _ => true) ⟨bit (qw d 6) 62, seed, dTag d⟩
  { k := k, nan := a.nan || anyNaN xs || f.cnz, sat := a.sat || anyInf xs || f.cs }

/-- How many runs reach the n-th boundary, which lies at the end of the run that completes 4,096 elements (R218, log 112). -/
def convertTake : List (Nat × Nat × Nat) → Nat → Nat → Nat
  | [], _, _ => 0
  | (_, _, m) :: xs, n, got =>
    if n = 0 then 0
    else if 4096 ≤ got + m then 1 + convertTake xs (n - 1) 0
    else 1 + convertTake xs n (got + m)

/-- How many of a CONVERT's runs a number of blocks takes in; none for all. -/
def convertCount (runs : List (Nat × Nat × Nat)) : Option Nat → Nat
  | some n => convertTake runs n 0
  | none => runs.length

/-- Goes on with a CONVERT for some of its blocks (R96, R218). -/
def CAcc.convertOn (a : CAcc) (q : QueueId) (d : List Nat) (p : Pos) (seed : Nat) (src dst : Tensor) (runs : List (Nat × Nat × Nat))
    (blocks : Option Nat) : State :=
  let n := convertCount runs blocks
  let a := (runs.take n).foldl (CAcc.run q.die d seed src dst) a
  if a.k.st ≠ 0 then (a.k.undoSome q.die).failJob q p a.k.st
  else if runs.drop n = [] then
    let v := if bit (qw d 6) 61 then some (bits (qw d 6) 60 57, flagSummary dst.count a.nan a.sat) else none
    a.k.s.updStarted q p fun y => { y with job := none, done := true, summary := v }
  else
    let j : Job := { seed := seed, wrote := a.k.wrote, nan := a.nan, sat := a.sat, work := .convert src dst (runs.drop n) }
    a.k.s.updStarted q p fun y => { y with job := some j }

/-- CONVERT (R215): each element decoded once and encoded once. The command runs some of its blocks, or all that are left; a later one
goes on (R218). -/
def execConvert (r : BlockRun) (s : State) : Result :=
  let q := r.queue
  let blocks := r.blocks
  match s.inHand q with
  | some (y, j) => (match j.work with
    | .convert src dst runs =>
      let a : CAcc := { k := { s := s, st := 0, wrote := j.wrote }, nan := j.nan, sat := j.sat }
      .next (State.blockBoundary (a.convertOn q y.qws y.pos j.seed src dst runs (s.blocksNow q.die blocks)) q)
    | _ => .next s)
  | none => s.onFront q 0x70 fun s d =>
    let p := (s.queue q).next
    let v := if bit (qw d 6) 61 then some (bits (qw d 6) 60 57, flagSummary 0 false false) else none
    if 1 < fSpace (qw d 4) ∨ 1 < fSpace (qw d 5) then s.failAt q 0x01 p
    else
      let (s, st, a, b) := s.readPair q.die (qw d 4) (qw d 5)
      let st := if st ≠ 0 then st else s.convertStatus q.die (bit (qw d 6) 63) a b
      if st ≠ 0 then s.failAt q st p
      else if b.1.empty then s.start q d p.after { startedOf p d true with summary := v }
      else
        let s := s.start q d p.after (startedOf p d false)
        CAcc.convertOn { k := { s := s, st := 0, wrote := [] }, nan := false, sat := false } q d p (s.seedOf q.die) a.1 b.1
          (convertRuns b.1) blocks

end Sys2Proof.Machine
end

