-- ==== Sys2Proof/Machine/Combine.lean ====
section
/-! DEFINITION. The combine engine's element-wise COMBINE on its two rails (R219, R220, with the combinations of 06). -/

namespace Sys2Proof.Machine

def cbIn (d : List Nat) : Nat := bits (qw d 5) 63 59
def cbMax (d : List Nat) : Bool := bits (qw d 5) 58 57 == 1
def cbMode (d : List Nat) : Nat := bits (qw d 5) 56 55
def cbWide (d : List Nat) : Bool := bit (qw d 5) 54
def cbBf16 (d : List Nat) : Bool := bit (qw d 5) 53

/-- Combines the terms of one block of up to 256 elements: canonical, repeatable, relaxed or max (R168, R173, R174, R219).
`n` counts the free values of an open order. -/
def cbBlock (d : List Nat) (n : Nat) (terms : List (List F32)) : List Rs :=
  if cbMax d then terms.map maxAll
  else if cbMode d = 0 then
    let a := anchorOf terms.flatten
    terms.map fun t => canonCombine t a (cbWide d)
  else if cbMode d = 1 then terms.map repeatable
  else terms.zipIdx.map fun (t, i) => relaxed32 (n + 16 * i) (cbBf16 d) t

/-- One output row: its codes and flags (any-NaN, any-saturated). `inputs` holds the row of each input. -/
def cbRow (d : List Nat) (out : Tensor) (n : Nat) (inputs : List (List Ex)) : List Nat × Bool × Bool :=
  let terms := inputs.map fun r => r.map term32
  let cols := (List.range (out.size 0)).map fun i => terms.map fun r => r.getD i ⟨0, false, false⟩
  let rs := (chunksOf 256 (cols.length + 1) cols).zipIdx.flatMap fun (b, k) =>
    cbBlock d (n + 4096 * k) (b.map fun c => c.map (·.v))
  let es := rs.map fun r => out.format.encode (dec32 r.v) 127 none
  (es.map (·.bits),
   rs.any (fun r => r.n || isNan32 r.v) || cols.any (·.any (·.n)) || es.any (·.cnz),
   rs.any (·.s) || cols.any (·.any (·.s)) || es.any (·.cs))

/-- The checks of COMBINE on its descriptors, the output last (R219, R526). -/
def State.cbStatus (s : State) (q : QueueId) (d : List Nat) (ts : List (Tensor × Bool)) : Nat :=
  let n := cbIn d
  let out := (ts.getD n (parseTensor [])).1
  let ins := (ts.take n).map (·.1)
  let sum := !cbMax d
  if ts.any (·.2) then 0x01
  else if (ts.map (·.1)).any (s.tensorOut q.die) then 0x10
  else if (ts.map (·.1)).any (·.misaligned) then 0x11
  else if ins.any (·.badValue false) || out.badValue true then 0x02
  else if ins.any (fun t => t.sizes != out.sizes || !t.format.isFloat)
    || (out.format != .fp32 && out.format != .bf16) then 0x02
  else if sum && cbMode d == 0 && out.org 0 % 256 != 0 then 0x02
  else if sum && !((s.getCtx q.die q.ctx).settingsOk (cbMode d) none (some (cbWide d))) then 0x02
  else 0

/-- The values of the inputs, read in order. -/
def State.cbValues (s : State) (die : DieId) (ins : List Tensor) : State × Nat × List (List (List Ex)) :=
  ins.foldl (fun ((s : State), (st : Nat), (vs : List (List (List Ex)))) t =>
    let (s, st2, v) := s.allValues die t
    (s, firstStatus st st2, vs ++ [v])) (s, 0, [])

/-- The combined rows, with their flags; in relaxed mode each combination takes free values of its own (log 7). -/
def State.cbRows (s : State) (d : List Nat) (out : Tensor) (vals : List (List (List Ex))) : State × List (List Nat × Bool × Bool) :=
  let n0 := s.free
  let rows := (List.range out.rowCount).map fun i =>
    cbRow d out (n0 + 16 * (out.size 0 + 256) * i) (vals.map fun v => v.getD i [])
  (if !cbMax d ∧ cbMode d = 2 then { s with free := s.free + 16 * 4096 * (out.rowCount * (out.size 0 + 256)) } else s, rows)

/-- The output groups of COMBINE in ascending address (R220). -/
def cbGroups (out : Tensor) (rows : List (List Nat × Bool × Bool)) : List (List (Bool × Nat × List Byte)) :=
  groupsOf (rows.zipIdx.flatMap fun ((x : List Nat × Bool × Bool), i) => out.planRow (out.rowCoords i) x.1)

/-- Goes on with a COMBINE for some of its blocks of 64 output groups, written as the rails agree (R96, R220, R221). Its groups were
formed when its first block ran (log 112). -/
def CAcc.combineOn (a : CAcc) (q : QueueId) (d : List Nat) (p : Pos) (out : Tensor) (groups : List (List (Bool × Nat × List Byte)))
    (rails : List RailObs) (blocks : Option Nat) : State :=
  let n := (blocks.map (64 * ·)).getD groups.length
  let k := a.k.writeGroups q.die (groups.take n) rails
  if k.st ≠ 0 then k.s.failJob q p k.st
  else if groups.drop n = [] then
    let v := if bit (qw d 5) 52 then some (bits (qw d 5) 51 48, flagSummary out.count a.nan a.sat) else none
    k.s.updStarted q p fun y => { y with job := none, done := true, summary := v }
  else
    let j : Job := { seed := 0, wrote := [], nan := a.nan, sat := a.sat, work := .combine out (groups.drop n) }
    k.s.updStarted q p fun y => { y with job := some j }

/-- CB COMBINE (R219). The command writes some of its blocks of output groups, or all that are left; a later one goes on (R221). -/
def execCbCombine (r : BlockRun) (rails : List RailObs) (s : State) : Result :=
  let q := r.queue
  let blocks := r.blocks
  match s.inHand q with
  | some (y, j) => (match j.work with
    | .combine out groups =>
      let a : CAcc := { k := { s := s, st := 0, wrote := [] }, nan := j.nan, sat := j.sat }
      .next (State.blockBoundary (a.combineOn q y.qws y.pos out groups rails (s.blocksNow q.die blocks)) q)
    | _ => .next s)
  | none => s.onFront q 0x50 fun s d =>
    let p := (s.queue q).next
    let n := cbIn d
    let ends (s : State) : State :=
      s.start q d p.after { startedOf p d true with
        summary := if bit (qw d 5) 52 then some (bits (qw d 5) 51 48, flagSummary 0 false false) else none }
    if 1 < fSpace (qw d 4) ∨ 16 < n ∨ 1 < bits (qw d 5) 58 57 ∨ (!cbMax d && cbMode d == 3) then s.failAt q 0x01 p
    else if n = 0 then ends s
    else
      let sp := s.placeStatus q.die (fSram (qw d 4)) (fOff (qw d 4)) (64 * (n + 1)) 64
      let (s, st, ts) := if sp = 0 then s.readTensors q.die (fSram (qw d 4)) (fOff (qw d 4)) (n + 1) else (s, sp, [])
      let st := if st ≠ 0 then st else s.cbStatus q d ts
      let out := (ts.getD n (parseTensor [])).1
      if st ≠ 0 then s.failAt q st p
      else if out.empty then ends s
      else
        let (s, r, vals) := s.cbValues q.die ((ts.take n).map (·.1))
        if r ≠ 0 then s.failAt q r p
        else
          let (s, rows) := s.cbRows d out vals
          let s := s.start q d p.after (startedOf p d false)
          CAcc.combineOn { k := { s := s, st := 0, wrote := [] }, nan := rows.any (·.2.1), sat := rows.any (·.2.2) } q d p out
            (cbGroups out rows) rails blocks

end Sys2Proof.Machine
end

