-- ==== Sys2Proof/Machine/Ports.lean ====
section
/-! DEFINITION. Ports: which tags they carry, their egress queues, and the counts of packets that find no way (R296, R300,
R304). -/

namespace Sys2Proof.Machine

/-- Whether a port permits a tag (R295, R296); a service port carries its own quire's tag only (R305). -/
def State.permits (s : State) (p : PortId) (tag : Nat) : Bool :=
  let x := s.port p
  tag == 0 || tag == s.tagOf x.plan.quire || (x.plan.shared && decide (p.val < 44))

/-- A port that carries data of a tag (R293, R296). -/
def State.carries (s : State) (p : PortId) (tag : Nat) : Bool := (s.port p).state == .up && s.permits p tag

/-- Bytes of a packet on a link: its routing word, header, payload and CRC (R271, R272, R298). -/
def packetBytes (k : FabricPacket) : Nat := 8 + match k.body with
  | .request r => 48 + r.payload.length
  | .reply r => 32 + r.payload.length

/-- Bytes in a port's egress queue (R300). -/
def Port.queued (x : Port) : Nat := sumNat (x.egress.map packetBytes)

/-- Takes packets in order: into the egress queue of 512 KiB while it has room and none waits before them (R308). -/
def Port.accept (x : Port) : List FabricPacket → Port
  | [] => x
  | k :: ks =>
    (if x.backlog.isEmpty ∧ x.queued + packetBytes k ≤ 524288 then { x with egress := x.egress ++ [k] }
     else { x with backlog := x.backlog ++ [k] }).accept ks

def State.enqueuePort (s : State) (p : PortId) (k : FabricPacket) : State := s.updPort p fun x => x.accept [k]

/-! ## The egress regulator (R295, R297) -/

/-- Bytes that a port carries in the regulator's window of 1 µs (log 158): 1.92 Tbit/s (R22). -/
def windowBytes : Nat := 240000

/-- What a tag counts as: a local quire's, foreign transit (4), management (5). -/
def State.tagClass (s : State) (tag : Nat) : Fin 6 :=
  if tag = 0 then 5 else match s.quireOfTag tag with
    | some k => ⟨k.val, by omega⟩
    | none => 4

/-- Bytes of a window that a class is guaranteed: its share, or 1% for management. -/
def State.guaranteed (s : State) (p : PortId) (k : Fin 6) : Nat :=
  windowBytes * (if k = 5 then 1 else s.setting 0x4331 (1 + 5 * p.val + k.val)) / 100

/-- Bytes of a class sent in the window that elapsed time t lies in. -/
def Port.usedAt (x : Port) (t : Nat) (k : Fin 6) : Nat := if x.reg.window = t / 1000 then x.reg.used[k] else 0

/-- The packet that a port sends next: management first, up to 1% of the rate; then the oldest of a class within its guarantee; then
the oldest of any, since what a class leaves idle goes to the others. Foreign transit takes its tags in turn. A module out of the fabric
sends management only (R294). -/
def State.nextPacket (s : State) (p : PortId) : Option FabricPacket :=
  let x := s.port p
  let ks := x.egress.filter fun k => k.tag == 0 || s.topo.joined
  let owed := ks.filter fun k => decide (x.usedAt s.mono (s.tagClass k.tag) < s.guaranteed p (s.tagClass k.tag))
  let pick (ks : List FabricPacket) : Option FabricPacket := match ks with
    | [] => none
    | k :: _ =>
      if s.tagClass k.tag ≠ 4 then some k
      else
        let turn (k : FabricPacket) : Nat := (k.tag + 511 - x.reg.lastTag) % 256
        let foreign := ks.filter fun k => s.tagClass k.tag == 4
        let low := (foreign.map turn).foldl Nat.min 256
        foreign.find? fun k => turn k == low
  ((owed.find? (·.tag == 0)).or (pick owed)).or (pick ks)

/-- A port after it has sent a packet: its regulator has counted it, and packets that waited move up. -/
def Port.sent (x : Port) (t : Nat) (c : Fin 6) (k : FabricPacket) : Port :=
  let used := if x.reg.window = t / 1000 then x.reg.used else .replicate 6 0
  let y : Port := { x with egress := x.egress.erase k, backlog := [],
                           reg := { window := t / 1000, used := used.set c (used[c] + packetBytes k),
                                    lastTag := if c = 4 then k.tag else x.reg.lastTag } }
  y.accept x.backlog

/-- The port of a list whose egress queue holds the fewest bytes; the lowest number on a tie (R300). -/
def State.emptiest (s : State) (ps : List PortId) : Option PortId :=
  let low := (ps.map fun p => (s.port p).queued).foldl Nat.min (2 ^ 64)
  ps.find? fun p => (s.port p).queued == low

def State.countRoute (s : State) (i : Fin 3) : State :=
  { s with topo := { s.topo with counts := s.topo.counts.set i (s.topo.counts[i] + 1) } }

/-- Counts an unroutable packet; event 0x0408 once per 1 ms and destination node (R304). -/
def State.noteUnroutable (s : State) (node : Nat) : State :=
  let s := s.countRoute 0
  let t := SMap.get 0 s.topo.unroutableAt node
  if t ≠ 0 ∧ s.mono < t - 1 + 1000000 then s
  else State.raise { s with topo := { s.topo with unroutableAt := SMap.set 0 s.topo.unroutableAt node (s.mono + 1) } }
    { code := 0x0408, unit := uCtl s.holder, detail := node }

end Sys2Proof.Machine
end

