-- ==== Sys2Proof/Machine/RemoteDest.lean ====
section
/-! DEFINITION. The destination of remote operations: the handling order of R276, the reply cache, the lanes, clasps, multicast
delivery and the combination of its replies (R258 to R261, R266, R267, R269, R274 to R279). -/

namespace Sys2Proof.Machine

/-- The destination key of a request (R277). -/
def requestKey (d : DieId) (r : Request) : DestKey :=
  let a := gaddr r.target
  match a.place with
  | .ok w => keyOf a w r.tag
  | .error _ => .die a.node d.val

/-! ## Replies (R272) -/

/-- The reply to a request, with its CRC. -/
def replyOf (r : Request) (k : DestKey) (ft epoch status : Nat) (nk cached hot : Bool) (data : List Byte) : Reply :=
  let y : Reply :=
    { tag := r.tag, replyFt := ft, node := r.srcNode, die := r.srcDie, stream := r.stream, key := k, seq := r.seq, epoch := epoch,
      status := status, hot := hot, cached := cached, nk := nk, payload := data, crc := 0 }
  { y with crc := crc32c (replyBytes y) }

/-- Stamp of a packet: the source's FT at injection (R61). -/
def Body.stamp : Body → Nat
  | .request r => r.attemptFt
  | .reply r => r.replyFt

/-- The target die of a request answers it. -/
def State.sendReply (s : State) (d : DieId) (r : Request) (status : Nat) (nk cached hot : Bool) (data : List Byte) : State :=
  s.send (.reply d (replyOf r (requestKey d r) (s.die d).ft (s.die d).epoch status nk cached hot data))

/-- The die that a request addresses on this node, when it names one. -/
def State.targetDie (s : State) (r : Request) : Option DieId :=
  let a := gaddr r.target
  if a.node ≠ s.node then none else
  match a.place with
  | .ok (.die e _ _) => some e
  | .ok (.obj e _) => some e
  | .ok (.window x) => (s.quireOfTag r.tag).bind fun k => (s.spreadPlace k x).map (·.1)
  | _ => none

/-- The epoch that a router's refusal carries: the target die's; of a die of another node, which this one does not know, an open value
(R272, log 135). -/
def State.targetEpoch (s : State) (r : Request) : Nat × State := match s.targetDie r with
  | some e => ((s.die e).epoch, s)
  | none => s.fresh 65536

/-- A router that cannot forward a request answers NK = 1 with status 0x20 (R272). -/
def State.refuseAt (s : State) (d : DieId) (r : Request) : State :=
  let (epoch, s) := s.targetEpoch r
  s.send (.reply d (replyOf r (requestKey d r) (s.die d).ft epoch 0x20 true false false []))

/-- The routing word of a packet that enters the fabric here (R298, R299): the target's node, 0xFFFF for a multicast store, a reply's
source node; the tag of the request; no hops, no detour, no ring direction, virtual channel 0. -/
def formed (b : Body) : FabricPacket :=
  let (dst, tag) : Nat × Nat := match b with
    | .request r => ((gaddr r.target).node, r.tag)
    | .reply r => (r.node, r.tag)
  { dst := dst, tag := tag, hops := 0, vc := false, detour := false, ring := 0, wrap := false, body := b }

/-- Sends the combined reply of a multicast store upstream: to its source on the root, else out of the port of arrival when that
carries the tag (R267, R296). -/
def State.endCombine (s : State) (d : DieId) (c : Combine) : State :=
  let s := { s with combines := s.combines.filter (·.id ≠ c.id) }
  match c.arrival with
  | none => s.sendReply d c.req c.status c.nk false c.hot []
  | some p =>
    let y := replyOf c.req (requestKey d c.req) (s.die d).ft (s.die d).epoch c.status c.nk false c.hot []
    if s.carries p c.req.tag then s.enqueuePort p { formed (.reply y) with hops := 1 } else s.noteUnroutable c.req.srcNode

/-- Takes one local or forwarded reply of a multicast store; the last one sends the combined reply with the highest status
(R267). -/
def State.combineReply (s : State) (d : DieId) (id status : Nat) (nk hot : Bool) : State :=
  match s.combines.find? (·.id == id) with
  | none => s
  | some c =>
    let c := { c with left := c.left - 1, status := max c.status status, nk := c.nk || nk, hot := c.hot || hot }
    if c.left = 0 then s.endCombine d c
    else { s with combines := s.combines.map fun y => if y.id = id then c else y }

/-- The combination that a group's reply belongs to. -/
def State.combineFor (s : State) (r : Reply) : Option Combine :=
  s.combines.find? fun c => c.req.srcNode == r.node && c.req.srcDie == r.die && c.req.stream == r.stream && c.req.seq == r.seq
    && (match r.key with
      | .group g => bits (gaddr c.req.target).off 43 32 == g
      | _ => false)

/-- Answers a request: to its source, or into its multicast store's combination. -/
def State.answer (s : State) (d : DieId) (r : Request) (group : Option Nat) (status : Nat) (nk cached hot : Bool)
    (data : List Byte) : State :=
  match group with
  | some id => s.combineReply d id status nk hot
  | none => s.sendReply d r status nk cached hot data

/-! ## The reply cache (R278, R279) -/

def Record.matchesReq (x : Record) (r : Request) (k : DestKey) : Bool :=
  x.node == r.srcNode && x.die == r.srcDie && x.stream == r.stream && x.epoch == r.srcEpoch && x.key == k

def ResultEntry.matchesReq (x : ResultEntry) (r : Request) (k : DestKey) : Bool :=
  x.node == r.srcNode && x.die == r.srcDie && x.stream == r.stream && x.key == k

def Die.findRec (x : Die) (r : Request) (k : DestKey) : Option Record := x.recs.find? (·.matchesReq r k)

def Die.updRec (x : Die) (r : Request) (k : DestKey) (f : Record → Record) : Die :=
  { x with recs := x.recs.map fun y => if y.matchesReq r k then f y else y }

/-- Removes any record of the stream and key, and its results. -/
def Die.dropRec (x : Die) (r : Request) (k : DestKey) : Die :=
  { x with recs := x.recs.filter fun y => !(y.node == r.srcNode && y.die == r.srcDie && y.stream == r.stream && y.key == k),
           results := x.results.filter fun y => !y.matchesReq r k }

def Die.addRec (x : Die) (r : Request) (k : DestKey) : Die :=
  { x with recs := x.recs ++ [{ node := r.srcNode, die := r.srcDie, stream := r.stream, epoch := r.srcEpoch, key := k,
                                floor := r.floor, applied := [], last := x.ft,
                                created := if r.fresh then r.firstFt else 0 }],
           peaks := (max x.peaks.1 (x.recs.length + 1), x.peaks.2) }

/-- Raises the floor to the request's ack floor; bits and results below it are released (R278). -/
def Die.raiseFloor (x : Die) (r : Request) (k : DestKey) : Die :=
  match x.findRec r k with
  | none => x
  | some y =>
    let f := max y.floor r.floor
    let x := x.updRec r k fun y => { y with floor := f, applied := y.applied.filter (f ≤ ·), last := x.ft }
    { x with results := x.results.filter fun z => !(z.matchesReq r k && decide (z.seq < f)) }

/-- Records the outcome of a sequence; a full result store evicts its oldest application and moves the horizon (R278). -/
def Die.recordResult (x : Die) (r : Request) (k : DestKey) (status : Nat) (value : List Byte) : Die :=
  let x := x.updRec r k fun y => { y with applied := insertNew y.applied r.seq, last := x.ft }
  let x := { x with peaks := (x.peaks.1, max x.peaks.2 (min (x.results.length + 1) 786432)) }
  let e : ResultEntry :=
    { node := r.srcNode, die := r.srcDie, stream := r.stream, key := k, seq := r.seq, status := status, value := value,
      ft := x.ft }
  if x.results.length < 786432 then { x with results := x.results ++ [e] }
  else match x.results with
    | old :: rest => { x with results := rest ++ [e], horizon := max x.horizon old.ft }
    | [] => { x with results := [e] }

/-! ## Checks of a request (steps 6 to 11 of R276) -/

def isAtomic (op : Nat) : Bool := decide (3 ≤ op) && decide (op ≤ 7)
def isReduce (op : Nat) : Bool := decide (0x0A ≤ op) && decide (op ≤ 0x0F)
def isAfx (op : Nat) : Bool := op == 0x0C || op == 0x0D
def isSignal (op : Nat) : Bool := op == 0x08 || op == 0x09

/-- Sizes R258 permits. -/
def sizeOk (op size space : Nat) (wide : Bool) : Bool :=
  if op = 1 then (if space = 2 then size == 4 else decide (4 ≤ size) && decide (size ≤ 4096) && size % 4 == 0)
  else if op = 2 then decide (4 ≤ size) && decide (size ≤ 4096) && size % 4 == 0
  else if isAtomic op then size == (if wide then 8 else 4) * (if op = 7 then 2 else 1)
  else if isSignal op then size == 4
  else if op = 0x0C then size == 2112
  else if op = 0x0D then size == 3136
  else if isReduce op then decide (64 ≤ size) && decide (size ≤ 4096) && size % 64 == 0
  else size == 0

/-- Target alignment of an operation (R258). -/
def alignOf (op : Nat) (wide : Bool) : Nat :=
  if isAtomic op then (if wide then 8 else 4) else if isReduce op then 64 else if op = 0x10 then 1 else 4

/-- Whether the target space takes the operation (R257). -/
def spaceTakes (space op : Nat) : Bool :=
  op == 0x10 || (if space = 2 then op == 1 || isSignal op else if space = 3 then op == 2 else !isSignal op)

/-- Bytes that an operation touches at its target. -/
def touched (op size : Nat) : Nat := if op = 7 then size / 2 else if op = 0x10 then 0 else size

/-- What a request acts on at its die. -/
inductive Target where
  | mem (p : Place)
  | obj (o : Nat)
  deriving DecidableEq, Repr

/-- Steps 8 and 9 for a die-form or SRAM target on die d, or a resolved place. -/
def State.checkPlace (s : State) (d : DieId) (sram : Bool) (off op size : Nat) (wide : Bool) : Except Nat Target :=
  let n := touched op size
  if (if sram then decide (sramSize < off + n) else decide (s.reservedBase d < off + n) || decide ((s.die d).channels = 0))
  then .error 0x10
  else if off % alignOf op wide ≠ 0 then .error 0x11
  else .ok (.mem ⟨d, sram, off⟩)

/-- The target on die d of a request (steps 8 and 9). A window address resolves to the die that holds it (R235). -/
def State.targetOf (s : State) (d : DieId) (r : Request) : Except Nat Target :=
  let a := gaddr r.target
  match a.place with
  | .error st => .error st
  | .ok (.die e sram off) => if e = d then s.checkPlace d sram off r.op r.size r.wide else .error 0x10
  | .ok (.obj e o) => if e = d then .ok (.obj o) else .error 0x10
  | .ok (.window x) =>
    let n := touched r.op r.size
    match s.quireOfTag r.tag with
    | none => .error 0x13
    | some k =>
      if s.windowSize k < x + n then .error 0x10
      else if x % alignOf r.op r.wide ≠ 0 ∨ (isAfx r.op ∧ 4096 < x % 4096 + n) then .error 0x11
      else match s.spreadPlace k x with
        | some (e, off) => .ok (.mem ⟨e, false, off⟩)
        | none => .error 0x10
  | .ok (.group ..) => .error 0x14

/-- Whether a request's source is a reserved value: a die beyond the host edge die, or a reserved stream (R256). -/
def reservedSource (r : Request) : Bool :=
  decide (20 < r.srcDie) || (decide (r.srcDie < 20) && decide (0x58 ≤ r.stream) && decide (r.stream ≤ 0xEF))

/-- Steps 6 to 11 of R276 for a request at its target die; `given` is a multicast delivery's quire and target. -/
def State.checkRequest (s : State) (d : DieId) (r : Request) (given : Option (Fin 4 × Except Nat Target)) : Except Nat Target :=
  let tagged := s.quireOfTag r.tag
  let outside := match given with
    | some (k, _) => (s.die d).quire != some k || tagged != some k
    | none => tagged.isNone || (s.die d).quire != tagged
  let space := if given.isSome then 3 else (gaddr r.target).space
  if outside then .error 0x13
  else if r.op = 0 ∨ 0x10 < r.op ∨ 3 < space ∨ reservedSource r then .error 0x01
  else if !sizeOk r.op r.size space r.wide then .error 0x02
  else match (match given with
      | some (_, t) => t
      | none => s.targetOf d r) with
    | .error st => .error st
    | .ok t =>
      if !spaceTakes space r.op then .error 0x14
      else match t with
        | .obj o =>
          if r.op = 0x09 ∧ (s.die d).isDoorbell o then .error 0x15
          else if isSignal r.op ∧ (s.die d).ft < r.release ∧ 256 ≤ (s.die d).rel.length then .error 0x0A
          else .ok t
        | .mem _ => .ok t

/-! ## Lanes (R274, R275) -/

/-- The place of a target on its die; objects lie beyond the SRAM. -/
def Target.place (d : DieId) : Target → Place
  | .mem p => p
  | .obj o => ⟨d, true, sramSize + 4 * o⟩

/-- The line of a place, as a number. -/
def Place.line (p : Place) : Nat := (if p.sram then 2 ^ 40 else 0) + p.off / 64

/-- The lane of a request: the hash of the line that its target resolves to, or of its address when it resolves to none (R275,
log 136). -/
def laneOf (d : DieId) (r : Request) (t : Except Nat Target) : Nat := match t with
  | .ok t => Config.laneHash (t.place d).line % 32
  | .error _ => Config.laneHash (r.target / 64) % 32

def Die.laneDepth (x : Die) (lane : Nat) : Nat := (x.inbound.filter (·.lane == lane)).length

/-- Whether the inbound queue and a lane have room (R275). -/
def Die.hasRoom (x : Die) (lane : Nat) : Bool := decide (x.inbound.length < 32768) && decide (x.laneDepth lane < 16384)

/-- A request that finds its lane hot: the die's change into the hot state raises 0x0444 once per hot hold interval (R274). -/
def State.noteHot (s : State) (d : DieId) (hot : Bool) : State :=
  if hot && (match (s.die d).hotAt with
      | some t => decide (t + s.setting 0x4200 5 * 1000 ≤ s.mono)
      | none => true) then
    (s.updDie d fun x => { x with hotAt := some s.mono }).raise { code := 0x0444, unit := uDie d }
  else s

/-! ## Admission (steps 2 to 12 of R276) -/

/-- Ends a request's handling with a recorded status (steps 6 to 11). -/
def State.refuse (s : State) (d : DieId) (r : Request) (k : DestKey) (group : Option Nat) (status : Nat) (hot : Bool) : State :=
  let s := if status = 0x0A then s.raise { code := 0x0804, unit := uDie d } else s
  (s.updDie d (·.recordResult r k status [])).answer d r group status false false hot []

/-- Data of a load of a resolved target, read again: status and bytes (R253, R278). -/
def State.loadTarget (s : State) (d : DieId) (r : Request) : State × Nat × List Byte :=
  match s.targetOf d r with
  | .ok (.mem p) => s.readOwn d p r.size
  | .ok (.obj o) => (s, 0, leBytes 4 ((s.die d).obj o))
  | .error st => (s, st, [])

/-- Whether an earlier sequence of a request's stream and key has not applied (R269). -/
def Die.earlier (x : Die) (r : Request) (k : DestKey) : Bool := match x.findRec r k with
  | some y => (List.range (r.seq - y.floor)).any fun i => decide (y.floor + i ∉ y.applied)
  | none => false

/-- Enters a request in its lane's queue; a clasp under a die key waits for the earlier sequences (R269, R275). -/
def State.enqueue (s : State) (d : DieId) (r : Request) (k : DestKey) (group : Option Nat) (t : Target) (hot : Bool) : State :=
  let held := r.clasp && (s.die d).earlier r k && (match k with
    | .die .. => true
    | _ => false)
  let s := { s with nextOp := s.nextOp + 1 }
  s.updDie d fun x => { x with inbound := x.inbound ++
    [{ id := s.nextOp, req := r, lane := laneOf d r (.ok t), hot := hot, place := t.place d, line := 0, status := 0, data := [],
       held := held, group := group }] }

/-- Steps 4 to 12 for a request whose record is in place. -/
def State.takeInKnown (s : State) (d : DieId) (r : Request) (k : DestKey) (group : Option Nat)
    (given : Option (Fin 4 × Except Nat Target)) (hot : Bool) : State :=
  let x := s.die d
  if (match x.findRec r k with
      | some y => decide (r.seq ∈ y.applied)
      | none => false) then
    let s := s.countRemote d 1
    match x.results.find? fun z => z.matchesReq r k && z.seq == r.seq with
    | some z =>
      let (s, st, data) := if r.op = 1 ∧ z.status = 0 then s.loadTarget d r else (s, z.status, z.value)
      s.answer d r group st false true hot data
    | none => (s.raise { code := 0x0443, unit := uDie d }).answer d r group 0x21 false true hot []
  else if x.inbound.any (fun e => e.req.seq == r.seq && e.req.srcNode == r.srcNode && e.req.srcDie == r.srcDie
      && e.req.stream == r.stream && requestKey d e.req == k) then s
  else match s.checkRequest d r given with
    | .error st => s.refuse d r k group st hot
    | .ok t =>
      if r.op = 0x10 then s.refuse d r k group 0 hot
      else s.enqueue d r k group t hot

/-- Steps 2 to 12 at the target die. -/
def State.takeIn (s : State) (d : DieId) (r : Request) (k : DestKey) (group : Option Nat)
    (given : Option (Fin 4 × Except Nat Target)) : State :=
  let x := s.die d
  let t := match given with
    | some (_, t) => t
    | none => s.targetOf d r
  let hot := decide (s.setting 0x4200 4 ≤ x.laneDepth (laneOf d r t))
  let s := s.noteHot d hot
  if (r.firstFt : Int) < x.boundary then
    (s.raise { code := 0x0442, unit := uDie d }).answer d r group 0x22 false false hot []
  else if x.channels = 0 then s.answer d r group 0x20 true false hot []
  else if r.retry ∧ (x.findRec r k).isNone ∧ (r.firstFt : Int) ≤ x.horizon then
    (s.raise { code := 0x0442, unit := uDie d }).answer d r group 0x22 false false hot []
  else
    let stale : Bool := match x.findRec r k with
      | some y => r.fresh && decide (y.created ≠ (r.firstFt : Int))
      | none => true
    let s := if stale then s.updDie d (·.dropRec r k) else s
    if stale ∧ 131072 ≤ (s.die d).recs.length then
      (s.raise { code := 0x0445, unit := uDie d }).answer d r group 0x20 true false hot []
    else
      let s := s.updDie d fun x => (if stale then x.addRec r k else x).raiseFloor r k
      let f := (((s.die d).findRec r k).map (·.floor)).getD 0
      if r.seq < f then s.countRemote d 3
      else if f + 64 ≤ r.seq then
        ((s.countRemote d 3).raise { code := 0x0447, unit := uDie d }).answer d r group 0x20 true false hot []
      else s.takeInKnown d r k group given hot

/-! ## Multicast (R266, R267) -/

/-- A group's entry as a 256-bit number. -/
def State.groupEntry (s : State) (g : Nat) : Nat := s.setting (0x4210 + g / 128) (1 + g % 128)

def entryValid (e : Nat) : Bool := bit e 63
def entryIngress (e : Nat) : Nat := bits e 55 48
def entryQuire (e : Nat) : Fin 4 := ⟨bits e 57 56 % 4, by omega⟩
def entryPorts (e : Nat) : Nat := bits e 47 0
def entryDies (e : Nat) : Nat := bits (e / 2 ^ 64) 19 0
def entrySram (e : Nat) : Bool := bits (e / 2 ^ 128) 47 44 == 1
def entryBase (e : Nat) : Nat := bits (e / 2 ^ 128) 43 0
def entryWindow (e : Nat) : Nat := bits (e / 2 ^ 192) 31 0

/-! ## The cut (R63, R64) -/

/-- Bytes of the held packets of a die. -/
def bodyBytes : Body → Nat
  | .request r => 48 + r.payload.length
  | .reply r => 32 + r.payload.length

def heldBytes (xs : List (Body × Option Nat)) : Nat := sumNat (xs.map fun b => bodyBytes b.1)

/-- Holds a packet of the cut (R63); a full area raises 0x060B, makes the cut unusable (R64), and the packet is lost
(log 137). -/
def State.holdPacket (s : State) (d : DieId) (b : Body) (group : Option Nat) : State :=
  let (lo, hi) := s.region d 1
  if (s.die d).channels = 0 ∨ hi - lo < heldBytes (s.die d).cutHold + bodyBytes b then
    State.raise { s with frz := { s.frz with cut := s.frz.cut.map fun c => { c with unusable := true } } }
      { code := 0x060B, unit := uDie d }
  else s.updDie d fun x => { x with cutHold := x.cutHold ++ [(b, group)] }

/-- Whether a packet stamped ft belongs to the cut in force at a die (R63). -/
def State.inCut (s : State) (d : DieId) (ft : Nat) : Bool := match s.frz.cut with
  | some c => decide (ft < c.ft) && decide (c.ft ≤ (s.die d).ft)
  | none => false

/-! ## Delivery of a multicast store (R267) -/

/-- What a multicast store acts on at a die of its entry: the local base offset plus its own, in the die's local part or the window
(R236, R266). -/
def State.deliveryTarget (s : State) (n : DieId) (r : Request) : Except Nat Target :=
  let a := gaddr r.target
  let e := s.groupEntry (bits a.off 43 32)
  let off := entryBase e + bits a.off 31 0
  let len := touched r.op r.size
  if entryWindow e < bits a.off 31 0 + r.size ∨ !s.localOk n (entrySram e) off len then .error 0x10
  else if off % alignOf r.op r.wide ≠ 0 then .error 0x11
  else match s.localRuns n (entrySram e) off len with
    | (p, _) :: _ => if s.reaches n p.die then .ok (.mem p) else .error 0x20
    | [] => .ok (.mem ⟨n, entrySram e, off⟩)

/-- A copy at one die of the entry: held when it belongs to the cut there, else handled as R276 says; a die that is away refuses it. -/
def State.deliver (s : State) (n : DieId) (r : Request) (id : Nat) : State :=
  let g := bits (gaddr r.target).off 43 32
  if (s.die n).presence ≠ .inService then s.combineReply n id 0x20 true false
  else s.takeIn n r (.group g) (some id) (some (entryQuire (s.groupEntry g), s.deliveryTarget n r))

/-- The dies of a multicast store's entry. -/
def State.deliveryDies (s : State) (r : Request) : List DieId :=
  let e := s.groupEntry (bits (gaddr r.target).off 43 32)
  if entryValid e then allDies.filter fun n => bit (entryDies e) n.val else []

/-- Whether every die of the entry has room for its copy (R275). -/
def State.deliveryRoom (s : State) (r : Request) : Bool :=
  (s.deliveryDies r).all fun n => (s.die n).hasRoom (laneOf n r (s.deliveryTarget n r))

/-- A multicast store at a module: discarded on a wrong ingress or without a valid entry (event 0x0446); else delivered to
each die of the mask and forwarded on each fan-out port, never the port of arrival; a copy that its port may not carry is
discarded (R296, R304). -/
def State.multicast (s : State) (d : DieId) (arrival : Option PortId) (hops : Nat) (r : Request) : State :=
  let e := s.groupEntry (bits (gaddr r.target).off 43 32)
  let ingressOk := match arrival with
    | some p => entryIngress e == p.val
    | none => entryIngress e == 0xFF
  if !entryValid e || !ingressOk then
    match arrival with
    | some p => s.raise { code := 0x0446, unit := uPort p (s.port p).exit }
    | none => s
  else
    let dies := s.deliveryDies r
    let ports := allPorts.filter fun p => bit (entryPorts e) p.val && arrival != some p
    let id := s.nextOp
    let c : Combine :=
      { id := id, req := r, left := dies.length + ports.length, status := 0, nk := false, hot := false, arrival := arrival }
    let s := { s with nextOp := s.nextOp + 1, combines := s.combines ++ [c] }
    let s := ports.foldl (fun s p =>
      if s.carries p r.tag then s.enqueuePort p { formed (.request r) with dst := 0xFFFF, hops := hops }
      else s.noteUnroutable 0xFFFF) s
    if dies.isEmpty ∧ ports.isEmpty then s.endCombine d c
    else dies.foldl (fun s n =>
      if s.inCut n r.attemptFt then s.holdPacket n (.request r) (some id) else s.deliver n r id) s

/-! ## Arrival -/

/-- The handling order from step 1 on, after the age check (R276). -/
def State.handleRequest (s : State) (d : DieId) (r : Request) : State :=
  if !requestOk r then s.sendReply d r 0x20 true false false []
  else match (gaddr r.target).place with
    | .ok (.group ..) => s.multicast d none 1 r
    | .ok (.window _) =>
      (match s.targetOf d r with
        | .ok (.mem p) =>
          if p.die = d then s.takeIn d r (requestKey d r) none none
          else s.send (.spine d { dst := p.die, vc := none, body := .request r })
        | .ok _ => s
        | .error st => s.sendReply d r st false false false [])
    | _ => s.takeIn d r (requestKey d r) none none

/-- Whether a request finds room where it goes: a multicast store at every die of its entry, another in its lane here (R275). -/
def State.roomFor (s : State) (d : DieId) (r : Request) : Bool := match (gaddr r.target).place with
  | .ok (.group ..) => s.deliveryRoom r
  | _ => (s.die d).hasRoom (laneOf d r (s.targetOf d r))

/-- REMOTE_REQUEST_ARRIVAL (R276): a die that is away answers NK 0x20 (R272); an attempt older than the packet lifetime is
lost; one of the cut is held; a full queue or lane leaves the packet in the ingress (R275). -/
def execRemoteRequestArrival (d : DieId) (r : Request) (s : State) : Result :=
  let x := s.die d
  if x.presence ≠ .inService then .next (s.sendReply d r 0x20 true false false [])
  else if r.attemptFt + 1000000 < x.ft then .next s
  else if s.inCut d r.attemptFt then .next (s.holdPacket d (.request r) none)
  else if !s.roomFor d r then .next s
  else .next (s.handleRequest d r)

/-! ## Application (R259 to R261, R221) -/

/-- Lines that an operation covers. -/
def lineCount (off size : Nat) : Nat := (off % 64 + size + 63) / 64

/-- Offset and length of line i of an operation. -/
def lineOf (off size i : Nat) : Nat × Nat :=
  let a := if i = 0 then off else (off / 64 + i) * 64
  (a, min (64 - a % 64) (off + size - a))

/-- Signed reading of a w-byte value. -/
def signedW (w v : Nat) : Int := if v < 2 ^ (8 * w - 1) then (v : Int) else (v : Int) - 2 ^ (8 * w)

/-- New value of an atomic (R260). -/
def atomicNew (op : Nat) (signed : Bool) (w old a b : Nat) : Nat :=
  let lt := if signed then decide (signedW w a < signedW w old) else decide (a < old)
  if op = 3 then (old + a) % 2 ^ (8 * w)
  else if op = 4 then (if lt then a else old)
  else if op = 5 then (if lt then old else a)
  else if op = 6 then a
  else if old = a then b else old

/-- An atomic at a place, by a die: status and the old value (R260). -/
def State.atomicAt (s : State) (d : DieId) (p : Place) (op : Nat) (wide signed : Bool) (a b : Nat) : State × Nat × List Byte :=
  let w := if wide then 8 else 4
  match s.readOwn d p w with
  | (s, 0, bs) =>
    let old := leNat bs
    let (s, st) := s.writeOwn d p (leBytes w (atomicNew op signed w old (a % 2 ^ (8 * w)) (b % 2 ^ (8 * w))))
    (s, st, if st = 0 then bs else [])
  | (s, st, _) => (s, st, [])

/-- One element of a float reduction (R221, R261). Both operands are decoded in their own format: an Inf is that format's largest finite
value (R137). -/
def reduceElem (op : Nat) (old new : List Byte) : List Byte :=
  let wide := op == 0x0A || op == 0x0E
  let term (b : List Byte) : F32 := (term32 (decodeF (if wide then Fmt.fp32.spec else Fmt.bf16.spec) (leNat b) 127)).v
  let o := term old
  let n := term new
  if op = 0x0A then leBytes 4 (add32 o n).v.toNat
  else if op = 0x0E then leBytes 4 (max32 o n).v.toNat
  else if op = 0x0B then leBytes 2 ((addBf16 o n).v.toNat / 65536)
  else leBytes 2 ((max32 o n).v.toNat / 65536)

def reduceLine (op : Nat) (old new : List Byte) : List Byte :=
  let w := if op = 0x0A ∨ op = 0x0E then 4 else 2
  ((chunksOf w 64 old).zip (chunksOf w 64 new)).flatMap fun (o, n) => reduceElem op o n

/-- Rails of CB on an output group (R220): false when the group fails; the events are raised. -/
def State.rails (s : State) (d : DieId) (r : RailObs) : State × Bool := match r with
  | .agree => (s, true)
  | .once => (s.raise { code := 0x0201, unit := unitCode 0x04 d.val 2 0 }, true)
  | .twice => (s.raise { code := 0x0202, unit := unitCode 0x04 d.val 2 0 }, false)

/-- An AFX add of an arriving block into a stored one: the new block, or none when it fails with 0x02 (R221). -/
def afxMerge (wide : Bool) (old new : List Byte) : Option (List Byte) :=
  let eb := afxElemBytes wide
  let hdr (b : List Byte) (o n : Nat) : Nat := leNat ((b.drop o).take n)
  let els (b : List Byte) : List Int := (chunksOf eb 256 (b.drop 64)).map fun e => signedW eb (leNat e)
  let sums := (els old).zip (els new) |>.map fun (a, b) => a + b
  let count := hdr old 0x24 4 + hdr new 0x24 4
  if hdr old 0x20 2 ≠ hdr new 0x20 2 ∨ bit (hdr old 0x22 2) 1 ≠ bit (hdr new 0x22 2) 1 ∨ afxMaxTerms wide < count
      ∨ sums.any (fun v => decide (v < -(2 ^ (8 * eb - 1) : Int)) || decide ((2 ^ (8 * eb - 1) : Int) ≤ v)) then none
  else some (leBytes 32 (hdr old 0 32 ||| hdr new 0 32) ++ leBytes 2 (hdr old 0x20 2)
    ++ leBytes 2 ((hdr old 0x22 2 ||| hdr new 0x22 2) % 4) ++ leBytes 4 count ++ List.replicate 24 0
    ++ sums.flatMap fun v => leBytes eb (v % (2 ^ (8 * eb) : Int)).toNat)

/-- Ends an applied request: recorded in the reply cache and answered (step 13 of R276). -/
def State.endInbound (s : State) (d : DieId) (e : Inbound) (status : Nat) (data : List Byte) : State :=
  let k := match e.group with
    | some _ => .group (bits (gaddr e.req.target).off 43 32)
    | none => requestKey d e.req
  let s := s.updDie d fun x => { x with inbound := x.inbound.filter (·.id ≠ e.id) }
  let s := s.updDie d (·.recordResult e.req k status (if isAtomic e.req.op then data else []))
  s.answer d e.req e.group status false false e.hot data

/-- A whole operation that one line holds: atomic, signal, AFX block. -/
def State.applyWhole (s : State) (d : DieId) (e : Inbound) (rails : RailObs) : State :=
  let r := e.req
  if isAtomic r.op then
    let w := if r.wide then 8 else 4
    let (s, st, data) := s.atomicAt d e.place r.op r.wide r.signed (leNat (r.payload.take w)) (leNat (r.payload.drop w))
    s.endInbound d e st data
  else if isSignal r.op then
    let o := (e.place.off - sramSize) / 4
    let (s, st) := s.signalAt d o (r.op == 0x09) (leNat r.payload) r.release
    s.endInbound d e st []
  else
    match s.readOwn d e.place r.size with
    | (s, 0, old) =>
      let (s, ok) := s.rails d rails
      if !ok then s.endInbound d e 0x31 []
      else (match afxMerge (r.op == 0x0D) old r.payload with
        | none => s.endInbound d e 0x02 []
        | some new =>
          let (s, st) := s.writeOwn d e.place new
          s.endInbound d e st [])
    | (s, st, _) => s.endInbound d e st []

/-- One line of a load, store or float reduction (R259). -/
def State.applyLine (s : State) (d : DieId) (e : Inbound) (rails : RailObs) : State :=
  let r := e.req
  let (a, n) := lineOf e.place.off r.size e.line
  let p := { e.place with off := a }
  let part := (r.payload.drop (a - e.place.off)).take n
  let (s, st, data) : State × Nat × List Byte :=
    if r.op = 1 then
      if (gaddr r.target).space = 2 then (s, 0, leBytes 4 ((s.die d).obj ((e.place.off - sramSize) / 4)))
      else s.readOwn d p n
    else if r.op = 2 then
      let (s, st) := s.writeOwn d p part
      (s, st, [])
    else match s.readOwn d p n with
      | (s, 0, old) =>
        let (s, ok) := s.rails d rails
        if ok then
          let (s, st) := s.writeOwn d p (reduceLine r.op old part)
          (s, st, [])
        else (s, 0x31, [])
      | (s, st, _) => (s, st, [])
  let e := { e with line := e.line + 1, status := firstStatus e.status st, data := e.data ++ data }
  let last := lineCount e.place.off r.size ≤ e.line ∨ (gaddr r.target).space = 2
  let stop := st ≠ 0 ∧ r.op ≠ 2
  if last ∨ stop then s.endInbound d e e.status (if e.status = 0 then e.data else [])
  else s.updDie d fun x => { x with inbound := x.inbound.map fun y => if y.id = e.id then e else y }

/-- Lines that a waiting request still has to apply, first and last, as numbers of its place's lines. -/
def Inbound.span (e : Inbound) : Nat × Nat :=
  let n := max (touched e.req.op e.req.size) 1
  (e.place.line + e.line, e.place.line + (e.place.off % 64 + n - 1) / 64)

/-- The lines that its next application touches: all of an operation that applies whole, one of another. -/
def Inbound.nextSpan (e : Inbound) : Nat × Nat :=
  if isAtomic e.req.op || isSignal e.req.op || isAfx e.req.op then e.span else (e.span.1, e.span.1)

/-- Whether an earlier arrival that is not held still has to apply on a line that this one applies next: operations on one line apply in
arrival order (R275). -/
def Die.lineBusy (x : Die) (e : Inbound) : Bool :=
  (x.inbound.takeWhile fun y => decide (y.id ≠ e.id)).any fun y =>
    !y.held && y.place.die == e.place.die && decide (y.span.1 ≤ e.nextSpan.2) && decide (e.nextSpan.1 ≤ y.span.2)

/-- One application of a waiting request: its next line, or all of it. -/
def State.applyNext (s : State) (d : DieId) (e : Inbound) (rails : RailObs) : State :=
  if isAtomic e.req.op || isSignal e.req.op || isAfx e.req.op then s.applyWhole d e rails else s.applyLine d e rails

/-- LANE_APPLY (R275): the lane's oldest request that is not held applies its next line. Nothing applies while the module is frozen: a
reply would be a packet stamped after the freeze (R62, R63, log 138). -/
def execLaneApply (d : DieId) (lane : Fin 32) (rails : RailObs) (s : State) : Result :=
  if (s.die d).presence ≠ .inService ∨ s.frozenDie d then .next s else
  match (s.die d).inbound.find? fun e => e.lane == lane.val && !e.held with
  | none => .next s
  | some e => if (s.die d).lineBusy e then .next s else .next (s.applyNext d e rails)

/-- CLASP_APPLY (R269): a held clasp may apply once every earlier sequence of its key has applied. -/
def execClaspApply (d : DieId) (id : Nat) (s : State) : Result :=
  match (s.die d).inbound.find? (·.id == id) with
  | none => .next s
  | some e =>
    if e.held && !(s.die d).earlier e.req (requestKey d e.req) then
      .next (s.updDie d fun x => { x with inbound := x.inbound.map fun y => if y.id = id then { y with held := false } else y })
    else .next s

/-- Applies everything that waits at a die, in arrival order; a clasp as soon as nothing holds it. Fuel bounds the applications. -/
def State.drainLanes : Nat → State → DieId → State
  | 0, s, _ => s
  | fuel + 1, s, d =>
    match (s.die d).inbound.find? fun e => !(e.held && (s.die d).earlier e.req (requestKey d e.req)) with
    | none => s
    | some e => State.drainLanes fuel (s.applyNext d { e with held := false } .agree) d

/-- Applications that the waiting requests of a die need. -/
def Die.laneWork (x : Die) : Nat := sumNat (x.inbound.map fun e => e.req.size / 64 + 2)

/-- RECORD_RECLAIM (R279): no bit above F and idle for twice the lifetime, or idle for the reclaim time, which raises the
horizon to the record's last activity. The clock does not run while the die is frozen. -/
def execRecordReclaim (d : DieId) (i : Nat) (s : State) : Result :=
  match (s.die d).recs[i]? with
  | none => .next s
  | some y =>
    let idle := ((s.die d).ft : Int) - y.last
    let drop (x : Die) : Die :=
      { x with recs := x.recs.eraseIdx i,
               results := x.results.filter fun z =>
                 !(z.node == y.node && z.die == y.die && z.stream == y.stream && z.key == y.key) }
    if s.frozenDie d then .next s
    else if !(y.applied.any (y.floor < ·)) ∧ 2000000 ≤ idle then .next (s.updDie d drop)
    else if (s.setting 0x4200 0x0B * 1000000000 : Nat) ≤ idle then
      .next (s.updDie d fun x => { drop x with horizon := max x.horizon y.last })
    else .next s

/-! ## Replies at the source -/

/-- A reply in the hand of its source (R272, R274, R281): NK starts the backoff, or gives the operation up at its last
attempt; any other reply completes it. A reply to no outstanding operation is discarded. -/
def State.handleReply (s : State) (d : SrcDie) (r : Reply) : State :=
  match (s.source d).ops.find? fun o => o.stream == r.stream && o.key == r.key && o.seq == some r.seq with
  | none => s
  | some o =>
    let s := if r.hot then s.updKey d o.stream o.key fun k => { k with hotUntil := s.mono + o.hotHold } else s
    if r.nk then
      let s := if h : d.val < 20 then s.countRemote ⟨d.val, h⟩ 2 else s
      if o.limit ≤ o.attempt + 1 then s.giveUp d o
      else s.updOp d o.id fun o => { o with backoff := some (s.mono + o.nkWait) }
    else s.completeOp d o r.status r.payload

/-- A reply that reaches the module for a source: a forwarded copy's joins its combination (R267). -/
def State.takeReply (s : State) (d : SrcDie) (r : Reply) : State :=
  match s.combineFor r with
  | some c => s.combineReply (entryDie d) c.id r.status r.nk r.hot
  | none => s.handleReply d r

/-! ## Targets on the issuing die (R255, R237) -/

/-- The place of an address on the issuing die, or the status of one outside its space; none when the target lies elsewhere.
A window granule on the die is served directly (R236); the extent lies in one granule. -/
def State.ownPlace (s : State) (d : DieId) (addr n : Nat) : Option (Except Nat Place) :=
  let g := gaddr addr
  if g.node ≠ s.node then none else
  match g.place with
  | .ok (.die e sram off) =>
    if e ≠ d then none
    else if (if sram then decide (sramSize < off + n)
             else decide (s.reservedBase d < off + n) || decide ((s.die d).channels = 0)) then some (.error 0x10)
    else some (.ok ⟨d, sram, off⟩)
  | .ok (.window x) => (match (s.die d).quire with
    | some k => if s.windowSize k < x + n then none else (match s.spreadPlace k x with
      | some (e, off) => if e = d then some (.ok ⟨d, false, off⟩) else none
      | none => none)
    | none => none)
  | _ => none

end Sys2Proof.Machine
end

