-- ==== Sys2Proof/Machine/Gather.lean ====
section
/-! DEFINITION. The gather engine: GATHER through a page table or from a flat source, ROUTE COUNT, DISPATCH, SET SIZE and
COMBINE over an expert table (R207 to R214). -/

namespace Sys2Proof.Machine

/-! ## Pieces of an extent -/

/-- Splits an extent at the 4 KiB boundaries of its address (R258); fuel bounds the number of pieces. -/
def pieces4k : Nat → Nat → Nat → List (Nat × Nat)
  | 0, _, _ => []
  | fuel + 1, a, n =>
    if n = 0 then [] else
    let m := min n (4096 - a % 4096)
    (a, m) :: pieces4k fuel (a + m) (n - m)

def split4k (a n : Nat) : List (Nat × Nat) := pieces4k (n / 4096 + 2) a n

/-- Global address of a local DRAM offset of a die of this module: die form, or window form (R237). -/
def State.globalOf (s : State) (d : DieId) (off : Nat) : Option Nat :=
  if windowBase ≤ off then some (s.node * 2 ^ 48 + 0x80000000000 + (off - windowBase))
  else if off < 0x2000000000 then some (s.node * 2 ^ 48 + d.val * 0x2000000000 + off)
  else none

/-- A signed element of an INT32 tensor. -/
def int32Of (w : Nat) : Int := signedOf 32 w

/-! ## Progress of a gather engine's descriptor -/

/-- What a gather engine's descriptor has done: its work, its remote operations, its first faulting lane. -/
structure GAcc where
  k : Work
  ops : List Nat
  fault : Option (Nat × Nat)

/-- Notes a fault of the lane in hand, behind every operation issued before it (R208). -/
def GAcc.fail (a : GAcc) (st : Nat) : GAcc := match a.fault with
  | some _ => a
  | none => { a with fault := some (a.k.s.nextOp, st) }

def GAcc.noted (a : GAcc) (st : Nat) : GAcc := if st = 0 then a else a.fail st

/-- Issues one operation of the descriptor. -/
def GAcc.issue (a : GAcc) (d : DieId) (i : Issue) : GAcc := match a.k.s.issue (srcOf d) (a.k.s.dieTag d) i with
  | (s, .inl st) => { a with k := { a.k with s := s } }.noted st
  | (s, .inr id) => { a with k := { a.k with s := s }, ops := a.ops ++ [id] }

/-- Ends a descriptor whose lanes met a fault: event 0x0203 for a GATHER's, and R81. -/
def State.gatherFault (s : State) (q : QueueId) (p : Pos) (op st : Nat) : State :=
  let s := if op = 0x60 ∧ st ≠ 0x12 then s.raise { code := 0x0203, unit := unitCode 0x04 q.die.val 3 0 } else s
  s.failAt q st p

/-- Reads the tensors of a set, once its place is sound; status of R190 and whether any holds a reserved value. -/
def State.readSet (s : State) (d : DieId) (w n : Nat) : State × Nat × List (Tensor × Bool) :=
  let st := s.placeStatus d (fSram w) (fOff w) (64 * n) 64
  if st = 0 then s.readTensors d (fSram w) (fOff w) n else (s, st, [])

/-- R190 over a set of which some are written, place before alignment before values (R526). -/
def State.setStatus (s : State) (d : DieId) (ts : List (Tensor × Bool)) : Nat :=
  if ts.any fun t => s.tensorOut d t.1 then 0x10
  else if ts.any (·.1.misaligned) then 0x11
  else if ts.any fun t => t.1.badValue t.2 then 0x02 else 0

/-- The codes of every element of a tensor in logical order. -/
def State.allCodes (s : State) (d : DieId) (t : Tensor) : State × Nat × List Nat :=
  (List.range t.rowCount).foldl (fun ((s : State), (st : Nat), (xs : List Nat)) n =>
    let (s, r, ws) := s.rowCodes d t (t.rowCoords n)
    (s, firstStatus st r, xs ++ ws)) (s, 0, [])

/-! ## GATHER (R207 to R209) -/

def gaCount (d : List Nat) : Nat := bits (qw d 6) 63 41
def gaFlat (d : List Nat) : Bool := bits (qw d 6) 23 22 == 1
def gaRpp (d : List Nat) : Nat := bits (qw d 6) 40 24
def gaMask (d : List Nat) : Bool := bit (qw d 6) 21
def gaFill (d : List Nat) : Bool := bit (qw d 6) 20
def gaStride (d : List Nat) : Nat := bits (qw d 7) 16 0

/-- Where a lane's row lies: a status, or the die and local place (R208). -/
def State.lanePlace (s : State) (die : DieId) (d : List Nat) (p : Int) : State × (Nat ⊕ (DieId × Bool × Nat)) :=
  if gaFlat d then
    if p < 0 ∨ (gaCount d : Int) ≤ p then (s, .inl 0x10)
    else (s, .inr (die, fSram (qw d 4), fOff (qw d 4) + p.toNat * gaStride d))
  else
    let e := p.toNat / gaRpp d
    if p < 0 ∨ 4194304 ≤ p ∨ gaCount d ≤ e then (s, .inl 0x10)
    else match s.readLocal die (fSram (qw d 4)) (fOff (qw d 4) + 8 * e) 8 with
      | (s, 0, b) =>
        let w := leNat b
        if h : bits w 52 48 < 20 then
          if !bit w 63 || bits w 47 44 != 0 then (s, .inl 0x10)
          else (s, .inr (⟨bits w 52 48, h⟩, false, bits w 43 16 * 65536 + p.toNat % gaRpp d * gaStride d))
        else (s, .inl 0x10)
      | (s, st, _) => (s, .inl st)

/-- Bytes between the units of a row. -/
def Tensor.unitStep (t : Tensor) : Nat :=
  if t.format.packed then t.format.groupBytes else t.stride0 * t.format.groupBytes

/-- Bits of a row that are elements. -/
def Tensor.keepBits (t : Tensor) : Nat := t.size 0 * t.format.bitsOf

/-- Bytes of a row as it is copied (R209). -/
def Tensor.copyBytes (t : Tensor) : Nat := ceilDiv (t.size 0) t.format.groupElems * t.format.groupBytes

/-- Puts the bytes of a row in destination row n. -/
def GAcc.putRow (a : GAcc) (die : DieId) (t : Tensor) (n : Nat) (bs : List Byte) : GAcc :=
  let base := t.rowAddr (t.rowCoords n)
  let (s, st) := a.k.s.putRow die t.sram base t.format.groupBytes t.unitStep 0 t.keepBits bs
  GAcc.noted { a with k := { s := s, st := a.k.st, wrote := a.k.wrote ++ [⟨t.sram, base, a.k.s.peek die t.sram base t.rowBytes⟩] } } st

/-- One lane: a masked-off row is kept or zeroed; a local row is copied; a row of another die is loaded, and the load ends with the status
that its die gives (R208, R209). -/
def GAcc.lane (q : QueueId) (d : List Nat) (p : Pos) (dst : Tensor) (a : GAcc) (x : Nat × Bool × Int) : GAcc :=
  let (n, on, pos) := x
  let rb := dst.copyBytes
  if a.fault.isSome then a
  else if !on then (if gaFill d then a.putRow q.die dst n (List.replicate rb 0) else a)
  else match a.k.s.lanePlace q.die d pos with
    | (s, .inl st) => { a with k := { a.k with s := s } }.fail st
    | (s, .inr (die, sram, off)) =>
      if die = q.die then
        match s.readLocal die sram off rb with
        | (s, 0, b) => { a with k := { a.k with s := s } }.putRow q.die dst n b
        | (s, st, _) => { a with k := { a.k with s := s } }.fail st
      else
        let a0 := off / 4 * 4
        let a1 := (off + rb + 3) / 4 * 4
        (split4k a0 (a1 - a0)).foldl (fun a (b, m) => match s.globalOf die b with
          | none => a.fail 0x10
          | some g =>
            let lo := max b off
            a.issue q.die
              { owner := .descriptor q p,
                sink := .row dst.sram (dst.rowAddr (dst.rowCoords n)) dst.format.groupBytes dst.unitStep (lo - off) (lo - b)
                  (min (b + m) (off + rb) - lo) dst.keepBits,
                stream := 0x48 + q.ctx.val, target := g, op := 0x01, size := m })
          { a with k := { a.k with s := s } }

/-- Checks of a GATHER whose tensors have been read (R209), in the order of R526. -/
def State.gatherStatus (s : State) (die : DieId) (d : List Nat) (ts : List (Tensor × Bool)) : Nat :=
  let idx := (ts.getD 0 (parseTensor [])).1
  let dst := (ts.getD 1 (parseTensor [])).1
  let rb := dst.copyBytes
  let st := s.setStatus die (ts.zipIdx.map fun (t, i) => (t.1, i == 1))
  if ts.any (·.2) then 0x01
  else if gaFlat d && !s.localOk die (fSram (qw d 4)) (fOff (qw d 4)) ((gaCount d - 1) * gaStride d + rb) then 0x10
  else if st ≠ 0 then st
  else if 4194304 < gaCount d ∨ gaStride d = 0 ∨ 65536 < gaStride d ∨ gaStride d < rb ∨ idx.format ≠ .int32
      ∨ (!gaFlat d && (decide (65536 < gaRpp d) || decide (65536 < gaRpp d * gaStride d)))
      ∨ (gaMask d && (ts.getD 2 (parseTensor [])).1.sizes != idx.sizes) then 0x02
  else if !idx.empty && idx.count != dst.rowCount then 0x02
  else 0

/-- The lanes of a GATHER in order: number, whether its mask element is nonzero, position (R207, R208). -/
def gatherPlan (idx : List Nat) (mask : List Ex) : List (Nat × Bool × Int) :=
  let act := mask.map fun x => match x with
    | .num v _ => v.sig != 0
    | .nan => false
  idx.zipIdx.map fun (w, i) => (i, act.getD i true, int32Of w)

/-- Runs lanes of a GATHER, after what it has written so far. -/
def State.gatherLanes (s : State) (q : QueueId) (d : List Nat) (p : Pos) (dst : Tensor) (wrote : List Wrote)
    (lanes : List (Nat × Bool × Int)) : GAcc :=
  lanes.foldl (GAcc.lane q d p dst) { k := { s := s, st := 0, wrote := wrote }, ops := [], fault := none }

/-- Goes on with a GATHER for some of its rows, each a boundary, after the operations issued so far and the first fault met (R96, R208,
R210). -/
def State.gatherOn (s : State) (q : QueueId) (d : List Nat) (p : Pos) (dst : Tensor) (wrote : List Wrote)
    (lanes : List (Nat × Bool × Int)) (had : List Nat) (fault : Option (Nat × Nat)) (blocks : Option Nat) : State :=
  let lanes := if fault.isSome then [] else lanes
  let n := blocks.getD lanes.length
  let a := s.gatherLanes q d p dst wrote (lanes.take n)
  let ops := had ++ a.ops
  match fault.or a.fault with
  | some (id, st) =>
    let s := (a.k.undoSome q.die).updStarted q p fun y => { y with ops := ops, job := none, fault := some (id, st) }
    if ops.isEmpty then s.gatherFault q p 0x60 st else s
  | none =>
    if lanes.drop n = [] then a.k.s.updStarted q p fun y => { y with ops := ops, job := none, done := ops.isEmpty }
    else
      let j : Job := { seed := 0, wrote := a.k.wrote, nan := false, sat := false, work := .gather dst (lanes.drop n) }
      a.k.s.updStarted q p fun y => { y with ops := ops, job := some j }

/-- GATHER (R209). -/
def execGather (r : BlockRun) (s : State) : Result :=
  let q := r.queue
  let blocks := r.blocks
  match s.inHand q with
  | some (y, j) => (match j.work with
    | .gather dst lanes => 
        .next (State.blockBoundary (s.gatherOn q y.qws y.pos dst j.wrote lanes y.ops y.fault (s.blocksNow q.die blocks)) q)
    | _ => .next s)
  | none => s.onFront q 0x60 fun s d =>
    let p := (s.queue q).next
    if 1 < fSpace (qw d 4) ∨ 1 < fSpace (qw d 5) ∨ 1 < bits (qw d 6) 23 22 then s.failAt q 0x01 p
    else if gaCount d = 0 ∨ (!gaFlat d && gaRpp d == 0) then s.start q d p.after (startedOf p d true)
    else
      let tp := if gaFlat d then 0 else s.placeStatus q.die (fSram (qw d 4)) (fOff (qw d 4)) (8 * gaCount d) 8
      let n := 2 + (if gaMask d then 1 else 0)
      let sp := s.placeStatus q.die (fSram (qw d 5)) (fOff (qw d 5)) (64 * n) 64
      let pst := if tp = 0x10 ∨ sp = 0x10 then 0x10 else if tp = 0x11 ∨ sp = 0x11 then 0x11 else 0
      let (s, st, ts) := if pst = 0 then s.readSet q.die (qw d 5) n else (s, pst, [])
      let st := if st = 0 then s.gatherStatus q.die d ts else st
      if st ≠ 0 then s.failAt q st p
      else
        let idx := (ts.getD 0 (parseTensor [])).1
        let dst := (ts.getD 1 (parseTensor [])).1
        if idx.empty || dst.empty then s.start q d p.after (startedOf p d true)
        else
          let (s, s1, is) := s.allCodes q.die idx
          let (s, s2, ms) := if gaMask d then s.allValues q.die (ts.getD 2 (parseTensor [])).1 else (s, 0, [])
          if s1 ≠ 0 ∨ s2 ≠ 0 then s.failAt q (firstStatus s1 s2) p
          else
            (s.start q d p.after (startedOf p d false)).gatherOn q d p dst [] (gatherPlan is ms.flatten) [] none blocks

/-! ## Expert tables (R211) -/

structure Expert where
  dest : Nat
  source : Nat
  first : Nat
  capacity : Nat
  stride : Nat
  deriving DecidableEq, Repr

def parseExpert (b : List Byte) : Expert :=
  let f (o n : Nat) : Nat := leNat ((b.drop o).take n)
  { dest := f 0 8, source := f 8 8, first := f 0x10 4, capacity := f 0x14 4, stride := f 0x18 4 }

def exCount (d : List Nat) : Nat := bits (qw d 6) 63 48
def exK (d : List Nat) : Nat := bits (qw d 6) 47 44
def exMode (d : List Nat) : Nat := bits (qw d 6) 43 42
def exPanel (d : List Nat) : Nat := bits (qw d 6) 41 38
def exWide (d : List Nat) : Bool := bit (qw d 6) 37

/-- Reserved values of the shared body (R214). -/
def exReserved (d : List Nat) (combine : Bool) : Bool :=
  decide (1 < fSpace (qw d 4)) || decide (1 < fSpace (qw d 5)) || decide (8 < exK d)
    || (combine && (exMode d == 3 || (exMode d == 0 && decide (8 < exPanel d))))

/-- Reads the expert table, which all three opcodes use (R211), and the tensor set after their place checks. -/
def State.readExperts (s : State) (die : DieId) (d : List Nat) (n : Nat) :
    State × Nat × List Expert × List (Tensor × Bool) :=
  let tp := s.placeStatus die (fSram (qw d 4)) (fOff (qw d 4)) (32 * exCount d) 32
  let sp := s.placeStatus die (fSram (qw d 5)) (fOff (qw d 5)) (64 * n) 64
  if tp = 0x10 ∨ sp = 0x10 then (s, 0x10, [], [])
  else if tp = 0x11 ∨ sp = 0x11 then (s, 0x11, [], [])
  else
    let (s, s1, b) := s.readLocal die (fSram (qw d 4)) (fOff (qw d 4)) (32 * exCount d)
    let (s, s2, ts) := s.readTensors die (fSram (qw d 5)) (fOff (qw d 5)) n
    (s, firstStatus s1 s2, (chunksOf 32 (exCount d + 1) b).map parseExpert, ts)

/-- A global address in a reserved space (R13, R257). -/
def reservedSpace (a : Nat) : Bool := decide (3 < (gaddr a).space)

/-- Tensor i of a set. -/
def tensorOf (ts : List (Tensor × Bool)) (i : Nat) : Tensor := (ts.getD i (parseTensor [])).1

/-- Checks common to ROUTE COUNT, DISPATCH and COMBINE: reserved values, R190, then the formats and sizes of R211 to R214. -/
def State.expertStatus (s : State) (die : DieId) (d : List Nat) (ts : List (Tensor × Bool)) (written : List Bool)
    (rules : Bool) : Nat :=
  let routing := tensorOf ts 0
  let st := s.setStatus die (ts.zipIdx.map fun (t, i) => (t.1, written.getD i false))
  if ts.any (·.2) then 0x01 else if st ≠ 0 then st
  else if routing.format ≠ .int32 ∨ (!routing.empty && routing.size 0 != exK d) ∨ !rules then 0x02 else 0

/-- The routes of a shard in order: token, j, expert (R212). Status 0x10 for an expert number out of range (R211). -/
def routesOf (count k : Nat) (ws : List Nat) : Nat × List (Nat × Nat × Option Nat) :=
  let rs := ws.zipIdx.map fun (w, i) => (i / k, i % k, int32Of w)
  (if rs.any (fun (_, _, e) => decide (e < -1) || decide ((count : Int) ≤ e)) then 0x10 else 0,
   rs.map fun (t, j, e) => (t, j, if 0 ≤ e then some e.toNat else none))

/-- The number of routes of each expert (R212). -/
def routeCounts (count : Nat) (rs : List (Nat × Nat × Option Nat)) : List Nat :=
  (List.range count).map fun e => (rs.filter fun r => r.2.2 == some e).length

/-- Writes codes over the rows of a tensor in logical order, after what a piece of work has written. -/
def Work.writeList (k : Work) (die : DieId) (t : Tensor) (ws : List Nat) : Work :=
  (chunksOf (t.size 0) (ws.length + 1) ws).zipIdx.foldl (fun (k : Work) (r, i) => k.writeRow die t (t.rowCoords i) (r.map some)) k

def State.writeList (s : State) (die : DieId) (t : Tensor) (ws : List Nat) : Work :=
  Work.writeList { s := s, st := 0, wrote := [] } die t ws

/-- ROUTE COUNT (R212): the routes of each expert, in the count list. -/
def execRouteCount (q : QueueId) (s : State) : Result :=
  s.onFront q 0x61 fun s d =>
    let p := (s.queue q).next
    if exReserved d false then s.failAt q 0x01 p
    else if exCount d = 0 ∨ exK d = 0 then s.start q d p.after (startedOf p d true)
    else
      let (s, st, _, ts) := s.readExperts q.die d 2
      let list := tensorOf ts 1
      let st := if st = 0 then s.expertStatus q.die d ts [false, true]
        (list.format == .int32 && (list.empty || list.count == exCount d)) else st
      if st ≠ 0 then s.failAt q st p
      else if (tensorOf ts 0).empty || list.empty then s.start q d p.after (startedOf p d true)
      else
        let (s, s1, ws) := s.allCodes q.die (tensorOf ts 0)
        let (s2, rs) := routesOf (exCount d) (exK d) ws
        if s1 ≠ 0 ∨ s2 ≠ 0 then s.failAt q (firstStatus s1 s2) p
        else
          let k := s.writeList q.die list (routeCounts (exCount d) rs)
          if k.st ≠ 0 then (k.undoSome q.die).failAt q k.st p
          else k.s.start q d p.after (startedOf p d true)

/-- Stores bytes at a global address as a descriptor of the gather engine: on its own die at once, else in packets. -/
def GAcc.store (a : GAcc) (q : QueueId) (p : Pos) (target : Nat) (bs : List Byte) : GAcc :=
  (split4k target bs.length).foldl (fun a (b, m) =>
    let part := (bs.drop (b - target)).take m
    if a.fault.isSome then a
    else match a.k.s.ownPlace q.die b m with
      | some (.error st) => a.fail st
      | some (.ok w) =>
        let (s, st) := a.k.s.writeOwn q.die w part
        GAcc.noted { a with k := { a.k with s := s } } st
      | none => a.issue q.die { owner := .descriptor q p, stream := 0x48 + q.ctx.val, target := b, op := 0x02, payload := part,
                                size := m }) a

/-- The slot of every route, and whether it was dropped (R212): an expert's routes take its slots in order from the first on, and
one beyond its capacity is dropped. `used` counts the routes of each expert so far. -/
def slotsOf (es : List Expert) : SMap Nat → List (Nat × Nat × Option Nat) → List (Option Nat × Bool)
  | _, [] => []
  | used, (_, _, none) :: rs => (none, false) :: slotsOf es used rs
  | used, (_, _, some e) :: rs =>
    let x := es.getD e (parseExpert [])
    let n := SMap.get 0 used e
    (if x.capacity ≤ x.first + n then (none, true) else (some (x.first + n), false))
      :: slotsOf es (SMap.set 0 used e (n + 1)) rs

/-- Code of a slot in the slot map: −1 for a route without one. -/
def slotCode (x : Option Nat × Bool) : Nat := match x.1 with
  | some n => n % 2 ^ 32
  | none => 0xFFFFFFFF

/-- Stores the row of every route that has a slot at its expert. -/
def State.dispatchRows (s : State) (q : QueueId) (p : Pos) (es : List Expert) (rows : Tensor)
    (rs : List ((Nat × Nat × Option Nat) × Option Nat × Bool)) : GAcc :=
  rs.foldl (fun (a : GAcc) ((t, _, e), slot, _) => match e, slot with
    | some e, some n =>
      if a.fault.isSome then a
      else
        let x := es.getD e (parseExpert [])
        let (s, st, ws) := a.k.s.rowCodes q.die rows (rows.rowCoords t)
        let a := { a with k := { a.k with s := s } }.noted st
        if st = 0 then a.store q p (x.dest + n * x.stride) (packRow rows.format ws) else a
    | _, _ => a) { k := { s := s, st := 0, wrote := [] }, ops := [], fault := none }

/-- DISPATCH (R212): each route's row to its slot, the slot map, and event 0x0204 when routes were dropped. -/
def execDispatch (q : QueueId) (s : State) : Result :=
  s.onFront q 0x62 fun s d =>
    let p := (s.queue q).next
    if exReserved d false then s.failAt q 0x01 p
    else if exCount d = 0 ∨ exK d = 0 then s.start q d p.after (startedOf p d true)
    else
      let (s, st, es, ts) := s.readExperts q.die d 3
      let routing := tensorOf ts 0
      let rows := tensorOf ts 1
      let map := tensorOf ts 2
      let st := if st = 0 ∧ es.any (fun e => reservedSpace e.dest) then 0x01 else st
      let st := if st = 0 then s.expertStatus q.die d ts [false, false, true]
        (map.format == .int32 && map.sizes == routing.sizes && rows.rowCount == routing.rowCount
          && es.all (fun e => decide (1 ≤ e.stride) && decide (e.stride ≤ 65536) && decide (rows.copyBytes ≤ e.stride))) else st
      let spaces := es.all fun e => (gaddr e.dest).space == 0 || (gaddr e.dest).space == 3
      let st := if st = 0 ∧ !spaces then 0x14 else st
      if st ≠ 0 then s.failAt q st p
      else if routing.empty || rows.empty then s.start q d p.after (startedOf p d true)
      else
        let (s, s1, ws) := s.allCodes q.die routing
        let (s2, rs) := routesOf (exCount d) (exK d) ws
        if s1 ≠ 0 ∨ s2 ≠ 0 then s.failAt q (firstStatus s1 s2) p
        else
          let s := s.start q d p.after (startedOf p d false)
          let slots := slotsOf es [] rs
          let a := s.dispatchRows q p es rows (rs.zip slots)
          let k := a.k.writeList q.die map (slots.map slotCode)
          let s := if slots.any (·.2) then k.s.raise { code := 0x0204, unit := unitCode 0x04 q.die.val 3 0 } else k.s
          let st := match a.fault with
            | some (_, st) => st
            | none => k.st
          if st ≠ 0 then (Work.undoSome { k with s := s } q.die).failAt q st p
          else s.updStarted q p fun e => { e with ops := a.ops, done := true }

/-- SET SIZE (R213): a sum of counts becomes one size of a tensor descriptor. -/
def execSetSize (q : QueueId) (s : State) : Result :=
  s.onFront q 0x63 fun s d =>
    let p := (s.queue q).next
    let n := bits (qw d 6) 63 48
    let dim := bits (qw d 6) 47 45
    let s1 := s.placeStatus q.die (fSram (qw d 4)) (fOff (qw d 4)) (4 * n) 4
    let s2 := s.placeStatus q.die (fSram (qw d 5)) (fOff (qw d 5)) 64 64
    if 1 < fSpace (qw d 4) ∨ 1 < fSpace (qw d 5) ∨ 4 < dim then s.failAt q 0x01 p
    else if n = 0 then s.start q d p.after (startedOf p d true)
    else if s1 = 0x10 ∨ s2 = 0x10 then s.failAt q 0x10 p
    else if s1 = 0x11 ∨ s2 = 0x11 then s.failAt q 0x11 p
    else match s.readLocal q.die (fSram (qw d 4)) (fOff (qw d 4)) (4 * n) with
      | (s, 0, b) =>
        let vs := (chunksOf 4 (n + 1) b).map fun c => int32Of (leNat c)
        let sum : Int := vs.foldl (· + ·) 0
        if vs.any (· < 0) ∨ 16777215 < sum then s.failAt q 0x02 p
        else match s.writeLocal q.die (fSram (qw d 5)) (fOff (qw d 5) + 0x10 + 3 * dim) (leBytes 3 sum.toNat) with
          | (s, 0) => s.start q d p.after (startedOf p d true)
          | (s, st) => s.failAt q st p
      | (s, st, _) => s.failAt q st p

/-! ## COMBINE (R214) -/

/-- The terms of a token's output row: each slot's gate and decoded row, j ascending. -/
def combineTerms (gates : List F32) (ys : List (List Ex)) (i : Nat) : List Rs :=
  (gates.zip ys).map fun (g, y) => mul32 g (term32 (y.getD i (.num Dy.zero false))).v

/-- One output row from its terms in the descriptor's mode; canonical rows combine in blocks of 256 elements. -/
def combineOut (n : Nat) (d : List Nat) (size : Nat) (gates : List F32) (ys : List (List Ex)) : List F32 :=
  if exMode d = 0 then
    (List.range (ceilDiv size 256)).flatMap fun b =>
      let is := (List.range (min 256 (size - 256 * b))).map fun i => 256 * b + i
      let ts := is.map fun i => (combineTerms gates ys i).map (·.v)
      let a := anchorOf ts.flatten
      ts.map fun t => if t = [] then 0 else (canonCombine t a (exWide d)).v
  else
    (List.range size).map fun i =>
      let t := (combineTerms gates ys i).map (·.v)
      if t = [] then 0 else if exMode d = 1 then (foldAdd32 add32 t).v else (relaxed32 (n + i) false t).v

/-- Forms and writes every output row from the rows fetched: row t × k + j in pieces numbered from 18 × (t × k + j) on. -/
def State.finishCombine (s : State) (q : QueueId) (p : Pos) (e : Started) : State :=
  let d := e.qws
  let gates := e.tens.getD 2 (parseTensor []).1
  let out := e.tens.getD 3 (parseTensor []).1
  let k := exK d
  let (s, s2, gs) := s.allCodes q.die gates
  let n0 := s.free
  let s := if exMode d = 2 then { s with free := s.free + out.count * 16 } else s
  let w : Work := { s := s, st := s2, wrote := [] }
  let ws := (List.range out.rowCount).flatMap fun t =>
    let js := (List.range k).filter fun j => e.got.any fun g => g.1 / 18 = t * k + j
    let ys := js.map fun j =>
      let bs := (List.range 18).flatMap fun i => ((e.got.find? (·.1 == 18 * (t * k + j) + i)).map (·.2)).getD []
      let f := out.format
      (List.range (out.size 0)).map fun i =>
        f.decode (unpack f ((bs.drop (i / f.groupElems * f.groupBytes)).take f.groupBytes) (i % f.groupElems)) 127
    let row := combineOut (n0 + 16 * out.size 0 * t) d (out.size 0) (js.map fun j => BitVec.ofNat 32 (gs.getD (t * k + j) 0)) ys
    let (ws, ks, _) := encodeRow out ⟨false, 0, 0⟩ (out.rowCoords t) (row.map dec32)
    out.planRow (out.rowCoords t) ws ++
      (if out.format.isMx then [(out.scaleSram, out.scaleAddr (out.rowCoords t), ks.flatMap (leBytes 1))] else [])
  let w := if w.st ≠ 0 then w else w.writeGroups q.die (groupsOf ws) e.rails
  if w.st ≠ 0 then w.s.failAt q w.st p
  else w.s.updStarted q p fun e => { e with done := true, got := [] }

/-- After a reply: a gather engine's descriptor whose operations have all ended goes on, or fails with its first fault (R208, R214). -/
def State.gatherProgress (s : State) (q : QueueId) (p : Pos) : State :=
  match (s.queue q).started.find? (·.pos == p) with
  | none => s
  | some e =>
    if e.done || !e.ops.isEmpty then s
    else match e.fault with
      | some (_, st) => State.gatherFault (s.updStarted q p fun e => { e with job := none }) q p (dOp e.qws) st
      | none => if dOp e.qws = 0x64 then s.finishCombine q p e
        else if dOp e.qws = 0x60 ∧ e.job.isNone then s.updStarted q p fun e => { e with done := true } else s

/-- Fetches one expert output row in pieces up to a 4 KiB boundary, numbered from a number on; a row of another die is
loaded in whole words (R211, R256). -/
def GAcc.fetch (a : GAcc) (q : QueueId) (p : Pos) (target len num : Nat) : GAcc × List (Nat × List Byte) :=
  (split4k target len).zipIdx.foldl (fun ((a : GAcc), (got : List (Nat × List Byte))) ((b, m), i) =>
    match a.k.s.ownPlace q.die b m with
    | some (.error st) => (a.fail st, got)
    | some (.ok w) => (match a.k.s.readOwn q.die w m with
      | (s, 0, bs) => ({ a with k := { a.k with s := s } }, got ++ [(num + i, bs)])
      | (s, st, _) => (GAcc.fail { a with k := { a.k with s := s } } st, got))
    | none =>
      let b0 := b / 4 * 4
      (a.issue q.die { owner := .descriptor q p, sink := .buffer (num + i) (b - b0) m, stream := 0x48 + q.ctx.val,
                       target := b0, op := 0x01, size := (b + m + 3) / 4 * 4 - b0 }, got)) (a, [])

/-- COMBINE of the gather engine (R214): the expert rows of the slot map are fetched; the sums follow when all stand here. -/
def execGtCombine (q : QueueId) (rails : List RailObs) (s : State) : Result :=
  s.onFront q 0x64 fun s d =>
    let p := (s.queue q).next
    if exReserved d true then s.failAt q 0x01 p
    else if exCount d = 0 ∨ exK d = 0 then s.start q d p.after (startedOf p d true)
    else
      let (s, st, es, ts) := s.readExperts q.die d 4
      let routing := tensorOf ts 0
      let map := tensorOf ts 1
      let gates := tensorOf ts 2
      let out := tensorOf ts 3
      let canon := exMode d = 0
      let st := if st = 0 ∧ es.any (fun e => reservedSpace e.source) then 0x01 else st
      let st := if st = 0 then s.expertStatus q.die d ts [false, false, false, true]
        (map.format == .int32 && gates.format == .fp32 && map.sizes == routing.sizes && gates.sizes == routing.sizes
          && out.rowCount == routing.rowCount && out.format.isFloat
          && es.all (fun e => decide (1 ≤ e.stride) && decide (e.stride ≤ 65536) && decide (out.copyBytes ≤ e.stride))
          && !(decide canon && out.org 0 % 256 != 0)
          && (s.getCtx q.die q.ctx).settingsOk (exMode d) (some (exPanel d)) (some (exWide d))) else st
      let st := if st = 0 ∧ !(es.all fun e => (gaddr e.source).space == 0) then 0x14 else st
      if st ≠ 0 then s.failAt q st p
      else if routing.empty || out.empty then s.start q d p.after (startedOf p d true)
      else
        let (s, s1, ws) := s.allCodes q.die routing
        let (s, s2, slots) := s.allCodes q.die map
        let (s3, rs) := routesOf (exCount d) (exK d) ws
        let st := firstOf [s1, s2, s3]
        if st ≠ 0 then s.failAt q st p
        else
          let s := s.start q d p.after { startedOf p d false with tens := ts.map (·.1), rails := rails }
          let a : GAcc := { k := { s := s, st := 0, wrote := [] }, ops := [], fault := none }
          let (a, got) := (rs.zip slots).zipIdx.foldl
            (fun ((a : GAcc), (got : List (Nat × List Byte))) (((_, _, e), w), i) =>
              match e with
              | some e =>
                if int32Of w < 0 ∨ a.fault.isSome then (a, got)
                else
                  let x := es.getD e (parseExpert [])
                  let (a, g) := a.fetch q p (x.source + w * x.stride) out.copyBytes (18 * i)
                  (a, got ++ g)
              | none => (a, got)) (a, [])
          let s := a.k.s.updStarted q p fun e => { e with ops := a.ops, fault := a.fault, got := got }
          s.gatherProgress q p

end Sys2Proof.Machine
end

