-- ==== Sys2Proof/Machine/HashColophon.lean ====
section
/-! DEFINITION. The hash unit: leaf and root digests, and the colophon's open, seal and signature (R177 to R184). -/

namespace Sys2Proof.Machine

def leafSize : Nat := 4194304

/-- The digest of leaf i (R177). -/
def leafDigest (i : Nat) (bs : List Byte) : List Byte := sm3 (leBytes 8 i ++ bs)

/-- The object digest of n leaf digests (R177). -/
def rootDigest (n : Nat) (ds : List Byte) : List Byte := sm3 (leBytes 8 n ++ ds)

/-- First place status then first alignment status of several structures (R526). -/
def placesStatus (sts : List Nat) : Nat := if 0x10 ∈ sts then 0x10 else if 0x11 ∈ sts then 0x11 else 0

/-- The digests of an object's leaves, written in order; an uncorrectable word ends them (R177, R179). -/
def State.hashWork (s : State) (die : DieId) (d : List Nat) : Work :=
  let len := qw d 5
  (List.range (ceilDiv len leafSize)).foldl (fun (k : Work) i =>
    if k.st ≠ 0 then k
    else match k.s.readLocal die (fSram (qw d 4)) (fOff (qw d 4) + i * leafSize) (min leafSize (len - i * leafSize)) with
      | (s, 0, bs) =>
        Work.write { k with s := s } die (fSram (qw d 7)) (fOff (qw d 7) + 32 * i) (leafDigest (bits (qw d 6) 39 0 + i) bs)
      | (s, st, _) => { k with s := s, st := st }) { s := s, st := 0, wrote := [] }

/-- HASH LEAVES (R179). -/
def execHashLeaves (q : QueueId) (s : State) : Result :=
  s.onFront q 0x90 fun s d =>
    let p := (s.queue q).next
    let len := qw d 5
    let n := ceilDiv len leafSize
    let st := placesStatus [s.placeStatus q.die (fSram (qw d 4)) (fOff (qw d 4)) len 64,
                            s.placeStatus q.die (fSram (qw d 7)) (fOff (qw d 7)) (32 * n) 32]
    if 1 < fSpace (qw d 4) ∨ 1 < fSpace (qw d 7) then s.failAt q 0x01 p
    else if len = 0 then s.start q d p.after (startedOf p d true)
    else if st ≠ 0 then s.failAt q st p
    else
      let k := s.hashWork q.die d
      if k.st ≠ 0 then (k.undoSome q.die).failAt q k.st p
      else k.s.start q d p.after (startedOf p d true)

/-- Whether a slot of the open colophon can take a digest (R180). -/
def Ctx.slotFree (x : Ctx) (slot : Nat) : Bool := match x.colophon with
  | some c => (c.slots.toList.getD (slot - 1) none).isNone
  | none => false

/-- Puts a digest in a slot, 1 program, 2 weights, 3 inputs. -/
def Ctx.putDigest (x : Ctx) (slot : Nat) (v : List Byte) : Ctx :=
  { x with colophon := x.colophon.map fun c => { c with slots := c.slots.setIfInBounds (slot - 1) (some v) } }

/-- HASH ROOT (R180). -/
def execHashRoot (q : QueueId) (s : State) : Result :=
  s.onFront q 0x91 fun s d =>
    let p := (s.queue q).next
    let n := bits (qw d 5) 39 0
    let slot := bits (qw d 7) 63 60
    let st := placesStatus [if n = 0 then 0 else s.placeStatus q.die (fSram (qw d 4)) (fOff (qw d 4)) (32 * n) 32,
                            s.placeStatus q.die (fSram (qw d 6)) (fOff (qw d 6)) 32 32]
    if 1 < fSpace (qw d 4) ∨ 1 < fSpace (qw d 6) ∨ 3 < slot then s.failAt q 0x01 p
    else if st ≠ 0 then s.failAt q st p
    else if slot ≠ 0 ∧ !((s.getCtx q.die q.ctx).slotFree slot) then s.failAt q 0x02 p
    else match (if n = 0 then (s, 0, []) else s.readLocal q.die (fSram (qw d 4)) (fOff (qw d 4)) (32 * n)) with
      | (s, 0, ds) =>
        let v := rootDigest n ds
        (match s.writeLocal q.die (fSram (qw d 6)) (fOff (qw d 6)) v with
          | (s, 0) =>
            let s := if slot = 0 then s else s.updCtx q.die q.ctx (·.putDigest slot v)
            s.start q d p.after (startedOf p d true)
          | (s, st) => s.failAt q st p)
      | (s, st, _) => s.failAt q st p

/-- COLOPHON OPEN (R181): the seed is read now (R176). -/
def execColophonOpen (q : QueueId) (s : State) : Result :=
  s.onFront q 0x92 fun s d =>
    let p := (s.queue q).next
    let w := qw d 4
    let mode := bits w 55 54
    let canon := mode = 0
    let dflt := canon ∧ bit w 48
    let mask := bits w 2 0
    let st := if mask = 0 then 0 else s.placeStatus q.die (fSram (qw d 5)) (fOff (qw d 5)) 96 32
    if bits w 63 56 ≠ 1 ∨ mode = 3 ∨ (canon ∧ ¬ dflt ∧ 8 < bits w 53 50) ∨ (mask ≠ 0 ∧ 1 < fSpace (qw d 5)) then s.failAt q 0x01 p
    else if st ≠ 0 then s.failAt q st p
    else if (s.getCtx q.die q.ctx).colophon.isSome then s.failAt q 0x02 p
    else match (if mask = 0 then (s, 0, []) else s.readLocal q.die (fSram (qw d 5)) (fOff (qw d 5)) 96) with
      | (s, 0, ds) =>
        let slot (i : Nat) : Option (List Byte) := if bit mask i then some ((ds.drop (32 * i)).take 32) else none
        let c : Colophon :=
          { mode := mode, panel := if dflt then s.setting 0x2071 1 else bits w 53 50,
            wide := if dflt then s.setting 0x2071 2 == 1 else bit w 49, seed := s.seedOf q.die,
            slots := #v[slot 0, slot 1, slot 2], invalid := false }
        (s.updCtx q.die q.ctx fun x => { x with colophon := some c }).start q d p.after (startedOf p d true)
      | (s, st, _) => s.failAt q st p

/-- Whether the identity key can sign: a control die has unwrapped it and no test unlock is in force (R420, R506). -/
def State.identityKey (s : State) : Bool := s.sec.puf.any id && !s.sec.unlocked

/-- The 128 bytes of a colophon record that a signature covers (R183, R184). -/
def State.colophonBytes (s : State) (q : QueueId) (c : Colophon) (signed : Bool) : List Byte :=
  let canon := c.mode = 0
  leBytes 2 1 ++ leBytes 1 1 ++ leBytes 1 c.mode ++ leBytes 1 (if canon then c.panel else 0xFF) ++
  leBytes 1 (if canon then (if c.wide then 1 else 0) else 0xFF) ++ leBytes 2 0 ++ leBytes 8 c.seed ++
  c.slots.toList.flatMap (fun x => x.getD (List.replicate 32 0)) ++
  leBytes 8 s.now ++ leBytes 2 s.node ++ leBytes 1 q.die.val ++ leBytes 1 q.ctx.val ++ leBytes 1 (if signed then 1 else 0) ++
  leBytes 3 0

/-- Whether a seal finds a complete, valid, open colophon (R182). -/
def Ctx.sealable (x : Ctx) : Option Colophon := match x.colophon with
  | some c => if c.invalid || c.slots.any (·.isNone) then none else some c
  | none => none

/-- Writes a colophon record and closes the colophon: status (R182, R183). -/
def State.writeSeal (s : State) (q : QueueId) (d : List Nat) (c : Colophon) (sig : List Byte) : State × Nat :=
  match s.writeLocal q.die (fSram (qw d 4)) (fOff (qw d 4)) (s.colophonBytes q c (bit (qw d 5) 0) ++ sig) with
  | (s, 0) => (s.updCtx q.die q.ctx fun x => { x with colophon := none }, 0)
  | (s, st) => (s, st)

/-- A signed seal without the identity key: 0x03 and event 0x02C2 (R182). -/
def State.sealRefused (s : State) (q : QueueId) (p : Pos) : State :=
  (s.raise { code := 0x02C2, unit := uDie q.die, ctx := some q.ctx.val }).failAt q 0x03 p

/-- COLOPHON SEAL (R182): the colophon's state is checked first; unsigned it is written at once; signed, it waits for the security block. -/
def execColophonSeal (q : QueueId) (s : State) : Result :=
  s.onFront q 0x93 fun s d =>
    let p := (s.queue q).next
    let st := s.placeStatus q.die (fSram (qw d 4)) (fOff (qw d 4)) 192 64
    match (s.getCtx q.die q.ctx).sealable with
      | none => s.failAt q 0x02 p
      | some c =>
        if 1 < fSpace (qw d 4) then s.failAt q 0x01 p
        else if st ≠ 0 then s.failAt q st p
        else if bit (qw d 5) 0 then
          if !s.identityKey then s.sealRefused q p
          else
            let s := s.start q d p.after (startedOf p d false)
            { s with sec := { s.sec with jobs := s.sec.jobs ++ [.seal q p] } }
        else match s.writeSeal q d c (List.replicate 64 0) with
          | (s, 0) => s.start q d p.after (startedOf p d true)
          | (s, st) => s.failAt q st p

/-- The security block's signature r, s of a message: SM2 under the identity key with the serial number as identifier (R184, R422), for
a k that is open; another is drawn where the standard asks for it, four times at most (log 9). -/
def State.signature (s : State) (msg : List Byte) : Nat → List Byte × State
  | 0 => s.freshBytes 64
  | fuel + 1 =>
    let (k, s) := s.freshBytes 32
    match sm2Sign s.vendor.serial s.vendor.identityKey msg (Config.identityPrivate s.vendor.identityKey) (leNat k % sm2N) with
    | some b => (b, s)
    | none => State.signature s msg fuel

/-- Completes a signed seal (R182). -/
def State.signSeal (s : State) (q : QueueId) (p : Pos) : State :=
  match (s.queue q).started.find? (·.pos == p), (s.getCtx q.die q.ctx).sealable with
  | some e, some c =>
    if !s.identityKey then s.sealRefused q p
    else
      let (sig, s) := s.signature (s.colophonBytes q c true) 4
      (match s.writeSeal q e.qws c sig with
        | (s, 0) => s.updStarted q p fun e => { e with done := true }
        | (s, st) => s.failAt q st p)
  | some _, none => s.failAt q 0x02 p
  | none, _ => s

end Sys2Proof.Machine
end

