-- ==== Sys2Proof/Machine/CollGeo.lean ====
section
/-! DEFINITION. The geometry and the arithmetic of collectives: ranks, stages, what each member sends to each partner in which
chunk, and how contributions combine (R312 to R329). -/

namespace Sys2Proof.Machine

/-! ## Ranks and levels (R313, R320) -/

def natProd (xs : List Nat) : Nat := xs.foldl (· * ·) 1

def Coll.members (c : Coll) : Nat := natProd c.sizes

/-- Coordinates of a rank in mixed radix, the first level most significant (R313). -/
def rankCoords : List Nat → Nat → List Nat
  | [], _ => []
  | _ :: zs, r => (r / natProd zs) :: rankCoords zs (r % natProd zs)

def coordsRank : List Nat → List Nat → Nat
  | _ :: zs, c :: cs => c * natProd zs + coordsRank zs cs
  | _, _ => 0

def Coll.coords (c : Coll) (r : Nat) : List Nat := rankCoords c.sizes r

def Coll.rank (c : Coll) : Nat := coordsRank c.sizes c.me

/-- The member with coordinate j at a level, otherwise placed as `at_`. -/
def Coll.rankAt (c : Coll) (at_ : List Nat) (level j : Nat) : Nat := coordsRank c.sizes (at_.set level j)

/-- The node and die of a rank (R287, R313). -/
def Coll.nodeDie (c : Coll) (r : Nat) : Nat × DieId :=
  let x := c.coords r
  let pos := (c.start.zip (x.drop 1)).map fun (s, i) => s + i
  ((pos.zip c.dims).foldr (fun (p, n) acc => p + n * acc) 0, c.dies.getD (x.getD 0 0) 0)

def Coll.op (c : Coll) : Nat := dOp c.qws
def clMode (d : List Nat) : Nat := bits (qw d 6) 63 62
def clWide (d : List Nat) : Bool := bit (qw d 6) 61
def clBf16 (d : List Nat) : Bool := bit (qw d 6) 60
def clMax (d : List Nat) : Bool := bit (qw d 6) 59
def clChunk (d : List Nat) : Nat := bits (qw d 6) 58 56
def clStream (d : List Nat) : Bool := bit (qw d 6) 55
def clHandle (d : List Nat) : Nat := bits (qw d 6) 54 47
def clRoot (d : List Nat) : Nat := bits (qw d 6) 41 23

/-- ALL-REDUCE and REDUCE-SCATTER combine; the other kinds copy. -/
def clReduces (d : List Nat) : Bool := dOp d == 0x58 || dOp d == 0x59

def clCanon (d : List Nat) : Bool := clReduces d && !clMax d && clMode d == 0

/-- Whether the descriptor reads S (R316). -/
def clS (d : List Nat) : Bool := clStream d && (clReduces d || dOp d == 0x5A)

def Coll.isInt (c : Coll) : Bool := c.src.format == .int32

/-- The actions of R320. -/
inductive Act where
  | rs | ag | scatter | bcast | a2a | token
  deriving DecidableEq, Repr

structure Stage where
  idx : Nat
  level : Nat
  act : Act
  deriving DecidableEq, Repr

def reduceStages : List Stage := (List.range 5).map fun i => ⟨i, i, .rs⟩
def gatherStages (first : Nat) : List Stage := (List.range 5).map fun i => ⟨first + i, 4 - i, .ag⟩

/-- The stages of a kind (R320). -/
def stagesOf (op : Nat) : List Stage :=
  if op = 0x58 then reduceStages ++ gatherStages 5
  else if op = 0x59 then reduceStages
  else if op = 0x5A then gatherStages 0
  else if op = 0x5B then
    ⟨0, 0, .scatter⟩ :: ((List.range 4).map fun i => ⟨1 + i, 1 + i, .bcast⟩) ++ [⟨5, 0, .ag⟩]
  else if op = 0x5C then (List.range 5).map fun i => ⟨i, i, .a2a⟩
  else (List.range 5).map fun i => ⟨i, i, .token⟩

/-- Stages of a phase that are not skipped: anchors run over ALL-REDUCE's (R320, R327). -/
def Coll.stages (c : Coll) (ph : Nat) : List Stage :=
  (stagesOf (if ph = 0 then 0x58 else c.op)).filter fun x => decide (1 < c.sizes.getD x.level 1)

/-- Whether the phase has work: the anchor phase is that of a canonical float sum. -/
def Coll.phases (c : Coll) : List Nat := if clCanon c.qws && !c.isInt then [0, 1] else [1]

/-- Whether a stage runs as a ring or chain (R314, R323). -/
def Coll.ringStage (c : Coll) (x : Stage) : Bool := c.ring && x.level == 4

/-! ## Units and items (R315, R321) -/

/-- Units of the tensor that is split: the source, or a block of ALL-TO-ALL. -/
def Coll.blockElems (c : Coll) : Nat := if c.op = 0x5C then c.elems / c.members else c.elems

def Coll.units (c : Coll) : Nat := ceilDiv c.blockElems 256

/-- Elements of a unit. -/
def Coll.unitElems (c : Coll) (u : Nat) : Nat := min 256 (c.blockElems - 256 * u)

/-- The rank whose part holds a unit (R321). -/
def Coll.owner (c : Coll) (u : Nat) : Nat := ((u + 1) * c.members - 1) / c.units

/-- First unit of a rank's part, and the unit after its last. -/
def Coll.part (c : Coll) (r : Nat) : Nat × Nat := (r * c.units / c.members, (r + 1) * c.units / c.members)

/-- The part of the root's data that the dies of a module carry: k of n dies (R320). -/
def Coll.diePart (c : Coll) (u : Nat) : Nat := ((u + 1) * c.sizes.getD 0 1 - 1) / c.units

/-- An item: an origin (rank of ALL-GATHER, source × m + destination of ALL-TO-ALL, else 0) and a unit. -/
def Coll.items (c : Coll) : List (Nat × Nat) :=
  let as := if c.op = 0x5A then List.range c.members
    else if c.op = 0x5C then (List.range c.members).flatMap fun dst => (List.range c.members).map fun src => src * c.members + dst
    else [0]
  as.flatMap fun a => (List.range c.units).map fun u => (a, u)

/-- Whether two places agree at every level in a range of levels. -/
def agree (lo hi : Nat) (a b : List Nat) : Bool := (a.take hi).drop lo == (b.take hi).drop lo

/-- At a stage, of the group of members that differ from `me` at its level alone: the coordinate that contributes an item and the
one that receives it; all contribute or receive where there is none. No answer where the item does not move in the group. -/
def Coll.move (c : Coll) (x : Stage) (me : List Nat) (i : Nat × Nat) : Option (Option Nat × Option Nat) :=
  let l := x.level
  let home := c.coords (if c.op = 0x5A then i.1 else c.owner i.2)
  let root := c.coords (clRoot c.qws)
  match x.act with
  | .rs => if agree 0 l home me then some (none, some (home.getD l 0)) else none
  | .ag =>
    if c.op = 0x5B then some (some (c.diePart i.2), none)
    else if agree 0 l home me then some (some (home.getD l 0), none) else none
  | .scatter => if agree 1 5 root me then some (some (root.getD 0 0), some (c.diePart i.2)) else none
  | .bcast => if agree (l + 1) 5 root me && c.diePart i.2 == me.getD 0 0 then some (some (root.getD l 0), none) else none
  | .a2a =>
    let src := c.coords (i.1 / c.members)
    let dst := c.coords (i.1 % c.members)
    if agree 0 l dst me && agree (l + 1) 5 src me then some (some (src.getD l 0), some (dst.getD l 0)) else none
  | .token => none

/-- A value on its way: the coordinate that contributed it (of an uncombined or copied one), item and unit. -/
structure Slot where
  o : Nat
  a : Nat
  u : Nat
  deriving DecidableEq, Repr

/-- Whether a ring stage of this phase forwards contributions uncombined (R327). -/
def Coll.uncombined (c : Coll) (ph : Nat) : Bool := ph == 1 && clReduces c.qws && !clMax c.qws && clMode c.qws == 1

/-- (a − b) mod n. -/
def backBy (n a b : Nat) : Nat := (a + n - b % n) % n

/-- The items of a stage that move between a contributor and a receiver, in ascending order. -/
def Coll.transfer (c : Coll) (x : Stage) (me : List Nat) (s t : Option Nat) : List (Nat × Nat) :=
  c.items.filter fun i => c.move x me i == some (s, t)

/-- The half of a transfer that runs the ring ascending, or descending (R323). -/
def halfOf (asc : Bool) (xs : List (Nat × Nat)) : List (Nat × Nat) :=
  let h := (xs.length + 1) / 2
  if asc then xs.take h else xs.drop h

/-- What the member at `me` sends in step i of a ring stage in one direction (R323, R327). -/
def Coll.ringStep (c : Coll) (ph : Nat) (x : Stage) (me : List Nat) (asc : Bool) (i : Nat) : List Slot :=
  let n := c.sizes.getD 4 1
  let at_ := me.getD 4 0
  let o := if asc then backBy n at_ i else (at_ + i) % n
  let dist (s t : Nat) : Nat := if asc then backBy n t s else backBy n s t
  let slots (o : Nat) (xs : List (Nat × Nat)) : List Slot := (halfOf asc xs).map fun (a, u) => ⟨o, a, u⟩
  let far (t : Nat) : Bool := decide (i < dist o t)
  match x.act with
  | .rs =>
    if c.uncombined ph then
      ((List.range n).filter far).flatMap fun t => slots o (c.transfer x me none (some t))
    else
      let t := if asc then backBy n at_ (i + 1) else (at_ + i + 1) % n
      slots at_ (c.transfer x me none (some t))
  | .a2a => ((List.range n).filter far).flatMap fun t => slots o (c.transfer x me (some o) (some t))
  | _ => slots o (c.transfer x me (some o) none)

/-- What the member at `me` sends to coordinate j of a stage's level, in the runs that chunks do not cross. -/
def Coll.runsTo (c : Coll) (ph : Nat) (x : Stage) (me : List Nat) (j : Nat) : List (List Slot) :=
  let n := c.sizes.getD x.level 1
  let at_ := me.getD x.level 0
  if j = at_ then []
  else if c.ringStage x then
    let steps (asc : Bool) : List (List Slot) := (List.range (n - 1)).map fun i => c.ringStep ph x me asc i
    (if j = (at_ + 1) % n then steps true else []) ++ (if j = backBy n at_ 1 then steps false else [])
  else
    [c.items.filterMap fun i => match c.move x me i with
      | some (s, t) => if s.getD at_ = at_ ∧ t.getD j = j then some ⟨at_, i.1, i.2⟩ else none
      | none => none]

/-- A chunk that a member sends: its phase, stage and content. -/
structure Parcel where
  ph : Nat
  x : Stage
  num : Nat
  slots : List Slot
  deriving DecidableEq, Repr

/-- The chunks from the member at `me` to coordinate j at one stage index: anchor chunks first (R324). -/
def Coll.cutsAt (c : Coll) (idx : Nat) (me : List Nat) (j : Nat) : List Parcel :=
  let all := c.phases.flatMap fun ph => ((c.stages ph).filter (·.idx == idx)).flatMap fun x =>
    ((c.runsTo ph x me j).flatMap fun r => chunksOf c.upc (r.length + 1) r).map fun s => (⟨ph, x, 0, s⟩ : Parcel)
  all.zipIdx.map fun (k, n) => { k with num := n }

/-- The level at which two members differ, when it is one alone. -/
def levelOf (a b : List Nat) : Option Nat :=
  match (List.range 5).filter fun l => a.getD l 0 != b.getD l 0 with
  | [l] => some l
  | _ => none

/-- Every chunk from one member to another, in stage order. -/
def Coll.cutsBetween (c : Coll) (src dst : Nat) : List Parcel :=
  let a := c.coords src
  let b := c.coords dst
  match levelOf a b with
  | some l => (List.range 10).flatMap fun idx =>
      if (c.phases.flatMap c.stages).any fun x => x.idx == idx && x.level == l then c.cutsAt idx a (b.getD l 0) else []
  | none => []

/-- Partners at a level: all others, or the neighbours in a ring; of a barrier's ring, the members 2^i ahead and behind. -/
def Coll.partnersAt (c : Coll) (l : Nat) : List Nat :=
  let n := c.sizes.getD l 1
  let at_ := c.me.getD l 0
  let js := if c.ring && l == 4 then
      (if c.op = 0x5D then (List.range 5).flatMap fun i => if 2 ^ i < n then [(at_ + 2 ^ i) % n, backBy n at_ (2 ^ i)] else []
       else [(at_ + 1) % n, backBy n at_ 1])
    else List.range n
  ((js.filter (· ≠ at_)).foldl insertNew []).map fun j => c.rankAt c.me l j

/-- Every partner of every stage. -/
def Coll.partners (c : Coll) : List Nat :=
  (List.range 5).flatMap fun l => if 1 < c.sizes.getD l 1 then c.partnersAt l else []

/-! ## Values (R317, R327, R328) -/

/-- Bytes of an AFX block from each element's terms: their integers against the anchor, NaN marks apart (R168, R171). -/
def afxBlock (int wide : Bool) (anchor : Int) (terms : List (List Nat)) (sat : Bool) : List Byte :=
  let w := afxW wide
  let vals : List (List (Option Int)) := terms.map fun ts => ts.map fun t =>
    if int then some (signedOf 32 t) else toAfx (BitVec.ofNat 32 t) anchor w
  let mask := sumNat (vals.zipIdx.map fun (v, i) => if v.any (·.isNone) then 2 ^ i else 0)
  let ints := vals.map fun v => (v.map (·.getD 0)).foldl (· + ·) 0
  let eb := afxElemBytes wide
  leBytes 32 mask ++ leBytes 2 (fieldOf 16 anchor) ++ leBytes 2 ((if sat then 1 else 0) + (if int then 2 else 0))
    ++ leBytes 4 (terms.headD []).length ++ List.replicate 24 0
    ++ ((List.range 256).flatMap fun i => leBytes eb (fieldOf (8 * eb) (ints.getD i 0)))

def afxInts (wide : Bool) (b : List Byte) : List Int :=
  let eb := afxElemBytes wide
  (chunksOf eb 256 (b.drop 64)).map fun e => signedW eb (leNat e)

/-- A rounded result with its flags. -/
structure Finished where
  bytes : List Byte
  nan : Bool
  sat : Bool
  deriving DecidableEq, Repr

/-- Encodes results in the destination's format (R327). -/
def finishVals (dst : Fmt) (rs : List Rs) : Finished :=
  let es := rs.map fun r => dst.encode (dec32 r.v) 127 none
  { bytes := es.flatMap fun e => leBytes dst.groupBytes e.bits,
    nan := rs.any (fun r => r.n || isNan32 r.v) || es.any (·.cnz), sat := rs.any (·.s) || es.any (·.cs) }

/-- Rounds a combined AFX block once, at the owner (R168, R327). -/
def finishAfx (dst : Fmt) (wide : Bool) (n : Nat) (b : List Byte) : Finished :=
  let mask := leNat (b.take 32)
  let a := signedOf 16 (leNat ((b.drop 0x20).take 2))
  let fl := leNat ((b.drop 0x22).take 2)
  let xs := (afxInts wide b).take n
  if bit fl 1 then
    let hs := xs.map (holdInt 32)
    { bytes := hs.flatMap fun h => leBytes 4 (fieldOf 32 h.1), nan := false, sat := bit fl 0 || hs.any (·.2) }
  else
    let f := finishVals dst (xs.zipIdx.map fun (x, i) => fromAfx (if bit mask i then none else some x) a (afxW wide))
    { f with sat := f.sat || bit fl 0 }

/-- How a phase's contributions combine. -/
inductive Comb where
  | anchor | afx | maxInt | maxFloat | tree | add32 | addB16
  deriving DecidableEq, Repr

def Coll.comb (c : Coll) (ph : Nat) : Comb :=
  if ph = 0 then .anchor
  else if clMax c.qws then (if c.isInt then .maxInt else .maxFloat)
  else if clMode c.qws = 0 then .afx
  else if clMode c.qws = 1 then .tree
  else if clBf16 c.qws then .addB16 else .add32

/-- Elements of a value as words of a width. -/
def wordsOf (n : Nat) (b : List Byte) : List Nat := (chunksOf n (b.length + 1) b).map leNat

def f32s (b : List Byte) : List F32 := (wordsOf 4 b).map (BitVec.ofNat 32)

def colsOf {α : Type} (dflt : α) (vs : List (List α)) : List (List α) :=
  (List.range (vs.headD []).length).map fun i => vs.map fun v => v.getD i dflt

/-- Combines the values of contributors, in their order; none where an AFX sum is refused (R221, R327). -/
def combineValues (k : Comb) (wide : Bool) (vs : List (List Byte)) : Option (List Byte) :=
  match k with
  | .anchor => some (leBytes 2 (fieldOf 16 ((vs.map fun v => signedOf 16 (leNat v)).foldl max (-149))))
  | .afx => match vs with
    | [] => some []
    | v :: vs => vs.foldl (fun (a : Option (List Byte)) b => a.bind fun x => afxMerge wide x b) (some v)
  | .maxInt => some ((colsOf 0 (vs.map (wordsOf 4))).flatMap fun ws =>
      leBytes 4 (fieldOf 32 ((ws.map (signedOf 32)).foldl max (-(2 ^ 31)))))
  | .maxFloat => some ((colsOf 0 (vs.map f32s)).flatMap fun ts => leBytes 4 (maxAll ts).v.toNat)
  | .tree => some ((colsOf 0 (vs.map f32s)).flatMap fun ts => leBytes 4 (repeatable ts).v.toNat)
  | .add32 => some ((colsOf 0 (vs.map f32s)).flatMap fun ts => leBytes 4 (foldAdd32 add32 ts).v.toNat)
  | .addB16 => some ((colsOf 0 (vs.map (wordsOf 2))).flatMap fun ws =>
      leBytes 2 ((foldAdd32 addBf16 (ws.map fun w => BitVec.ofNat 32 (w * 65536))).v.toNat / 65536))

/-- A sum's rounded steps saturated: S of the combination (R174). -/
def combineSat (k : Comb) (vs : List (List Byte)) : Bool :=
  match k with
  | .tree => (colsOf 0 (vs.map f32s)).any fun ts => (repeatable ts).s
  | .add32 => (colsOf 0 (vs.map f32s)).any fun ts => (foldAdd32 add32 ts).s
  | .addB16 => (colsOf 0 (vs.map (wordsOf 2))).any fun ws => (foldAdd32 addBf16 (ws.map fun w => BitVec.ofNat 32 (w * 65536))).s
  | _ => false

/-- A member's own contribution of a unit: the terms as the combination carries them (R317, R327). -/
def Coll.ownValue (c : Coll) (anchor : Int) (x : SrcUnit) : List Byte :=
  match c.comb 1 with
  | .afx => afxBlock c.isInt (clWide c.qws) anchor x.terms x.sat
  | .addB16 => x.terms.flatMap fun t => leBytes 2 (Fmt.bf16.encode (dec32 (BitVec.ofNat 32 (t.headD 0))) 127 none).bits
  | _ => x.terms.flatMap fun t => leBytes 4 (t.headD 0)

/-- The result of a unit in the destination's format (R327). -/
def Coll.finish (c : Coll) (u : Nat) (b : List Byte) : Finished :=
  match c.comb 1 with
  | .afx => finishAfx c.dst.format (clWide c.qws) (c.unitElems u) b
  | .maxInt => { bytes := b, nan := false, sat := false }
  | .addB16 => finishVals c.dst.format ((wordsOf 2 b).map fun w => ⟨BitVec.ofNat 32 (w * 65536), false, false⟩)
  | _ => finishVals c.dst.format ((f32s b).map fun v => ⟨v, false, false⟩)

def p61 : Nat := 2 ^ 61 - 1

/-- The residue of a chunk of AFX blocks (R328). -/
def residueOf (wide : Bool) (payload : List Byte) : Nat :=
  let xs := (chunksOf (afxBlockBytes wide) (payload.length + 1) payload).flatMap (afxInts wide)
  (sumNat (xs.zipIdx.map fun (x, i) => (i + 1) * (x % (p61 : Int)).toNat)) % p61

/-- Bytes of a value of a phase and action: how a chunk's payload divides (R325). -/
def Coll.valueBytes (c : Coll) (ph : Nat) (x : Stage) (u : Nat) : Nat :=
  let n := c.unitElems u
  if ph = 0 then 2
  else if x.act = .rs then (match c.comb 1 with
    | .afx => afxBlockBytes (clWide c.qws)
    | .addB16 => 2 * n
    | _ => 4 * n)
  else
    let f := c.dst.format
    ceilDiv n f.groupElems * f.groupBytes + (if f.isMx then ceilDiv n 32 else 0)

/-- Divides a payload into the values of a chunk's slots. -/
def Coll.divide (c : Coll) (k : Parcel) : List Slot → List Byte → List (Slot × List Byte)
  | [], _ => []
  | y :: ys, b =>
    let n := c.valueBytes k.ph k.x y.u
    (y, b.take n) :: c.divide k ys (b.drop n)

def Coll.payloadBytes (c : Coll) (k : Parcel) : Nat := sumNat (k.slots.map fun y => c.valueBytes k.ph k.x y.u)

/-- Whether a chunk sums terms (R329): its check is the residue, or the rails. -/
def Coll.arithmetic (k : Parcel) : Bool := k.ph == 1 && k.x.act == .rs

def Coll.afxChunk (c : Coll) (k : Parcel) : Bool := Coll.arithmetic k && c.comb 1 == .afx

end Sys2Proof.Machine
end

