-- ==== Sys2Proof/Machine/Collective.lean ====
section
/-! DEFINITION. Collectives: the descriptors of CB's sequencer, chunks and control records, checks, streams, stragglers and the abort
(R312 to R341). -/

namespace Sys2Proof.Machine

/-! ## The collective of a context -/

/-- The collective in progress: its descriptor has not been cancelled (R81). -/
def State.collOf (s : State) (d : DieId) (x : CtxId) : Option Coll :=
  (s.getCtx d x).coll.filter fun c => (s.queue c.q).started.any fun e => e.pos == c.pos && e.collective

def cbUnit : UnitId := 6

/-- The collective when CB works on it: its context runs, its state is not in the save area, no freeze holds (R335, R337). -/
def State.collRun (s : State) (d : DieId) (x : CtxId) : Option Coll :=
  if (s.getCtx d x).state = .running ∧ cbUnit ∉ (s.getCtx d x).saved ∧ !(s.getUnit d cbUnit).stopping ∧ !s.frozenDie d
      ∧ (s.die d).presence = .inService then s.collOf d x
  else none

def State.setColl (s : State) (d : DieId) (x : CtxId) (c : Option Coll) : State := s.updCtx d x fun y => { y with coll := c }

def State.updColl (s : State) (d : DieId) (x : CtxId) (f : Coll → Coll) : State :=
  s.updCtx d x fun y => { y with coll := y.coll.map f }

def State.countColl (s : State) (d : DieId) (i : Fin 7) : State :=
  s.updDie d fun x => { x with collCounts := x.collCounts.set i (x.collCounts[i] + 1) }

/-- An event of CB in a context (R341). -/
def State.collEvent (s : State) (d : DieId) (x : CtxId) (code detail : Nat) : State :=
  s.raise { code := code, unit := uUnit d cbUnit, ctx := some x.val, detail := detail }

/-! ## Chunks and records on the fabric (R324, R325) -/

/-- Bytes 0x00 to 0x3B of a trailer or control record. -/
def trailerBytes (t : Trailer) : List Byte :=
  leBytes 4 t.planId ++ leBytes 4 t.inst ++ leBytes 1 t.stage ++ leBytes 1 t.kind ++ leBytes 2 t.reserved ++ leBytes 4 t.sender
    ++ leBytes 4 t.chunk ++ leBytes 4 t.bytes ++ leBytes 8 t.residue ++ leBytes 4 t.payloadCrc ++ leBytes 4 t.originCrc
    ++ leBytes 20 (t.reserved / 65536)

def trailerOk (t : Trailer) : Bool := t.crc == crc32c (trailerBytes t)

/-- A record of this member, with its CRC. -/
def Coll.trailer (c : Coll) (stage kind chunk bytes residue pcrc ocrc : Nat) : Trailer :=
  let t : Trailer :=
    { planId := c.planId, inst := c.inst, stage := stage, kind := kind, sender := c.rank, chunk := chunk, bytes := bytes,
      residue := residue, payloadCrc := pcrc, originCrc := ocrc, crc := 0 }
  { t with crc := crc32c (trailerBytes t) }

/-- Global address of a local offset of a partner's staging space (R257). -/
def Coll.stagingAddr (c : Coll) (r off : Nat) : Nat :=
  let (n, d) := c.nodeDie r
  n * 2 ^ 48 + (if fSram (qw c.qws 7) then 2 ^ 44 + d.val * 0x10000000 + off
    else if windowBase ≤ off then 0x80000000000 + (off - windowBase)
    else d.val * 0x2000000000 + off)

/-- Largest partner count of a stage (R325). -/
def Coll.maxPartners (c : Coll) : Nat :=
  ((List.range 5).map fun l =>
    let n := c.sizes.getD l 1
    if n ≤ 1 then 0 else if c.ring ∧ l = 4 then 2 else n - 1).foldl Nat.max 0

/-- One store of the collective's stream; a status at once is the operation's. -/
def State.collStore (s : State) (d : DieId) (x : CtxId) (target : Nat) (clasp : Bool) (bs : List Byte) : State :=
  match s.issue (srcOf d) (s.dieTag d)
      { owner := .collective d x, stream := 0x50 + x.val, target := target, op := 0x02, clasp := clasp, payload := bs,
        size := bs.length } with
  | (s, .inl st) => s.updColl d x fun c => { c with status := firstStatus c.status st }
  | (s, .inr id) => s.updColl d x fun c => { c with ops := c.ops ++ [id] }

/-- A control record to a partner's control area, at an open place in it (log 45). -/
def State.sendRecord (s : State) (d : DieId) (x : CtxId) (c : Coll) (r : Nat) (t : Trailer) : State :=
  let (i, s) := s.fresh 1024
  s.collStore d x (c.stagingAddr r (fOff (qw c.qws 7) + 64 * i)) true (trailerBytes t ++ leBytes 4 t.crc)

/-- A chunk to a partner's slot, which slot is open (log 45): stores of up to 4 KiB, then the trailer as a clasp store. -/
def State.sendPayload (s : State) (d : DieId) (x : CtxId) (c : Coll) (k : SentChunk) : State :=
  let (i, s) := s.fresh (c.slots * c.maxPartners)
  let base := fOff (qw c.qws 7) + 65536 + c.slotBytes * i
  let s := ((chunksOf 4096 (k.payload.length + 1) k.payload).zipIdx).foldl (fun s (b, n) =>
    s.collStore d x (c.stagingAddr k.dst (base + 4096 * n)) false b) s
  s.sendRecord d x c k.dst (c.trailer k.st k.kind k.num k.payload.length k.residue (crc32c k.payload) k.origin)

/-! ## End and abort (R326, R338) -/

/-- Drops the collective and closes its handle (R331). -/
def State.dropColl (s : State) (d : DieId) (x : CtxId) (c : Coll) : State :=
  s.updCtx d x fun y =>
    { y with coll := none,
             streams := if clS c.qws then y.streams.filter (·.handle ≠ clHandle c.qws) else y.streams }

/-- Fails the descriptor with its status, sends a notice to every partner of every stage, and raises 0x0463 (R338). -/
def State.abortColl (s : State) (d : DieId) (x : CtxId) (c : Coll) (status : Nat) : State :=
  let s := c.partners.foldl (fun s r => s.sendRecord d x c r (c.trailer 0 6 0 0 0 0 0)) s
  let s := (s.dropColl d x c).countColl d 6
  (s.failAt c.q status c.pos).collEvent d x 0x0463 0

/-- Aborts when an operation has failed: 0x20 for 0x22 (R338). -/
def State.collFailed (s : State) (d : DieId) (x : CtxId) : State :=
  match s.collOf d x with
  | some c => if c.status = 0 then s else s.abortColl d x c (if c.status = 0x22 then 0x20 else c.status)
  | none => s

/-- Destination items of the member (R315, R321). -/
def Coll.wanted (c : Coll) : List (Nat × Nat) :=
  if c.op = 0x59 then (List.range ((c.part c.rank).2 - (c.part c.rank).1)).map fun i => (0, (c.part c.rank).1 + i)
  else if c.op = 0x5C then c.items.filter fun i => i.1 % c.members == c.rank
  else c.items

/-- First flat index of an item in the destination. -/
def Coll.flatAt (c : Coll) (a u : Nat) : Nat :=
  if c.op = 0x59 then 256 * (u - (c.part c.rank).1)
  else if c.op = 0x5A then a * c.elems + 256 * u
  else if c.op = 0x5C then a / c.members * c.blockElems + 256 * u
  else 256 * u

/-- One exchange of tokens: stage, round, members sent to, members awaited (R320). -/
structure TokenStep where
  st : Nat
  round : Nat
  to_ : List Nat
  from_ : List Nat
  deriving DecidableEq, Repr

def Coll.tokenSteps (c : Coll) : List TokenStep :=
  (c.stages 1).flatMap fun x =>
    let n := c.sizes.getD x.level 1
    let at_ := c.me.getD x.level 0
    if c.ringStage x then
      ((List.range 5).filter fun i => decide (2 ^ i < n)).map fun i =>
        ⟨x.idx, i, [c.rankAt c.me x.level ((at_ + 2 ^ i) % n)], [c.rankAt c.me x.level (backBy n at_ (2 ^ i))]⟩
    else [⟨x.idx, 0, c.partnersAt x.level, c.partnersAt x.level⟩]

/-- Whether the collective is complete (R326). -/
def Coll.complete (c : Coll) : Bool :=
  c.ops == [] && (if c.op = 0x5D then decide (c.tokenSteps.length ≤ c.tokenAt)
    else c.wanted.all (· ∈ c.written) && c.sent == [] && c.recv == []
      && c.partners.all fun r => (c.cutsBetween c.rank r).all fun k => decide ((r, k.x.idx, k.num) ∈ c.sentIds))

/-- Ends a complete collective: the descriptor can retire, with its flag summary (R80, R326, R333). -/
def State.collEnd (s : State) (d : DieId) (x : CtxId) : State :=
  match s.collOf d x with
  | some c =>
    if c.complete then
      (s.dropColl d x c).updStarted c.q c.pos fun e =>
        { e with collective := false,
                 summary := if bit (qw c.qws 6) 46 ∧ c.op ≠ 0x5D
                   then some (bits (qw c.qws 6) 45 42, flagSummary c.dst.count c.anyNan c.anySat) else none }
    else s
  | none => s

/-! ## Values in hand -/

def Coll.find (c : Coll) (ph : Nat) (role : PieceRole) (st o a u : Nat) : Option (List Byte) :=
  (c.pieces.find? fun p => p.ph == ph && p.role == role && p.st == st && p.o == o && p.a == a && p.u == u).map (·.bytes)

def Coll.put (c : Coll) (ph : Nat) (role : PieceRole) (st o a u : Nat) (b : List Byte) : Coll :=
  { c with pieces := c.pieces ++ [⟨ph, role, st, o, a, u, b⟩] }

/-- The reduce-scatter stage of a phase that follows one, or its first. -/
def Coll.nextRs (c : Coll) (ph : Nat) (after : Option Nat) : Option Stage :=
  (c.stages ph).find? fun x => x.act == .rs && (match after with
    | some i => decide (i < x.idx)
    | none => true)

/-- A unit of the data phase goes on: to its next reduce-scatter stage, or rounded as the owner's result. The one term of a
collective of one member is returned unchanged (R164). -/
def Coll.goData (c : Coll) (after : Option Nat) (u : Nat) (b : List Byte) : Coll :=
  match c.nextRs 1 after with
  | some x => c.put 1 .held x.idx 0 0 u b
  | none =>
    let f := match c.srcs.find? (·.u == u) with
      | some x => if c.comb 1 = Comb.afx ∧ !c.isInt ∧ c.members = 1 ∧ x.terms.all (fun (t : List Nat) => t.length == 1)
          then { finishVals c.dst.format (x.terms.map fun (t : List Nat) => ⟨BitVec.ofNat 32 (t.headD 0), false, false⟩) with sat := x.sat }
          else c.finish u b
      | none => c.finish u b
    { c.put 1 .fin 0 0 0 u f.bytes with anyNan := c.anyNan || f.nan, anySat := c.anySat || f.sat }

/-- A unit's combined anchor is known: the member converts its own terms against it (R327). -/
def Coll.goAnchor (c : Coll) (u : Nat) (b : List Byte) : Coll :=
  let c := c.put 0 .fin 0 0 0 u b
  match c.srcs.find? (·.u == u) with
  | some x => c.goData none u (c.ownValue (signedOf 16 (leNat b)) x)
  | none => c

def Coll.go (c : Coll) (ph : Nat) (after : Option Nat) (u : Nat) (b : List Byte) : Coll :=
  if ph = 1 then c.goData after u b
  else match c.nextRs 0 after with
    | some x => c.put 0 .held x.idx 0 0 u b
    | none => c.goAnchor u b

/-- A unit of the member's own source is present: its anchor, or its value, enters the stages (R327, R332). -/
def Coll.offer (c : Coll) (x : SrcUnit) : Coll :=
  let c := { c with srcs := c.srcs ++ [x] }
  if c.phases = [1] then c.goData none x.u (c.ownValue 40 x)
  else c.go 0 none x.u (leBytes 2 (fieldOf 16 (anchorOf ((x.terms.flatten).map (BitVec.ofNat 32)))))

/-- A final value of an item, with the NaN of a result that another member rounded. -/
def Coll.putFinal (c : Coll) (ph a u : Nat) (b : List Byte) : Coll :=
  if (c.find ph .fin 0 0 a u).isSome then c
  else if ph = 0 then c.goAnchor u b
  else c.put 1 .fin 0 0 a u b

/-- The receiver's coordinate of a reduce-scatter item at a level. -/
def Coll.target (c : Coll) (l u : Nat) : Nat := (c.coords (c.owner u)).getD l 0

/-- Whether an item is of the half that runs a ring ascending (R323). -/
def Coll.inAsc (c : Coll) (x : Stage) (s t : Option Nat) (i : Nat × Nat) : Bool :=
  decide (i ∈ halfOf true (c.transfer x c.me s t))

/-- The value to send for a slot, once it is in hand. -/
def Coll.valueOf (c : Coll) (k : Parcel) (y : Slot) : Option (List Byte) :=
  let at_ := c.me.getD k.x.level 0
  if k.x.act = .rs then
    if c.ringStage k.x then
      if c.uncombined k.ph then
        (if y.o = at_ then c.find k.ph .held k.x.idx 0 0 y.u else c.find k.ph .relay k.x.idx y.o 0 y.u)
      else
        let n := c.sizes.getD 4 1
        let t := c.target 4 y.u
        let first := if c.inAsc k.x none (some t) (0, y.u) then (t + 1) % n else backBy n t 1
        if at_ = first then c.find k.ph .held k.x.idx 0 0 y.u else c.find k.ph .relay k.x.idx 0 0 y.u
    else c.find k.ph .held k.x.idx 0 0 y.u
  else c.find k.ph .fin 0 0 y.a y.u

/-- The payload of a chunk, once all its values are in hand. -/
def Coll.payloadOf (c : Coll) (k : Parcel) : Option (List Byte) :=
  k.slots.foldl (fun (acc : Option (List Byte)) y => acc.bind fun b => (c.valueOf k y).map fun v => b ++ v) (some [])

/-! ## Consuming received chunks (R326, R327, R329) -/

/-- The chunk that a trailer names. -/
def Coll.parcelOf (c : Coll) (sender st num : Nat) : Option Parcel :=
  (c.cutsBetween sender c.rank).find? fun k => k.x.idx == st && k.num == num

/-- The received chunks that combine with one: the same number of every partner at a direct stage; else itself. -/
def Coll.groupOf (c : Coll) (k : Parcel) (r : RecvChunk) : List RecvChunk :=
  if k.x.act = .rs ∧ !c.ringStage k.x then c.recv.filter fun y => y.st == r.st && y.num == r.num else [r]

/-- Whether a chunk has all that it combines with. -/
def Coll.canTake (c : Coll) (k : Parcel) (r : RecvChunk) : Bool :=
  if k.x.act = .rs then
    let own (y : Slot) : Bool := (c.find k.ph .held k.x.idx 0 0 y.u).isSome
    if !c.ringStage k.x then (c.groupOf k r).length == c.sizes.getD k.x.level 1 - 1 && k.slots.all own
    else k.slots.all fun y => (c.uncombined k.ph && c.target 4 y.u != c.me.getD 4 0) || own y
  else true

/-- A combination with its saturation taken into the flags when it ends the reduce-scatter. -/
def Coll.combined (c : Coll) (k : Parcel) (vs : List (List Byte)) : Option (Coll × List Byte) :=
  (combineValues (c.comb k.ph) (clWide c.qws) vs).map fun b =>
    ({ c with anySat := c.anySat || ((c.nextRs k.ph (some k.x.idx)).isNone && combineSat (c.comb k.ph) vs) }, b)

/-- Takes one slot of a direct reduce-scatter group: contributions in coordinate order, or own first then in order of arrival in
relaxed mode (R174, R327). -/
def Coll.takeDirect (c : Coll) (k : Parcel) (parts : List (Nat × List (Slot × List Byte))) (y : Slot) : Option Coll :=
  match c.find k.ph .held k.x.idx 0 0 y.u with
  | none => none
  | some own =>
    let val (p : Nat × List (Slot × List Byte)) : List Byte := ((p.2.find? fun z => z.1.u == y.u).map (·.2)).getD []
    let l := k.x.level
    let ordered := (List.range (c.sizes.getD l 1)).flatMap fun j =>
      if j = c.me.getD l 0 then [own]
      else (parts.filter fun p => (c.coords p.1).getD l 0 == j).map val
    let vs := if c.comb k.ph = .add32 ∨ c.comb k.ph = .addB16 then own :: parts.map val else ordered
    (c.combined k vs).map fun (c, b) => c.go k.ph (some k.x.idx) y.u b

/-- Takes one slot of a ring reduce-scatter chunk (R323, R327). -/
def Coll.takeRing (c : Coll) (k : Parcel) (y : Slot) (v : List Byte) : Option Coll :=
  let at_ := c.me.getD 4 0
  let mine := c.target 4 y.u == at_
  let own := (c.find k.ph .held k.x.idx 0 0 y.u).getD []
  if c.uncombined k.ph then
    let c := c.put k.ph .relay k.x.idx y.o 0 y.u v
    let n := c.sizes.getD 4 1
    let vs := (List.range n).filterMap fun j => if j = at_ then some own else c.find k.ph .relay k.x.idx j 0 y.u
    if mine && vs.length == n then (c.combined k vs).map fun (c, b) => c.go k.ph (some k.x.idx) y.u b else some c
  else
    (c.combined k [v, own]).map fun (c, b) =>
      if mine then c.go k.ph (some k.x.idx) y.u b else c.put k.ph .relay k.x.idx 0 0 y.u b

def foldOpt {α β : Type} (f : α → β → Option α) (a : α) (xs : List β) : Option α :=
  xs.foldl (fun (acc : Option α) x => acc.bind fun a => f a x) (some a)

/-- Takes a group of chunks; none when an AFX sum is refused. -/
def Coll.take (c : Coll) (k : Parcel) (g : List RecvChunk) : Option Coll :=
  if k.x.act = .rs then
    if c.ringStage k.x then
      foldOpt (fun (c : Coll) (r : RecvChunk) =>
        foldOpt (fun (c : Coll) (z : Slot × List Byte) => c.takeRing k z.1 z.2) c (c.divide k k.slots r.payload)) c g
    else
      foldOpt (fun (c : Coll) y => c.takeDirect k (g.map fun r => (r.sender, c.divide k k.slots r.payload)) y) c k.slots
  else
    some (g.foldl (fun c r => (c.divide k k.slots r.payload).foldl (fun c z => c.putFinal k.ph z.1.a z.1.u z.2) c) c)

/-- Whether the residues of a group agree with the integers of its combination (R328, R329). -/
def Coll.residueOk (c : Coll) (k : Parcel) (g : List RecvChunk) : Bool :=
  !c.afxChunk k || sumNat (g.map (·.residue)) % p61 == sumNat (g.map fun r => residueOf (clWide c.qws) r.payload) % p61

/-- A chunk failed its check: asked for again, or status 0x32 with event 0x0462 after 0x4400:03 retransmissions (R330). -/
def State.askAgain (s : State) (d : DieId) (x : CtxId) (st num sender : Nat) (residue : Bool) : State :=
  match s.collOf d x with
  | none => s
  | some c =>
    let n := ((c.tries.find? fun t => t.1 == st && t.2.1 == num && t.2.2.1 == sender).map (·.2.2.2)).getD 0
    if s.setting 0x4400 3 ≤ n then (s.collEvent d x 0x0462 0).abortColl d x c 0x32
    else
      let c := { c with
        tries := (c.tries.filter fun t => !(t.1 == st && t.2.1 == num && t.2.2.1 == sender)) ++ [(st, num, sender, n + 1)],
        recv := c.recv.filter fun r => !(r.st == st && r.num == num && r.sender == sender) }
      let s := (s.setColl d x (some c)).countColl d (if residue then 2 else 1)
      s.sendRecord d x c sender (c.trailer st 5 num 0 0 0 0)

/-- Acknowledges a chunk and grants its slot again (R325, R326); a chunk that passed on retransmission raises 0x0461 (R330). -/
def State.tookChunk (s : State) (d : DieId) (x : CtxId) (c : Coll) (r : RecvChunk) : State :=
  let s := s.updColl d x fun c => { c with takenIds := c.takenIds ++ [(r.st, r.num, r.sender)] }
  let s := if c.tries.any fun t => t.1 == r.st && t.2.1 == r.num && t.2.2.1 == r.sender then s.collEvent d x 0x0461 0 else s
  let s := s.sendRecord d x c r.sender (c.trailer r.st 4 r.num 0 0 0 0)
  s.sendRecord d x c r.sender (c.trailer 0 3 0 0 0 0 0)

/-! ## The destination (R315) -/

/-- Puts flat elements from an index on into a tensor: codes, and for MX formats the scale of each run of 32. -/
def Work.writeFlat (k : Work) (d : DieId) (t : Tensor) (f0 : Nat) (ws ks : List Nat) : Work :=
  let n0 := t.size 0
  if n0 = 0 ∨ ws = [] then k
  else
    (List.range ((f0 + ws.length - 1) / n0 - f0 / n0 + 1)).foldl (fun k i =>
      let r := f0 / n0 + i
      let at_ (j : Nat) : Option Nat := if f0 ≤ r * n0 + j then ws[r * n0 + j - f0]? else none
      let c := t.rowCoords r
      let k := k.writeRow d t c ((List.range n0).map at_)
      k.writeScales d t c ((List.range t.blocks).map fun b =>
        if f0 ≤ r * n0 + 32 * b ∧ r * n0 + 32 * b < f0 + ws.length then ks[(r * n0 + 32 * b - f0) / 32]? else none)) k

/-- The codes and scale bytes of a final value. -/
def splitFinal (f : Fmt) (n : Nat) (b : List Byte) : List Nat × List Nat :=
  let g := f.groupBytes
  ((List.range n).map fun i => unpack f ((b.drop (i / f.groupElems * g)).take g) (i % f.groupElems),
   (b.drop (ceilDiv n f.groupElems * g)).map (·.toNat))

/-- The writes of flat elements of an unpacked format from an index on. -/
def Tensor.planFlat (t : Tensor) (f0 : Nat) (ws : List Nat) : List (Bool × Nat × List Byte) :=
  let w := t.format.groupBytes
  let n0 := if t.size 0 = 0 then 1 else t.size 0
  ws.zipIdx.map fun (v, i) => (t.sram, t.rowAddr (t.rowCoords ((f0 + i) / n0)) + (f0 + i) % n0 * t.stride0 * w, leBytes w v)

/-- Writes final items: those of a reducing kind in output groups whose rails CB compares (R220), the others as they stand. -/
def Coll.writeItems (c : Coll) (s : State) (d : DieId) (items : List (Nat × Nat)) : Work :=
  let f := c.dst.format
  let val (i : Nat × Nat) : List Nat × List Nat := splitFinal f (c.unitElems i.2) ((c.find 1 .fin 0 0 i.1 i.2).getD [])
  let k : Work := { s := s, st := 0, wrote := [] }
  if clReduces c.qws then
    k.writeGroups d (groupsOf (items.flatMap fun i => c.dst.planFlat (c.flatAt i.1 i.2) (val i).1)) c.rails
  else items.foldl (fun k i => k.writeFlat d c.dst (c.flatAt i.1 i.2) (val i).1 (val i).2) k

/-- Writes every final item of the destination that is in hand and not yet written. -/
def State.collWrite (s : State) (d : DieId) (x : CtxId) : State :=
  match s.collOf d x with
  | none => s
  | some c =>
    let new := c.wanted.filter fun i => decide (i ∉ c.written) && (c.find 1 .fin 0 0 i.1 i.2).isSome
    let f := c.dst.format
    let k := c.writeItems s d new
    let nan := new.any fun i =>
      let (ws, ks) := splitFinal f (c.unitElems i.2) ((c.find 1 .fin 0 0 i.1 i.2).getD [])
      ws.zipIdx.any fun (w, j) => f.decode w (if f.isMx then ks.getD (j / 32) 127 else 127) == .nan
    let s := k.s.updColl d x fun y => { y with written := c.written ++ new, anyNan := c.anyNan || nan, rails := [] }
    if k.st = 0 then s else s.abortColl d x c k.st

/-- Takes every received chunk that can be taken (R326), writes what is final, and ends the collective when it is complete. -/
def State.collPump : Nat → State → DieId → CtxId → State
  | 0, s, _, _ => s
  | fuel + 1, s, d, x =>
    match s.collOf d x with
    | none => s
    | some c =>
      match c.recv.findSome? fun r => (c.parcelOf r.sender r.st r.num).bind fun k => if c.canTake k r then some (k, r) else none with
      | none => s
      | some (k, r) =>
        let g := c.groupOf k r
        if !c.residueOk k g then
          State.collPump fuel (g.foldl (fun s r => s.askAgain d x r.st r.num r.sender true) s) d x
        else match c.take k g with
          | none => s.abortColl d x c 0x02
          | some c' =>
            let s := s.setColl d x (some { c' with recv := c'.recv.filter fun y => decide (y ∉ g) })
            State.collPump fuel (g.foldl (fun s r => s.tookChunk d x c r) s) d x

/-- What follows every change of a collective. -/
def State.collSettle (s : State) (d : DieId) (x : CtxId) : State :=
  match s.collOf d x with
  | none => s
  | some c => (((State.collPump (c.recv.length + 1) s d x).collWrite d x).collFailed d x).collEnd d x

/-! ## Control records (R320, R324 to R326, R330, R338) -/

/-- Sends the tokens of the exchange in hand. -/
def State.sendTokens (s : State) (d : DieId) (x : CtxId) (c : Coll) : State :=
  match c.tokenSteps[c.tokenAt]? with
  | some t => t.to_.foldl (fun s r => s.sendRecord d x c r (c.trailer t.st 7 t.round 0 0 0 0)) s
  | none => s

/-- Goes on to the next exchange once every token of this one has come; a stage has at most 5 rounds. -/
def State.tokenStep : Nat → State → DieId → CtxId → State
  | 0, s, _, _ => s
  | fuel + 1, s, d, x =>
    match s.collOf d x with
    | none => s
    | some c => match c.tokenSteps[c.tokenAt]? with
      | none => s
      | some t =>
        if t.from_.all fun r => decide ((t.st, t.round, r) ∈ c.tokens) then
          let c := { c with tokenAt := c.tokenAt + 1 }
          State.tokenStep fuel ((s.setColl d x (some c)).sendTokens d x c) d x
        else s

/-- Progress of a partner (R336). -/
def Coll.heard (c : Coll) (r now : Nat) : Coll := { c with progress := c.progress.map fun p => if p.1 = r then (r, now) else p }

/-- Acts on a control record of the collective in progress. -/
def State.takeRecord (s : State) (d : DieId) (x : CtxId) (c : Coll) (t : Trailer) : State :=
  let r := t.sender
  let s := s.setColl d x (some (c.heard r s.mono))
  if t.kind = 3 then
    s.updColl d x fun c => { c with credit := c.credit.map fun p => if p.1 = r then (r, p.2 + 1) else p }
  else if t.kind = 4 then
    s.updColl d x fun c => { c with sent := c.sent.filter fun k => !(k.dst == r && k.st == t.stage && k.num == t.chunk) }
  else if t.kind = 5 then
    match c.sent.find? fun k => k.dst == r && k.st == t.stage && k.num == t.chunk with
    | some k => s.sendPayload d x c k
    | none => s
  else if t.kind = 6 then s.abortColl d x c 0x33
  else if t.kind = 7 then
    State.tokenStep 25 (s.updColl d x fun c => { c with tokens := c.tokens ++ [(t.stage, t.chunk, r)] }) d x
  else s

/-- A control record arrives: for the collective in progress, or to wait in the control area for the one that it names. -/
def State.recordArrival (s : State) (d : DieId) (x : CtxId) (kind : Nat) (t : Trailer) : Result :=
  if t.kind ≠ kind ∨ !trailerOk t then .next s
  else match s.collRun d x with
    | some c =>
      if t.planId = c.planId ∧ t.inst = c.inst then .next ((s.takeRecord d x c t).collSettle d x)
      else .next (s.updCtx d x fun y => { y with mail := y.mail ++ [t] })
    | none =>
      if (s.collOf d x).isNone ∧ (s.die d).presence = .inService then .next (s.updCtx d x fun y => { y with mail := y.mail ++ [t] })
      else .next s

/-- GRANT_ARRIVAL (R325). -/
def execGrantArrival (d : DieId) (x : CtxId) (t : Trailer) (s : State) : Result := s.recordArrival d x 3 t

/-- ACKNOWLEDGEMENT_ARRIVAL (R326). -/
def execAcknowledgementArrival (d : DieId) (x : CtxId) (t : Trailer) (s : State) : Result := s.recordArrival d x 4 t

/-- RETRANSMIT_REQUEST_ARRIVAL (R330): the sender still keeps the chunk. -/
def execRetransmitRequestArrival (d : DieId) (x : CtxId) (t : Trailer) (s : State) : Result := s.recordArrival d x 5 t

/-- ABORT_NOTICE_ARRIVAL (R338): forwarded once; the member fails with 0x33. -/
def execAbortNoticeArrival (d : DieId) (x : CtxId) (t : Trailer) (s : State) : Result := s.recordArrival d x 6 t

/-- BARRIER_TOKEN_ARRIVAL (R320). -/
def execBarrierTokenArrival (d : DieId) (x : CtxId) (t : Trailer) (s : State) : Result := s.recordArrival d x 7 t

/-! ## Start (R312 to R319, R325) -/

/-- A collective plan record as read, and whether it holds a reserved value (R312). -/
structure PlanRec where
  planId : Nat
  mask : Nat
  starts : List Nat
  spans : List Nat
  inst : Nat
  steers : List SteerEntry
  reserved : Bool
  deriving DecidableEq, Repr

def parseColl (b : List Byte) : PlanRec :=
  let f (o : Nat) : Nat := leNat ((b.drop o).take 8)
  let spans := (List.range 4).map fun i => bits (f 8) (16 * i + 10) (16 * i + 5)
  let steer (o : Nat) : SteerEntry :=
    { ft := f o, first := bits (f (o + 8)) 63 60, mask := bits (f (o + 8)) 47 0, exits := bits (f (o + 16)) 47 0 }
  { planId := bits (f 0) 63 32, mask := bits (f 0) 19 0,
    starts := (List.range 4).map fun i => bits (f 8) (16 * i + 15) (16 * i + 11), spans := spans,
    inst := bits (f 0x10) 31 0, steers := ([steer 0x20, steer 0x38]).filter (·.ft ≠ 0),
    reserved := bits (f 0) 19 0 == 0 || spans.any fun z => decide (32 < z) }

/-- Coordinates of a node (R287). -/
def nodeCoords : List Nat → Nat → List Nat
  | [], _ => []
  | n :: ns, x => (x % n) :: nodeCoords ns (x / n)

/-- The dies of a mask, ascending. -/
def maskDies (m : Nat) : List DieId := allDies.filter fun d => bit m d.val

/-- Whether a gutter, periodic or one-off, starts at an FT (R51, R57). -/
def State.gutterAt (s : State) (ft : Nat) : Bool :=
  (s.gut.sched.period != 0 && ((ft : Int) - s.gut.sched.phase) % s.gut.sched.period == 0)
    || s.gut.oneOffs.any (·.1 == ft)

def chunkKiB (s : State) (code : Nat) : Nat := if code = 0 then s.setting 0x4400 1 else 2 ^ (code + 3)

/-- Reserved values of the body (R316). -/
def clReserved (d : List Nat) : Bool :=
  let barrier := dOp d == 0x5D
  decide (1 < fSpace (qw d 4)) || decide (1 < fSpace (qw d 7)) || (!barrier && decide (1 < fSpace (qw d 5)))
    || decide (5 < clChunk d) || (clReduces d && !clMax d && clMode d == 3)

/-- Terms per element that the member contributes (R318): the panel count of the descriptor that feeds a stream, else one. A descriptor
that starts after the collective is not yet known here (log 143). -/
def Ctx.termsOf (x : Ctx) (d : List Nat) : Nat :=
  if clS d then match x.streams.find? (·.handle == clHandle d) with
    | some y => y.panels
    | none => 1
  else 1

/-- Slot bytes per chunk byte, in sixteenths (R325). -/
def clWidth (d : List Nat) : Nat := if clCanon d then (if clWide d then 49 else 33) else 16

/-- The collective that a descriptor would start, without checks. -/
def State.makeColl (s : State) (q : QueueId) (d : List Nat) (r : PlanRec) (src dst : Tensor) : Coll :=
  let dies := maskDies r.mask
  let dims := s.topo.plan.sizes.toList
  let pos := nodeCoords dims s.node
  let c : Coll :=
    { ops := [], status := 0, q := q, pos := (s.queue q).next, qws := d, dies := dies, start := r.starts,
      sizes := dies.length :: r.spans, dims := dims,
      me := (dies.takeWhile (· ≠ q.die)).length :: (pos.zip r.starts).map fun (c, s) => c - s,
      ring := s.topo.plan.ring, planId := r.planId, inst := (r.inst + 1) % 2 ^ 32, src := src, dst := dst,
      elems := if dOp d = 0x5B then dst.count else src.count, upc := 1, slots := 0, slotBytes := 0, steers := r.steers, srcs := [], released := [],
      pieces := [], recv := [], sent := [], sentIds := [], takenIds := [], credit := [], tries := [], tokens := [],
      tokenAt := 0, written := [], anyNan := false, anySat := false, rails := [], progress := [] }
  let f := src.format
  let unitBytes := if clReduces d then (if clBf16 d && clMode d == 2 && f == .bf16 then 512 else 1024)
    else 256 / f.groupElems * f.groupBytes + (if f.isMx then 8 else 0)
  let slotBytes := ceilDiv (chunkKiB s (clChunk d) * 1024 * clWidth d / 16) 64 * 64
  let staging := bits (qw d 7) 63 48 * 65536
  { c with
    upc := max 1 (chunkKiB s (clChunk d) * 1024 / unitBytes), slotBytes := slotBytes,
    slots := if c.maxPartners = 0 then 8 else min 8 ((staging - 65536) / (slotBytes * c.maxPartners)) }

/-- Elements that the destination must hold (R315). -/
def Coll.dstElems (c : Coll) : Nat :=
  if c.op = 0x59 then
    let (lo, hi) := c.part c.rank
    min (256 * hi) c.elems - min (256 * lo) c.elems
  else if c.op = 0x5A then c.members * c.elems
  else c.elems

/-- Check 4 (R315, R317). -/
def Coll.formatsBad (c : Coll) (isRoot : Bool) : Bool :=
  let a := c.src.format
  let b := c.dst.format
  if clReduces c.qws then
    if a = .int32 ∨ b = .int32 then
      !(a == .int32 && b == .int32 && (clMax c.qws || (clMode c.qws == 0 && !clWide c.qws)))
    else !a.isFloat || (b != .fp32 && b != .bf16)
  else isRoot && (a != b)

/-- Checks 3 to 11 of R318, of a plan with this many members. -/
def State.collStatus (s : State) (c : Coll) (r : PlanRec) (isRoot : Bool) : Nat :=
  let d := c.qws
  let x := s.getCtx c.q.die c.q.ctx
  let m := c.members
  let barrier := c.op == 0x5D
  let own := nodeCoords c.dims s.node
  let spanBad := (List.range 4).any fun i =>
    let z := r.spans.getD i 1
    let a := r.starts.getD i 0
    let o := own.getD i 0
    decide (c.dims.getD i 1 < a + z) || decide (o < a) || decide (a + z ≤ o)
  /- the whole ring needs the ring-span flag of the issuing quire (R314) -/
  let spans : Bool := match (s.die c.q.die).quire with
    | some k => s.setting 0x4330 (5 + k.val) == 1
    | none => false
  let wrapOk := spans || !(c.ring && decide (1 < c.dims.getD 3 1) && r.spans.getD 3 0 == c.dims.getD 3 1)
  let stream := x.streams.find? (·.handle == clHandle d)
  let ts := if isRoot then [c.src, c.dst] else [c.dst]
  if m ≠ 0 ∧ (c.q.die ∉ c.dies ∨ spanBad ∨ !wrapOk ∨ 524288 < m ∨ (c.op = 0x5B ∧ m ≤ clRoot d)) then 0x02
  else if !barrier && (c.formatsBad isRoot || (isRoot && c.src.badValue false) || c.dst.badValue true
      || (decide (0 < m) && (c.dst.count != c.dstElems || (c.op == 0x5B && isRoot && c.src.count != c.elems)
        || (c.op == 0x5C && c.elems % m != 0)))) then 0x02
  else if clS d && !(match stream with
      | some y => decide (fOff (qw d 5) = y.off) && fSram (qw d 5) == y.sram && y.chunk == clChunk d
      | none => false) then 0x02
  else if clCanon d ∧ afxMaxTerms (clWide d) < m * x.termsOf d then 0x02
  else if clCanon d ∧ (ts.any (fun t => t.org 0 % 256 ≠ 0) ∨ c.src.size 0 % 256 ≠ 0) then 0x02
  else if 0 < c.maxPartners ∧ c.slots < 2 then 0x02
  else if c.steers.any fun e => decide (e.ft < s.now + 50000) then 0x05
  else if c.steers.any fun e => !s.gutterAt e.ft then 0x02
  else if clReduces d && !clMax d && !(x.settingsOk (clMode d) none (some (clWide d))) then 0x02
  else 0

/-- The terms and saturation of the units of a source whose elements are all in memory (R168, R317). -/
def Coll.memUnits (c : Coll) (codes : List Nat) (vals : List Ex) (sat : Nat → Bool) (us : List Nat) : List SrcUnit :=
  us.map fun u =>
    let n := c.unitElems u
    if c.isInt then ⟨u, ((codes.drop (256 * u)).take n).map fun w => [w], sat u⟩
    else
      let rs := ((vals.drop (256 * u)).take n).map term32
      ⟨u, rs.map fun r => [r.v.toNat], rs.any (·.s) || sat u⟩

/-- The final value that an own item of a copying kind is: its codes, and for MX formats the scales of its runs of 32. -/
def Coll.copyValue (c : Coll) (codes scales : List Nat) (f0 n : Nat) : List Byte :=
  packRow c.src.format ((codes.drop f0).take n)
    ++ (if c.src.format.isMx then (List.range (ceilDiv n 32)).flatMap fun b => leBytes 1 (scales.getD (f0 + 32 * b) 127) else [])

/-- The codes, scales and decoded values of every element of a tensor. -/
def State.flatSource (s : State) (d : DieId) (t : Tensor) : State × Nat × List Nat × List Nat × List Ex :=
  (List.range t.rowCount).foldl (fun ((s : State), (st : Nat), (ws : List Nat), (ks : List Nat), (vs : List Ex)) n =>
    let c := t.rowCoords n
    let (s, s1, w) := s.rowCodes d t c
    let (s, s2, k) := s.rowScales d t c
    let per := (List.range w.length).map fun i => k.getD (i / 32) 127
    (s, firstOf [st, s1, s2], ws ++ w, ks ++ per, vs ++ (w.zip per).map fun (w, k) => t.format.decode w k)) (s, 0, [], [], [])

/-- Offers units of the source (of all of it, or of a stream's chunk) to the stages. -/
def Coll.offerFrom (c : Coll) (codes scales : List Nat) (vals : List Ex) (sat : Nat → Bool) (us : List Nat) : Coll :=
  if clReduces c.qws then (c.memUnits codes vals sat us).foldl Coll.offer c
  else
    let own := if c.op = 0x5A then us.map fun u => (c.rank, u)
      else if c.op = 0x5C then c.items.filter fun i => i.1 / c.members == c.rank
      else us.map fun u => (0, u)
    own.foldl (fun c (a, u) =>
      let f0 := (if c.op = 0x5C then a % c.members * c.blockElems else 0) + 256 * u
      c.putFinal 1 a u (c.copyValue codes scales f0 (c.unitElems u))) c

/-- Closes the handle that a collective descriptor names: when it retires or fails (R331). -/
def State.closeHandle (s : State) (q : QueueId) (d : List Nat) : State :=
  if clS d then s.updCtx q.die q.ctx fun x => { x with streams := x.streams.filter (·.handle ≠ clHandle d) } else s

/-- Starts a collective that has passed its checks: slots are granted to every partner, own data enters the first stage, and
records that came early are taken (R325). -/
def State.beginColl (s : State) (q : QueueId) (d : List Nat) (c : Coll) (isRoot : Bool) (rails : List RailObs) : State :=
  let p := (s.queue q).next
  let x := q.ctx
  let (s, st, codes, scales, vals) := if isRoot ∧ !clS d ∧ c.op ≠ 0x5D then s.flatSource q.die c.src else (s, 0, [], [], [])
  if st ≠ 0 then (s.closeHandle q d).failAt q st p
  else
    let ps := c.partners.foldl insertNew []
    let c := { c with credit := ps.map fun r => (r, 0), progress := ps.map fun r => (r, s.mono), rails := rails }
    let s := s.start q d p.after { startedOf p d true with collective := true }
    let early := (s.getCtx q.die x).mail.filter fun t => t.planId == c.planId && t.inst == c.inst
    let s := s.updCtx q.die x fun y => { y with coll := some c, mail := y.mail.filter fun t => decide (t ∉ early) }
    let s := { s with gut := { s.gut with steers := s.gut.steers ++ c.steers.map fun (e : SteerEntry) => (e.ft, e.mask, e.exits) } }
    let s := if c.op = 0x5D then s.sendTokens q.die x c
      else ps.foldl (fun s r => (List.range c.slots).foldl (fun s _ => s.sendRecord q.die x c r (c.trailer 0 3 0 0 0 0 0)) s) s
    let s := if isRoot ∧ !clS d ∧ c.op ≠ 0x5D
      then s.updColl q.die x fun c => c.offerFrom codes scales vals (fun _ => false) (List.range c.units) else s
    let s := early.foldl (fun s t => match s.collOf q.die x with
      | some c => s.takeRecord q.die x c t
      | none => s) s
    s.collSettle q.die x

/-- Reads and checks a collective descriptor in the order of R318, and starts it; the instance field advances (R312, R319). -/
def State.startColl (s : State) (q : QueueId) (rails : List RailObs) (d : List Nat) : State :=
  let p := (s.queue q).next
  let barrier := dOp d == 0x5D
  let place (w n al : Nat) : Nat := s.placeStatus q.die (fSram w) (fOff w) n al
  let pp := place (qw d 4) 128 64
  let tp := if barrier then 0 else place (qw d 5) 128 64
  let sp := place (qw d 7) (bits (qw d 7) 63 48 * 65536) 65536
  if clReserved d then (s.closeHandle q d).failAt q 0x01 p
  else
    let (s, r1, pb) := if pp = 0 then s.readLocal q.die (fSram (qw d 4)) (fOff (qw d 4)) 128 else (s, 0, [])
    let (s, r2, ts) := if !barrier ∧ tp = 0 then s.readTensors q.die (fSram (qw d 5)) (fOff (qw d 5)) 2 else (s, 0, [])
    let r := parseColl pb
    let src := tensorOf ts 0
    let dst := tensorOf ts 1
    let c := s.makeColl q d r src dst
    let isRoot := c.op ≠ 0x5B ∨ c.rank = clRoot d
    let used := if barrier then [] else if isRoot then ts else ts.drop 1
    let outs := used.map fun t => if s.tensorOut q.die t.1 then 0x10 else if t.1.misaligned then 0x11 else 0
    let st := if (pp = 0 ∧ r1 = 0 ∧ r.reserved) ∨ (tp = 0 ∧ r2 = 0 ∧ used.any (·.2)) then 0x01
      else placesStatus ([pp, tp, sp] ++ (if tp = 0 ∧ r2 = 0 then outs else []))
    let st := firstOf [st, r1, r2]
    let st := if st = 0 then s.collStatus c r isRoot else st
    if st ≠ 0 then (s.closeHandle q d).failAt q st p
    else
      let (s, w) := s.writeLocal q.die (fSram (qw d 4)) (fOff (qw d 4) + 0x10) (leBytes 4 c.inst)
      if w ≠ 0 then (s.closeHandle q d).failAt q w p
      else if c.members = 0 ∨ (!barrier ∧ c.elems = 0) then
        let y := bit (qw d 6) 46 ∧ !barrier
        let s := s.closeHandle q d
        s.start q d p.after { startedOf p d true with
          summary := if y then some (bits (qw d 6) 45 42, flagSummary 0 false false) else none }
      else s.beginColl q d c isRoot rails

/-- A collective descriptor: it starts once no other collective of the context is in progress. -/
def State.collective (s : State) (q : QueueId) (op : Nat) (rails : List RailObs) : Result :=
  if (s.collOf q.die q.ctx).isSome then .next s else s.onFront q op fun s d => s.startColl q rails d

/-- ALL-REDUCE (R315). -/
def execAllReduce (r : RailRun) (s : State) : Result := s.collective r.queue 0x58 r.rails

/-- REDUCE-SCATTER (R315). -/
def execReduceScatter (r : RailRun) (s : State) : Result := s.collective r.queue 0x59 r.rails

/-- ALL-GATHER (R315). -/
def execAllGather (q : QueueId) (s : State) : Result := s.collective q 0x5A []

/-- BROADCAST (R315). -/
def execBroadcast (q : QueueId) (s : State) : Result := s.collective q 0x5B []

/-- ALL-TO-ALL (R315). -/
def execAllToAll (q : QueueId) (s : State) : Result := s.collective q 0x5C []

/-- BARRIER (R320). -/
def execBarrier (q : QueueId) (s : State) : Result := s.collective q 0x5D []

/-- STREAM OPEN (R331). -/
def execStreamOpen (q : QueueId) (s : State) : Result :=
  s.onFront q 0x5E fun s d =>
    let p := (s.queue q).next
    let w := qw d 4
    let h := bits (qw d 5) 63 56
    let code := bits (qw d 5) 55 53
    let st := if 1 < fSpace w ∨ 5 < code then 0x01 else s.placeStatus q.die (fSram w) (fOff w) 64 64
    if st ≠ 0 then s.failAt q st p
    else if (s.getCtx q.die q.ctx).streams.any (·.handle == h) then s.failAt q 0x02 p
    else
      (s.start q d p.after (startedOf p d true)).updCtx q.die q.ctx fun x =>
        { x with streams := x.streams ++ [{ handle := h, sram := fSram w, off := fOff w, chunk := code, present := [], terms := [],
                                             panels := 1, sats := [] }] }

/-! ## Chunks -/

/-- Whether a steer holds a chunk of a stage to a rank (R334): a later stage, a neighbour on a steered port's new exit, until the
gutter at the steer FT ends. -/
def State.steerHolds (s : State) (c : Coll) (st r : Nat) : Bool :=
  c.steers.any fun e =>
    decide (e.first ≤ st) && (s.gut.steers.contains (e.ft, e.mask, e.exits) || s.gut.now.any (·.start == e.ft)) && allPorts.any fun p =>
      let x := (s.port p).plan
      bit e.mask p.val && (if bit e.exits p.val then x.b.kind == 1 && x.b.node == (c.nodeDie r).1
        else x.a.kind == 1 && x.a.node == (c.nodeDie r).1)

/-- The next chunk to a partner whose values are in hand. -/
def Coll.nextChunk (c : Coll) (dst : Nat) : Option (Parcel × List Byte) :=
  (c.cutsBetween c.rank dst).findSome? fun k =>
    if (dst, k.x.idx, k.num) ∈ c.sentIds then none else (c.payloadOf k).map fun b => (k, b)

/-- CHUNK_SEND (R324, R325): into a slot that the partner granted. -/
def execChunkSend (d : DieId) (x : CtxId) (dst : Nat) (s : State) : Result :=
  match s.collRun d x with
  | none => .next s
  | some c => match c.nextChunk dst with
    | none => .next s
    | some (k, b) =>
      if (c.credit.any fun p => p.1 == dst && decide (0 < p.2)) ∧ !s.steerHolds c k.x.idx dst then
        let y : SentChunk :=
          { dst := dst, st := k.x.idx, num := k.num, kind := if k.ph = 0 then 2 else 1,
            residue := if c.afxChunk k then residueOf (clWide c.qws) b else 0,
            origin := if Coll.arithmetic k then 0 else crc32c b, payload := b }
        let s := s.updColl d x fun c =>
          { c with sent := c.sent ++ [y], sentIds := c.sentIds ++ [(dst, k.x.idx, k.num)],
                   credit := c.credit.map fun p => if p.1 = dst then (dst, p.2 - 1) else p }
        .next ((((s.sendPayload d x c y).emit d 0x10 2 6 x.val (y.st * 2 ^ 32 + y.num % 2 ^ 32) |>.countColl d 0).collFailed d x))
      else .next s

/-- CHUNK_ARRIVAL (R324, R329, R330): a chunk stands whole in its receive slot. -/
def execChunkArrival (d : DieId) (x : CtxId) (k : ChunkObs) (s : State) : Result :=
  let t := k.trailer
  match s.collRun d x with
  | none => .next s
  | some c =>
    if trailerOk t ∧ (t.planId ≠ c.planId ∨ t.inst ≠ c.inst) then .next ((s.collEvent d x 0x0465 0).abortColl d x c 0x33)
    else match c.parcelOf t.sender t.stage t.chunk with
      | none => .next s
      | some y =>
        if (t.stage, t.chunk, t.sender) ∈ c.takenIds
            ∨ c.recv.any (fun r => r.st == t.stage && r.num == t.chunk && r.sender == t.sender) then .next s
        else
          let c := c.heard t.sender s.mono
          let s := s.setColl d x (some c)
          let bad := !trailerOk t || k.payload.length != c.payloadBytes y || crc32c k.payload != t.payloadCrc
            || (!Coll.arithmetic y && crc32c k.payload != t.originCrc)
          if bad then .next (s.askAgain d x t.stage t.chunk t.sender false)
          else
            let (s, ok) := if Coll.arithmetic y ∨ y.ph = 0 then s.rails d k.rails else (s, true)
            let s := if (Coll.arithmetic y ∨ y.ph = 0) ∧ k.rails ≠ .agree then s.countColl d 3 else s
            if !ok then .next (s.abortColl d x c 0x31)
            else
              let r : RecvChunk := { st := t.stage, sender := t.sender, num := t.chunk, residue := t.residue, payload := k.payload }
              .next ((s.setColl d x (some { c with recv := c.recv ++ [r], rails := k.groups })).collSettle d x)

/-! ## Streams (R331, R332) -/

/-- Whether a flat element is present. -/
def Stream.has (y : Stream) (e : Nat) : Bool := y.present.any fun r => decide (r.1 ≤ e) && decide (e < r.1 + r.2)

/-- The terms of a flat element that wait in canonical staging. -/
def Stream.termsAt (y : Stream) (e : Nat) : Option (List Nat) :=
  (y.terms.find? fun t => decide (t.start ≤ e) && decide (e < t.start + (t.panels.headD []).length)).map fun t =>
    t.panels.map fun p => p.getD (e - t.start) 0

/-- The units of a source chunk. -/
def Coll.chunkUnits (c : Coll) (n : Nat) : List Nat := (List.range c.units).filter fun u => u / c.upc == n

/-- Whether some element of a unit came from a tile that reported S (R153, R171). -/
def Coll.unitSat (c : Coll) (y : Stream) (u : Nat) : Bool :=
  y.sats.any fun r => decide (r.1 < 256 * u + c.unitElems u) && decide (256 * u < r.1 + r.2)

/-- A unit of a stream's terms. -/
def Coll.termUnit (c : Coll) (y : Stream) (u : Nat) : Option SrcUnit :=
  let ts := (List.range (c.unitElems u)).map fun i => y.termsAt (256 * u + i)
  if ts.all (·.isSome) then some ⟨u, ts.map (·.getD []), c.unitSat y u⟩ else none

/-- Terms all of whose units belong to released chunks leave canonical staging (R332). -/
def Stream.free (y : Stream) (upc : Nat) (released : List Nat) : Stream :=
  { y with terms := y.terms.filter fun t =>
      let first := t.start / 256
      let last := (t.start + (t.panels.headD []).length - 1) / 256
      (List.range (last + 1 - first)).any fun i => !released.contains ((first + i) / upc) }

/-- STREAM_CHUNK_RELEASE (R332): the first chunk all of whose elements are present goes to its first stage. -/
def execStreamChunkRelease (d : DieId) (r : RailCtx) (s : State) : Result :=
  let x := r.ctx
  let rails := r.rails
  match s.collRun d x with
  | none => .next s
  | some c =>
    match (s.getCtx d x).streams.find? fun y => clS c.qws && y.handle == clHandle c.qws with
    | none => .next s
    | some y =>
      let whole (n : Nat) : Bool := (c.chunkUnits n).all fun u => (List.range (c.unitElems u)).all fun i => y.has (256 * u + i)
      match (List.range (ceilDiv c.units c.upc)).find? fun n => decide (n ∉ c.released) && whole n with
      | none => .next s
      | some n =>
        let us := c.chunkUnits n
        let s := s.updColl d x fun c => { c with released := c.released ++ [n], rails := rails }
        let terms := us.filterMap (c.termUnit y)
        let free (w : Stream) : Stream := if w.handle = y.handle then w.free c.upc (c.released ++ [n]) else w
        let s := s.updCtx d x fun z => { z with streams := z.streams.map free }
        if clCanon c.qws ∧ afxMaxTerms (clWide c.qws) < c.members * y.panels then .next (s.abortColl d x c 0x02)
        else if clReduces c.qws ∧ terms.length = us.length then
          .next ((s.updColl d x fun c => terms.foldl Coll.offer c).collSettle d x)
        else
          let (s, st, codes, scales, vals) := s.flatSource d c.src
          if st ≠ 0 then .next (s.abortColl d x c st)
          else .next ((s.updColl d x fun c => c.offerFrom codes scales vals (c.unitSat y) us).collSettle d x)

/-! ## Stragglers (R336) -/

/-- Whether the member awaits a chunk, a grant, an acknowledgement or a token of a partner. -/
def Coll.awaits (c : Coll) (r : Nat) : Bool :=
  if c.op = 0x5D then match c.tokenSteps[c.tokenAt]? with
    | some t => decide (r ∈ t.from_ ∧ (t.st, t.round, r) ∉ c.tokens)
    | none => false
  else
    (c.cutsBetween r c.rank).any (fun k => decide ((k.x.idx, k.num, r) ∉ c.takenIds)
        && !(c.recv.any fun y => y.st == k.x.idx && y.num == k.num && y.sender == r))
      || c.sent.any (·.dst == r)
      || (c.credit.any (fun p => p.1 == r && p.2 == 0)
        && (c.cutsBetween c.rank r).any fun k => decide ((r, k.x.idx, k.num) ∉ c.sentIds))

/-- PARTNER_PROGRESS_TIMEOUT (R336): event 0x0464 names the partner's node and rank, once per timer period. -/
def execPartnerProgressTimeout (d : DieId) (x : CtxId) (rank : Nat) (s : State) : Result :=
  match s.collRun d x with
  | none => .next s
  | some c => match c.progress.find? (·.1 == rank) with
    | none => .next s
    | some p =>
      if c.awaits rank ∧ p.2 + s.setting 0x4400 2 * 1000000 ≤ s.mono then
        .next (((s.setColl d x (some (c.heard rank s.mono))).countColl d 5).collEvent d x 0x0464
          ((c.nodeDie rank).1 * 2 ^ 32 + rank))
      else .next s

end Sys2Proof.Machine
end

