-- ==== Sys2Proof/Machine/RemoteRows.lean ====
section
/-! DEFINITION. The rows that end remote operations at their source, and what their owners then do (R272, R281, R63). -/

namespace Sys2Proof.Machine

/-- What the owner of an operation does once it has ended: the stitch-copy engine, a gather engine, a collective. -/
def State.ownerNext (s : State) (o : RemOp) : State :=
  match o.owner with
  | .copier d => s.copyProgress d
  | .descriptor q p => s.gatherProgress q p
  | .collective d x => s.collSettle d x
  | _ => s

/-- The operation that a reply answers. -/
def State.answered (s : State) (d : SrcDie) (r : Reply) : Option RemOp :=
  (s.source d).ops.find? fun o => o.stream == r.stream && o.key == r.key && o.seq == some r.seq

/-- A reply taken at its source, with what follows for its owner. -/
def State.replyIn (s : State) (d : SrcDie) (r : Reply) : State :=
  let o := s.answered d r
  let s := s.takeReply d r
  match o with
  | some o => if (s.srcOp d o.id).isNone then s.ownerNext o else s
  | none => s

/-- REMOTE_REPLY_ARRIVAL (R272, R281): a reply whose CRC fails is discarded; one of the cut is held (R63), for the host edge die
at CD02, where it enters the spine. -/
def execRemoteReplyArrival (d : SrcDie) (r : Reply) (s : State) : Result :=
  if !replyOk r ∨ (s.die (entryDie d)).presence ≠ .inService then .next s
  else if s.inCut (entryDie d) r.replyFt then .next (s.holdPacket (entryDie d) (.reply r) none)
  else .next (s.replyIn d r)

/-- RETRY_TIMEOUT (R281). -/
def execRetryTimeout (d : SrcDie) (id : Nat) (s : State) : Result :=
  match s.srcOp d id with
  | some o =>
    if o.seq.isSome && o.backoff.isNone && s.mayInject d o && decide (o.sentAt + o.timeout ≤ s.mono) then
      let s := s.retryOrEnd d { o with silent := true }
      .next (if (s.srcOp d id).isNone then s.ownerNext o else s)
    else .next s
  | none => .next s

end Sys2Proof.Machine
end

