-- ==== Sys2Proof/Machine/Time.lean ====
section
/-! DEFINITION. Fabric time: alignment, first lock, time symbols and discipline, holdover, the master's loss, the FT step
(R38 to R49, R53). -/

namespace Sys2Proof.Machine

/-! ## Counters -/

/-- Whether a counter agrees with the keeper's FT k to within 1 ns (R38). -/
def agrees (k ft : Nat) : Bool := decide (ft ≤ k + 1) && decide (k ≤ ft + 1)

/-- What a counter lacks to the keeper's FT k; nothing within 1 ns of it. -/
def ftLack (k ft : Nat) : Int := if agrees k ft then 0 else (k : Int) - ft

/-- Applies a change to every FT counter of the module; a counter has 64 bits (R10). -/
def State.mapFt (s : State) (f : Nat → Nat) : State :=
  let g (ft : Nat) : Nat := f ft % 2 ^ 64
  { s with dies := s.dies.map (fun x => { x with ft := g x.ft }), ctlFt := s.ctlFt.map g, edgeFt := s.edgeFt.map g }

/-- Every counter's lack to the keeper's FT k, in the order of `TimeSt.devs`. -/
def State.ftLacks (s : State) (k : Nat) : Vector Int 31 :=
  Vector.ofFn fun i => ftLack k (
    if h : i.val < 20 then s.dies[i.val].ft else if h2 : i.val < 22 then s.ctlFt[i.val - 20] else s.edgeFt[i.val - 22])

/-- FT_ALIGNMENT_SYMBOL (R38, R39): a counter beyond 1 ns of the keeper's steps to it before the first lock; after it the
difference is slewed out. -/
def execFtAlignmentSymbol (s : State) : Result :=
  let k := s.now
  let s := if s.time.firstLocked then { s with time := { s.time with devs := s.ftLacks k } }
    else s.mapFt fun ft => if agrees k ft then ft else k
  .next (s.send (.align k))

/-- Records the start-up pair of every die and its trace record (R40). -/
def State.recordPairs (s : State) : State :=
  allDies.foldl (fun s d => (s.updDie d fun x => { x with startPair := (x.cycles, x.ft) }).traceTime d) s

/-! ## Parent selection and state (R43, R45, R47) -/

/-- A port in service for time symbols: an up fabric port (R41). -/
def State.timePort (s : State) (p : PortId) : Bool := decide (p.val < 44) && (s.port p).state == .up

/-- A candidate for parent: neighbour locked at the current epoch, offset measured on this exit, not removed (R42, R43). -/
def State.candidate (s : State) (p : PortId) : Bool :=
  let t := (s.port p).time
  s.timePort p && t.locked && t.epoch == s.time.epoch && t.theta.isSome && !t.noParent && !t.remeasure

/-- The parent: of the candidates under the master with the lowest node, the fewest hops, then the lowest port (R43, R47). -/
def State.pickParent (s : State) : Option PortId :=
  let cs := allPorts.filter s.candidate
  let m := (cs.map fun p => (s.port p).time.node).foldl Nat.min 65535
  let cs := cs.filter fun p => (s.port p).time.node == m
  let h := (cs.map fun p => (s.port p).time.hops).foldl Nat.min (2 ^ 32)
  cs.find? fun p => (s.port p).time.hops == h

/-- The reported error bound in ns, rounded up (log 157), which the thresholds of R45 use: at a guard of 500 ns it passes half of it
230 ms after the loss. -/
def State.errorBound (s : State) : Nat := match s.time.lock with
  | .unlocked => 0xFFFFFFFF
  | .locked => 20
  | .holdover | .degraded => 20 + (s.mono - s.time.lostAt + 999999) / 1000000

/-- Time events name the governing control die (R67). -/
def State.timeEvent (s : State) (code : Nat) : State := s.raise { code := code, unit := uCtl s.holder }

/-- Takes the parent afresh: loss with no other candidate enters holdover with event 0x0602 (R43, R45). -/
def State.reparent (s : State) : State :=
  if s.time.master then { s with time := { s.time with parent := none, noPathSince := none } }
  else
    let p := s.pickParent
    let s := { s with time := { s.time with
      parent := p,
      masterNode := (p.map fun p => (s.port p).time.node).getD s.time.masterNode,
      noPathSince := if p.isSome then none else some (s.time.noPathSince.getD s.mono) } }
    if p.isNone ∧ s.time.lock = .locked then
      State.timeEvent { s with time := { s.time with lock := .holdover, lostAt := s.mono } } 0x0602
    else s

/-- An accepted offset from the parent, in ps: beyond 100 µs it unlocks; otherwise it is slewed out, and the state is
locked below 50 ns (R39, R45, R46). -/
def State.discipline (s : State) (theta : Int) : State :=
  let s := { s with time := { s.time with offset := theta } }
  if !s.time.firstLocked then s
  else if 100000000 < theta.natAbs then
    let was := s.time.lock
    let s := { s with time := { s.time with lock := .unlocked, slew := 0 } }
    if was = .unlocked then s else s.timeEvent 0x0605
  else
    let s := { s with time := { s.time with slew := theta / 1000 } }
    if s.time.lock = .locked ∨ 50000 ≤ theta.natAbs then s
    else
      let was := s.time.lock
      let s := { s with time := { s.time with lock := .locked } }
      if was = .unlocked then s else s.timeEvent 0x0604

/-! ## Time symbols (R41 to R43, R51, R53) -/

/-- The symbol that a port sends now; before any was received on the port it carries 0 and 0 for that one's times (log 147). -/
def State.symbolOf (s : State) (p : PortId) : TimeSymbol :=
  let t := (s.port p).time
  { depart := s.now, rxDepart := t.rxDepart, rxArrive := t.rxArrive,
    locked := s.time.lock == .locked || s.time.master, epoch := s.time.epoch,
    hops := match s.time.parent with
      | some q => (s.port q).time.hops + 1
      | none => 0,
    node := s.time.masterNode, schedule := s.gut.sched.ident }

/-- TIME_SYMBOL_SEND (R41). -/
def execTimeSymbolSend (p : PortId) (s : State) : Result :=
  if s.timePort p then
    .next ((s.updPort p fun x => { x with time := { x.time with sent := some s.now } }).send (.timeSymbol p (s.symbolOf p)))
  else .next s

/-- Internal path difference plus the fibre correction of a port, in ps (R42). -/
def State.asym (s : State) (p : PortId) : Int :=
  s.vendor.asym.getD p.val 0 + signed32 (s.setting 0x4110 (p.val + 1))

/-- Link delay and offset in ps from one exchange (R41). -/
def linkDelay (t1 t2 t3 t4 : Nat) (asym : Int) : Int := (((t4 : Int) - t1) - ((t3 : Int) - t2)) * 500 - asym

def offsetOf (t1 t2 : Nat) (d : Int) : Int := ((t2 : Int) - t1) * 1000 - d

/-- Marks a port out of two-ended actions or of parent candidacy, with event 0x0607 when newly so (R43, R51, R53).
A port out of candidacy stays out (log 151). -/
def State.exclude (s : State) (p : PortId) (two noParent : Bool) : State :=
  let t := (s.port p).time
  let new := (two && !t.oneEnded) || (noParent && !t.noParent)
  let s := s.updPort p fun x => { x with time := { x.time with oneEnded := two, noParent := t.noParent || noParent } }
  if new then s.raise { code := 0x0607, unit := uPort p (s.port p).exit } else s

/-- What one symbol teaches its port: the exchange's d and θ once this end has sent a symbol (log 147), and the neighbour's lock, epoch,
hops and schedule. -/
def State.learn (s : State) (p : PortId) (sym : TimeSymbol) : State :=
  let x := s.port p
  let d := linkDelay sym.rxDepart sym.rxArrive sym.depart s.now (s.asym p)
  let measured := x.time.sent.isSome
  s.updPort p fun x => { x with time := { x.time with
    rxDepart := sym.depart, rxArrive := s.now, locked := sym.locked, epoch := sym.epoch, hops := sym.hops,
    node := sym.node, schedule := sym.schedule,
    delay := if measured then some d else x.time.delay,
    theta := if measured then some (offsetOf sym.rxDepart sym.rxArrive d) else x.time.theta,
    remeasure := x.time.remeasure && !measured } }

/-- The highest epoch seen is followed, whatever the neighbour's time state; it, or an equal epoch of a lower node, takes the
master role away (R47). -/
def State.followEpoch (s : State) (sym : TimeSymbol) : State :=
  if decide (s.time.epoch < sym.epoch)
      || (s.time.master && sym.epoch == s.time.epoch && decide (sym.node < s.time.masterNode)) then
    { s with time := { s.time with epoch := sym.epoch, master := false, masterNode := sym.node } }
  else s

/-- TIME_SYMBOL_RECEIVE (R41, R43, R45, R53). -/
def execTimeSymbolReceive (p : PortId) (sym : TimeSymbol) (s : State) : Result :=
  if !s.timePort p then .next s else
  let s := (s.learn p sym).followEpoch sym
  let t := (s.port p).time
  let far := match t.delay with
    | some d => decide (((s.gut.sched.guard : Int) - 40) * 1000 < d)
    | none => false
  let stray := match t.theta with
    | some th => decide (100000 < th.natAbs) && sym.locked && s.time.lock == .locked && s.time.parent != some p
    | none => false
  let s := (s.exclude p (far || sym.schedule != s.gut.sched.ident) stray).reparent
  match s.time.parent, (s.port p).time.theta with
  | some q, some th => .next (if q = p then s.discipline th else s)
  | _, _ => .next s

/-! ## First lock (R40, R48) -/

/-- FIRST_LOCK (R40, R48, R280): a master starts FT at the larger of the endpaper's FT + 1 s and 0x4101:03; another module
takes its parent's FT. Each die's epoch boundary becomes its first-lock FT. -/
def execFirstLock (s : State) : Result :=
  if s.time.firstLocked then .next s else
  let lock (s : State) (m : Bool) : State :=
    let node := if m then s.node else s.time.masterNode
    let s := { s with time := { s.time with
      lock := .locked, firstLocked := true, master := m, offset := 0, slew := 0, masterNode := node } }
    let s := { s with dies := s.dies.map fun (x : Die) => { x with boundary := (x.ft : Int) } }
    s.recordPairs.timeEvent 0x0601
  if s.setting 0x4101 1 = 1 then
    let start := max (if s.endValid then s.endFt + 1000000000 else 0) (s.setting 0x4101 3)
    .next (lock (s.mapFt fun _ => start) true)
  else match s.time.parent with
    | some p =>
      let th := ((s.port p).time.theta.getD 0) / 1000
      .next (lock (s.mapFt fun ft => addInt ft th) false)
    | none => .next s

/-- DEGRADED_HOLDOVER_ENTRY (R45): the holdover bound exceeds half the guard. -/
def execDegradedHoldoverEntry (s : State) : Result :=
  if s.time.lock = .holdover ∧ s.gut.sched.guard < 2 * s.errorBound then
    .next (State.timeEvent { s with time := { s.time with lock := .degraded } } 0x0603)
  else .next s

/-- MASTER_LOSS_TIMEOUT (R47): the standby master claims the role under the next time epoch, without a step. It is locked from then on
(log 148). -/
def execMasterLossTimeout (s : State) : Result :=
  match s.time.noPathSince with
  | some t =>
    if s.setting 0x4101 1 = 2 ∧ !s.time.master ∧ s.time.firstLocked ∧ t + s.setting 0x4101 2 * 1000000 ≤ s.mono then
      let time := { s.time with master := true, epoch := s.time.epoch + 1, masterNode := s.node, lock := .locked,
                                parent := none, noPathSince := none, slew := 0 }
      .next (State.timeEvent { s with time := time } 0x0606)
    else .next s
  | none => .next s

/-! ## The FT step (R46) -/

/-- Moves by d what the module holds for comparison with its own FT on a die: epoch boundary, reply-cache horizon and
last-activity FTs (of records, and of result entries, which become the horizon), held releases, armed kind 4 ribbons. -/
def Die.moveFt (x : Die) (d : Int) : Die :=
  { x with boundary := x.boundary + d, horizon := x.horizon + d,
           recs := x.recs.map (fun r => { r with last := r.last + d }),
           results := x.results.map (fun r => { r with ft := r.ft + d }),
           rel := x.rel.map (fun r => { r with ft := r.ft + d }),
           trace := { x.trace with ribbons := x.trace.ribbons.map fun (b : Ribbon) =>
             if b.st = .armed ∧ b.kind = 4 then { b with value := addInt b.value d } else b } }

/-- The gutter schedule's FTs, in force and staged, those of the gutter in progress, and the staged plan commit. -/
def State.moveSchedules (s : State) (d : Int) : State :=
  let move (c : Schedule) : Schedule := { c with phase := c.phase + d }
  let period : Int := s.setting 0x4120 1
  let s := s.setSetting 0x4120 2 (((s.setting 0x4120 2 : Int) + d) % period).toNat
  { s with gut := { s.gut with sched := move s.gut.sched,
                               staged := s.gut.staged.map fun (c, t) => (move c, t + d),
                               now := s.gut.now.map fun (g : Gutter) => { g with start := addInt g.start d },
                               lastStart := s.gut.lastStart.map fun g => addInt g d },
           topo := { s.topo with commit := s.topo.commit.map fun (t, r) => (addInt t d, r) } }

/-- A TIME command of channel 0 that is in hand (R380): its record. The status 0x20 while CD02 is isolated (R389), and 0x01
for a reserved operation (R13), end it in its place. -/
def State.timeCommand (s : State) (seq op : Nat) (run : HostCmd → State) : Result :=
  match s.ready 0 seq 0x07 with
  | some x =>
    let k := bits (x.qw 2) 63 60
    if k = 0 ∨ 3 < k then .next (s.finish 0 seq 0x01 [])
    else if k ≠ op then .next s
    else if !s.hostPath then .next (s.finish 0 seq 0x20 [])
    else .next (run x)
  | none => .next s

/-- Every counter takes the new FT at one instant, and all that is compared with it moves by the same amount (R46). -/
def State.stepFt (s : State) (t : Nat) : State :=
  let d : Int := (t : Int) - s.now
  let s := s.moveSchedules d
  let s := { s with dies := s.dies.map fun (x : Die) => x.moveFt d,
                    ports := s.ports.map fun (x : Port) => { x with time := { x.time with sent := none } } }
  (s.mapFt fun ft => addInt ft d).recordPairs

/-- FT_STEP (R46): only while every quire is stopped. -/
def execFtStep (seq : Nat) (s : State) : Result :=
  s.timeCommand seq 3 fun x =>
    if !s.allStopped then s.finish 0 seq 0x06 []
    else (s.stepFt (x.qw 3)).finish 0 seq 0 []

end Sys2Proof.Machine
end

