-- ==== Sys2Proof/Machine/Topology.lean ====
section
/-! DEFINITION. Ports, topology and routing: the dimension plan, the routing of a packet, port states and discovery, joining, state
words and ring maps, the plan's commit, congestion records (R284 to R308). -/

namespace Sys2Proof.Machine

/-! ## Coordinates (R287) -/

def Plan.size (p : Plan) (d : Nat) : Nat := p.sizes.toList.getD d 1

def Plan.stride (p : Plan) (d : Nat) : Nat := (p.sizes.toList.take d).foldl (· * ·) 1

/-- M: nodes below it are modules. -/
def Plan.modules (p : Plan) : Nat := p.stride 4

def Plan.coord (p : Plan) (n d : Nat) : Nat := n / p.stride d % (if p.size d = 0 then 1 else p.size d)

/-- The node with coordinate d replaced. -/
def Plan.moved (p : Plan) (n d x : Nat) : Nat := n - p.coord n d * p.stride d + x * p.stride d

/-- Whether a dimension is the ring (R286). -/
def Plan.isRing (p : Plan) (d : Nat) : Bool := p.ring && d == 3

/-- The planned neighbour through the exit in service (R284). -/
def Port.exitPlan (x : Port) : ExitPlan := if x.exit = 0 then x.plan.a else x.plan.b

/-- Up ports to a coordinate of a dimension (R299, R301). -/
def State.upTo (s : State) (d x : Nat) : List PortId :=
  let node := s.topo.plan.moved s.node d x
  allPorts.filter fun p =>
    let e := (s.port p).exitPlan
    (s.port p).state == .up && e.kind == 1 && e.dim == d && e.node == node

/-- What the route tables hold for a port: the exit in service of an up port, or, while the gutter of its steer lasts, the old exit
(R307). -/
def Port.routed (x : Port) : Option ExitPlan := match x.old with
  | some e => some (if e = 0 then x.plan.a else x.plan.b)
  | none => if x.state = .up then some x.exitPlan else none

/-- Ports that route to a coordinate of a dimension and permit a tag. -/
def State.routeTo (s : State) (d x tag : Nat) : List PortId :=
  let node := s.topo.plan.moved s.node d x
  allPorts.filter fun p => (match (s.port p).routed with
    | some e => e.kind == 1 && e.dim == d && e.node == node
    | none => false) && s.permits p tag

/-- Up ports of a dimension. -/
def State.upIn (s : State) (d : Nat) : List PortId :=
  allPorts.filter fun p => (s.port p).state == .up && (s.port p).exitPlan.kind == 1 && (s.port p).exitPlan.dim == d

/-! ## State words and ring maps (R301) -/

/-- The mask of coordinates of a dimension to which this module has an up port. -/
def State.stateMask (s : State) (d : Nat) : Nat :=
  sumNat ((List.range (s.topo.plan.size d)).map fun x =>
    if x ≠ s.topo.plan.coord s.node d ∧ !(s.upTo d x).isEmpty then 2 ^ x else 0)

/-- This module's own two ring links, as a map. -/
def State.ownRing (s : State) : Nat :=
  let n := s.topo.plan.size 3
  let c := s.topo.plan.coord s.node 3
  if !s.topo.plan.ring then 0 else
  (if (s.upTo 3 ((c + 1) % n)).isEmpty then 0 else 2 ^ c)
    + (if (s.upTo 3 ((c + n - 1) % n)).isEmpty then 0 else 2 ^ ((c + n - 1) % n))

/-- The ring link map: a link is up where the modules at both its ends say so. -/
def State.ringMap (s : State) : Nat :=
  let n := s.topo.plan.size 3
  let c := s.topo.plan.coord s.node 3
  let view (o i : Nat) : Bool := bit (if o = c then s.ownRing else SMap.get 0 s.topo.ringBits o) i
  if !s.topo.plan.ring then 0 else
  sumNat ((List.range n).map fun i => if view i i && view ((i + 1) % n) i then 2 ^ i else 0)

/-- DIMENSION_STATE_WORD_SEND (R301): the word to every up neighbour of each fully connected dimension; the ring map when it has
changed since it was last flooded. -/
def execDimensionStateWordSend (s : State) : Result :=
  let plan := s.topo.plan
  let words := (List.range 4).flatMap fun d =>
    if plan.isRing d ∨ plan.size d ≤ 1 then [] else (s.upIn d).map fun p => Out.stateWord p d (s.stateMask d)
  let s := s.sendAll words
  if plan.ring ∧ s.topo.ringSent ≠ some s.ownRing then
    let s := s.sendAll ((s.upIn 3).map fun p => Out.ringMap p (plan.coord s.node 3) s.ownRing)
    .next { s with topo := { s.topo with ringSent := some s.ownRing } }
  else .next s

/-- DIMENSION_STATE_WORD_RECEIVE (R301). -/
def execDimensionStateWordReceive (p : PortId) (dim mask : Nat) (s : State) : Result :=
  if (s.port p).state = .up ∧ (s.port p).exitPlan.kind = 1 ∧ (s.port p).exitPlan.dim = dim ∧ !s.topo.plan.isRing dim then
    .next { s with topo := { s.topo with
      words := s.topo.words.filter (fun (q, _, _) => q ≠ p.val) ++ [(p.val, dim, mask)] } }
  else .next s

/-- RING_LINK_MAP_RECEIVE (R301): a map that changes what this module holds of its origin is repeated on the other ring ports. -/
def execRingLinkMapReceive (p : PortId) (origin map : Nat) (s : State) : Result :=
  if p ∈ s.upIn 3 ∧ s.topo.plan.ring ∧ origin < s.topo.plan.size 3 ∧ origin ≠ s.topo.plan.coord s.node 3
      ∧ SMap.get 0 s.topo.ringBits origin ≠ map then
    let s := { s with topo := { s.topo with ringBits := SMap.set 0 s.topo.ringBits origin map } }
    .next (s.sendAll (((s.upIn 3).filter (· ≠ p)).map fun q => Out.ringMap q origin map))
  else .next s

/-! ## Routing (R298 to R305) -/

/-- Whether a port has trained: it carries link control and management traffic (R292, R295). -/
def Port.trained (x : Port) : Bool := match x.state with
  | .discovery | .up | .held | .disabled => true
  | .unused | .training | .down => false

/-- What a module does with a packet. -/
inductive Route where
  | deliver
  | send (p : PortId) (k : FabricPacket)
  | none
  deriving Repr

/-- A ring hop (R303): the direction is chosen at the first one; the wrap link sets W. -/
def State.ringHop (s : State) (k : FabricPacket) (t : Nat) : Route :=
  let n := s.topo.plan.size 3
  let c := s.topo.plan.coord s.node 3
  let f := (t + n - c) % n
  let spans := match s.quireOfTag k.tag with
    | some q => s.setting 0x4330 (5 + q.val) == 1
    | none => false
  let map := s.ringMap
  let clear (dir : Nat) : Bool :=
    if dir = 1 then (List.range f).all fun i => bit map ((c + i) % n)
    else (List.range (n - f)).all fun i => bit map ((c + 2 * n - 1 - i) % n)
  let first := if spans then (if f ≤ n - f then 1 else 2) else if c < t then 1 else 2
  let turn := spans && !clear first && !k.detour
  let k : FabricPacket :=
    if k.ring = 1 ∨ k.ring = 2 then k
    else { k with ring := if turn then 3 - first else first, detour := k.detour || turn }
  let next := if k.ring = 1 then (c + 1) % n else (c + n - 1) % n
  let wraps := if k.ring = 1 then decide (c + 1 = n) else decide (c = 0)
  match s.emptiest (s.routeTo 3 next k.tag) with
  | some p => .send p { k with wrap := k.wrap || wraps }
  | none => .none

/-- The detour of R302 in dimension d towards coordinate t. -/
def State.detour (s : State) (k : FabricPacket) (dst d t : Nat) : Route :=
  let plan := s.topo.plan
  let c := plan.coord s.node d
  let k := { k with detour := true, vc := true }
  /- the d-neighbours whose state word shows a link to N -/
  let shows := (List.range (plan.size d)).filter fun i => i ≠ t && i ≠ c &&
    (s.upTo d i).any fun p => s.topo.words.any fun (q, e, m) => q == p.val && e == d && bit m t
  if shows ≠ [] then
    let ok := shows.filter fun i => (s.routeTo d i k.tag).any fun p => match (s.port p).word with
      | some w => k.tag == 0 || w.shared || w.tag == k.tag
      | none => false
    let bytes (i : Nat) : Nat := sumNat ((s.upTo d i).map fun p => (s.port p).queued)
    let low := (ok.map bytes).foldl Nat.min (2 ^ 64)
    match ok.find? fun i => bytes i == low with
    | some i => (match s.emptiest (s.routeTo d i k.tag) with
      | some p => .send p k
      | none => .none)
    | none => .none
  else match [1, 2, 3].find? fun e => d < e && !plan.isRing e && plan.coord s.node e ≠ plan.coord dst e with
    | some e => (match s.emptiest (s.routeTo e (plan.coord dst e) k.tag) with
      | some p => .send p k
      | none => .none)
    | none => .none

/-- The valid service node entry of a node (R305). -/
def State.serviceNode (s : State) (node : Nat) : Option Nat :=
  ((List.range 128).map fun i => s.setting 0x4312 (i + 1)).find? fun e => bit e 63 && bits e 47 32 == node

/-- The routing of R299. -/
def State.route (s : State) (k : FabricPacket) : Route :=
  let plan := s.topo.plan
  if k.dst = s.node then .deliver else
  let entry := if plan.modules ≤ k.dst then s.serviceNode k.dst else none
  if plan.modules ≤ k.dst ∧ entry.isNone then .none else
  let dst := match entry with
    | some e => bits e 31 16
    | none => k.dst
  if dst = s.node then
    match entry with
    | some e => (match allPorts.find? fun p => decide (44 ≤ p.val) && p.val == bits e 55 48 && s.carries p k.tag with
      | some p => .send p k
      | none => .none)
    | none => .deliver
  else match [0, 1, 2, 3].find? fun d => plan.coord s.node d ≠ plan.coord dst d with
    | none => .none
    | some d =>
      let t := plan.coord dst d
      if plan.isRing d then s.ringHop k t
      else match s.emptiest (s.routeTo d t k.tag) with
        | some p => .send p k
        | none => if k.detour then .none else s.detour k dst d t

/-- A packet without a way (R304): a request is answered NK 0x20, anything else is discarded. `d` answers for the module. -/
def State.unroutable (s : State) (d : DieId) (k : FabricPacket) : State :=
  let s := s.noteUnroutable k.dst
  match k.body with
  | .request r => s.refuseAt d r
  | .reply _ => s

/-- The attachment die at which management traffic reaches the control die that governs; none when both its attachments are lost
(R22, R27, R295). -/
def State.firmwareDie (s : State) : Option DieId := (s.ctlDies s.holder).head?

/-- The compute die a delivered packet leaves the spine at: the target's, of a window the entry of its granule, or the source's of a
reply. -/
def State.deliverDie (s : State) (k : FabricPacket) (d : DieId) : DieId :=
  if k.tag = 0 then s.firmwareDie.getD d else
  match k.body with
  | .request r => (match (gaddr r.target).place with
    | .ok (.die e _ _) => e
    | .ok (.obj e _) => e
    | .ok (.window x) => (match s.quireOfTag r.tag with
      | some q => (match s.spreadPlace q x with
        | some (e, _) => e
        | none => d)
      | none => d)
    | _ => d)
  | .reply r => if h : r.die < 21 then entryDie ⟨r.die, h⟩ else d

/-- The die at which a packet enters or answers: its port's, or for the module's own packets the source's. -/
def routeDie (arrival : Option PortId) (k : FabricPacket) : DieId := match arrival with
  | some p => portDie p
  | none => match k.body with
    | .request r => if h : r.srcDie < 21 then entryDie ⟨r.srcDie, h⟩ else 2
    | .reply _ => 2

/-- Routes a packet one hop; the reply of a multicast copy that passed here joins its combination (R267); a module out of the fabric carries management traffic only, and discards a multicast copy; management
traffic reaches no control die without a spine path (R27, R294, R299, R304). -/
def State.routePacket (s : State) (arrival : Option PortId) (k : FabricPacket) : State :=
  let d := routeDie arrival k
  if k.dst = 0xFFFF then
    match k.body with
    | .request r =>
      if !s.topo.joined ∧ k.tag ≠ 0 then s.noteUnroutable 0xFFFF
      else if !requestOk r then s.sendReply d r 0x20 true false false []
      else s.multicast d arrival k.hops r
    | .reply _ => s.unroutable d k
  else if (!s.topo.joined ∧ k.tag ≠ 0) ∨ (k.tag = 0 ∧ k.dst = s.node ∧ s.firmwareDie.isNone) then s.unroutable d k
  else match (match k.body with
      | .reply y => if k.dst ≠ s.node ∧ replyOk y then (s.combineFor y).map fun c => (c, y) else none
      | .request _ => none) with
  | some (c, y) => s.combineReply d c.id y.status y.nk y.hot
  | none => match s.route k with
    | .deliver => s.send (.spine d { dst := s.deliverDie k d, vc := none, body := k.body })
    | .send p k => s.enqueuePort p k
    | .none => s.unroutable d k

/-- Answers a fenced request with NK = 1 and status 0x13 on its arrival port, in whose egress queue the answer waits (R54, R296). -/
def State.fence (s : State) (p : PortId) (k : FabricPacket) : State :=
  let s := (s.countRoute 1).raise { code := 0x0409, unit := uPort p (s.port p).exit }
  match k.body with
  | .request r =>
    let (epoch, s) := s.targetEpoch r
    let y := replyOf r (requestKey (portDie p) r) (s.edgeFt.toList.getD (p.val / 6) 0) epoch 0x13 true false false []
    s.enqueuePort p { formed (.reply y) with tag := k.tag, hops := 1 }
  | .reply _ => s

/-- Whether a router discards a packet for its age: older than the packet lifetime at the die where it stands (R276). -/
def State.aged (s : State) (d : DieId) (b : Body) : Bool := decide (Body.stamp b + 1000000 < (s.die d).ft)

/-- FABRIC_PACKET_ROUTE (R296, R298, R299, R304): a packet from the spine gets its routing word here. The hop count is incremented at
every module, and a packet at 24 hops is discarded; so is one older than the packet lifetime (R276). A multicast copy waits at its port
until every die that it goes to has room (R275). -/
def execFabricPacketRoute (arrival : Option PortId) (k : FabricPacket) (s : State) : Result :=
  let enters : Bool := match arrival with
    | some p => (s.port p).trained && (k.tag == 0 || (s.port p).state == .up)
    | none => true
  if !enters then .next s else
  match (match arrival with
    | some p => if s.permits p k.tag then none else some p
    | none => none) with
  | some p => .next (s.fence p k)
  | none =>
    let k := match arrival with
      | some _ => k
      | none => formed k.body
    let k := { k with hops := k.hops + 1 }
    let waits : Bool := k.dst == 0xFFFF && (match k.body with
      | .request r => !s.deliveryRoom r
      | .reply _ => false)
    if s.aged (routeDie arrival k) k.body ∨ waits then .next s
    else if 24 ≤ k.hops then
      .next ((s.countRoute 2).raise { code := 0x040A, unit := match arrival with
        | some p => uPort p (s.port p).exit
        | none => uCtl s.holder })
    else .next (s.routePacket arrival k)

/-! ## Joining (R294) -/

/-- Whether every present dimension has its minimum of up ports. -/
def State.joinMet (s : State) : Bool :=
  let p := s.topo.plan
  [0, 1, 2, 3].all fun d => p.size d ≤ 1 || decide (p.mins.toList.getD d 1 ≤ (s.upIn d).length)

/-- Evaluates the join condition once boot step 6 has begun. -/
def State.rejoin (s : State) : State :=
  if !s.topo.watch ∨ s.topo.joined = s.joinMet then s
  else
    let s := { s with topo := { s.topo with joined := s.joinMet } }
    s.raise { code := if s.topo.joined then 0x0406 else 0x0407, unit := uCtl s.holder }

/-! ## Port states (R292, R306) -/

/-- Leaves a port's egress queue empty and routes its packets again (R306 step 1). A multicast copy has no other port (R267). -/
def State.reroute (s : State) (p : PortId) : State :=
  let ks := (s.port p).egress ++ (s.port p).backlog
  ks.foldl (fun s k => if k.dst = 0xFFFF then s.noteUnroutable 0xFFFF else s.routePacket none k)
    (s.updPort p fun x => { x with egress := [], backlog := [] })

/-- Puts a port into a state with the low byte of its cause; what depends on up ports follows (R43, R294, R306). -/
def State.setPort (s : State) (p : PortId) (st : PortState) (cause : Nat) : State :=
  let wasUp := (s.port p).state == .up
  let s := s.updPort p fun x =>
    { x with state := st, cause := cause % 256, since := s.mono, recheck := false, old := if st = .down then none else x.old,
             word := match st with
               | .up | .held | .disabled => x.word
               | _ => none }
  let s := if wasUp && st != .up then
      State.reroute { s with topo := { s.topo with words := s.topo.words.filter fun (q, _, _) => q ≠ p.val } } p
    else s
  if wasUp != (st == .up) then s.rejoin.reparent else s

/-- Whether the port's eye-safety state lets it train (R363, R364). -/
def Port.lit (x : Port) : Bool := x.opt.fibre == .normal || x.opt.fibre == .answered

/-- A port goes down: event and cause (R292). -/
def State.portFell (s : State) (p : PortId) (code : Nat) : State :=
  let s := s.setPort p .down code
  if code = 0x0402 then s.raise { code := 0x0402, unit := uPort p (s.port p).exit } else s

/-- PORT_DOWN (R292, R306, R360, R361, R27): an up or trained port loses its link; in a switchover pause no link is declared down. -/
def execPortDown (p : PortId) (why : PortDownCause) (s : State) : Result :=
  if !(s.port p).trained ∨ s.pause.isSome then .next s else
  match why with
  | .combFailed => .next ((s.raise { code := 0x050B, unit := uLine (p.val / 3) 0xFFF }).portFell p 0x050B)
  | .lockLost | .retries | .slotsBelowEight | .spineLost => .next (s.portFell p 0x0402)

/-- In-service slots of a port (R345). -/
def Port.inService (x : Port) : Nat := (x.opt.slots.toList.filter fun k => k.st == .inService).length

/-- Whether a port's edge die has its spine path (R27). -/
def State.spinePath (s : State) (p : PortId) : Bool := s.opticPath (p.val / 6)

/-- PORT_TRAINED (R292, R367): 8 slots or more have passed their markers; an unplanned port is held. -/
def execPortTrained (p : PortId) (s : State) : Result :=
  let x := s.port p
  if !x.lit ∨ x.inService < 8 ∨ !s.spinePath p then .next s
  else
    let normal (s : State) : State := s.updPort p fun x => { x with opt := { x.opt with fibre := .normal } }
    match x.state with
    | .training => .next (normal (s.setPort p .discovery 0))
    | .unused => .next (normal (s.setPort p .held 0))
    | _ => .next s

/-- PORT_TRAINING_TIMEOUT (R291, R292): training ends after 10 ms, whether or not the plan uses the exit. -/
def execPortTrainingTimeout (p : PortId) (s : State) : Result :=
  let x := s.port p
  if x.state = .training ∧ x.since + 10000000 ≤ s.mono then .next (s.portFell p 0x0402) else .next s

/-- Slots of a port begin to verify their markers (R367 step 3). -/
def PortOpt.retrain (o : PortOpt) : PortOpt :=
  { o with slots := o.slots.map fun (k : SlotSt) => match k.st with
    | .withdrawn | .inService => if k.service then { k with st := .withdrawn, training := true, good := 0 } else k
    | _ => k }

/-- A port enters training on an exit. -/
def State.startTraining (s : State) (p : PortId) (exit : Nat) : State :=
  let s := s.setPort p .training 0
  s.updPort p fun x => { x with exit := exit, opt := x.opt.retrain }

/-- PORT_TRAINING_RETRY (R292, R363): every 100 ms, unless the fibre is open. -/
def execPortTrainingRetry (p : PortId) (s : State) : Result :=
  let x := s.port p
  if x.state = .down ∧ x.lit ∧ s.spinePath p ∧ s.fabricOn ∧ x.since + 100000000 ≤ s.mono then .next (s.startTraining p x.exit) else .next s

/-! ## Discovery (R290, R291) -/

/-- DISCOVERY_WORD_SEND (R290). -/
def execDiscoveryWordSend (p : PortId) (s : State) : Result :=
  let x := s.port p
  if !x.trained then .next s else
  .next (s.send (.discovery p
    { node := s.node, port := p.val, exit := x.exit, kind := x.exitPlan.kind, dim := x.exitPlan.dim, shared := x.plan.shared,
      plan := s.topo.plan.ident, tag := s.tagOf x.plan.quire }))

/-- Compares a discovery word with the entry of the exit in service: the outcome and its event. -/
def State.judgeWord (s : State) (p : PortId) (w : DiscoveryWord) : PortState × Nat :=
  let x := s.port p
  let e := x.exitPlan
  if w.plan ≠ s.topo.plan.ident then (.held, 0x0405)
  else if e.kind = 0 then (.held, 0x0403)
  else if w.node ≠ e.node ∨ w.port ≠ e.port ∨ w.kind ≠ e.kind ∨ (e.kind = 1 ∧ w.dim ≠ e.dim) then (.disabled, 0x0404)
  else if w.shared ≠ x.plan.shared ∨ (!w.shared ∧ w.tag ≠ s.tagOf x.plan.quire) then (.held, 0x0405)
  else (.up, 0x0401)

/-- Applies R291 to a port's word. -/
def State.discover (s : State) (p : PortId) (w : DiscoveryWord) : State :=
  let (st, code) := s.judgeWord p w
  let s := s.updPort p fun x => { x with word := some w }
  (s.setPort p st code).raise { code := code, unit := uPort p (s.port p).exit }

/-- DISCOVERY_WORD_RECEIVE (R291, R292): the first word decides; a held port is judged again when the neighbour's word changes. After
the plan's identity has changed, an up port's next word after the gutter tells whether the neighbour changed it too (R307, log 139). -/
def execDiscoveryWordReceive (p : PortId) (w : DiscoveryWord) (s : State) : Result :=
  match (s.port p).state with
  | .discovery => .next (s.discover p w)
  | .held => .next (if (s.port p).word = some w then s else s.discover p w)
  | .up =>
    let x := s.port p
    if x.recheck ∧ s.gut.now.isNone then
      let s := s.updPort p fun x => { x with recheck := false, word := some w }
      .next (if w.plan = s.topo.plan.ident then s
        else (s.setPort p .held 0x0405).raise { code := 0x0405, unit := uPort p x.exit })
    else .next (s.updPort p fun x => { x with word := some w })
  | .unused | .training | .down | .disabled => .next s

/-! ## The plan (R285, R286, R288, R289) -/

/-- One exit's part of a port plan entry: four bytes. -/
def exitOf (w : Nat) : ExitPlan :=
  let kind := bits w 31 30
  { node := bits w 15 0, port := bits w 23 16, kind := kind, dim := if kind = 1 then bits w 29 28 else 0 }

/-- A port plan entry of its 16 bytes as a number. -/
def entryOf (raw : Nat) : PortPlan :=
  { a := exitOf raw, b := exitOf (raw / 2 ^ 32), shared := bit raw 71, quire := ⟨bits raw 65 64 % 4, by omega⟩,
    initial := bits raw 79 72, raw := raw }

/-- The staged plan and its port entries (R288). -/
def State.stagedPlan (s : State) : Plan :=
  { ident := s.setting 0x4300 1, node := s.setting 0x4300 2, sizes := Vector.ofFn fun (i : Fin 4) => s.setting 0x4300 (3 + i.val),
    ring := s.setting 0x4300 7 == 1, mins := Vector.ofFn fun (i : Fin 4) => s.setting 0x4300 (8 + i.val) }

def State.stagedPorts (s : State) : List PortPlan := (List.range 48).map fun p => entryOf (s.setting 0x4310 (p + 1))

/-- Whether a plan differs from the one in force in node number, a size or the D3 kind. -/
def State.reshapes (s : State) (p : Plan) : Bool :=
  p.node != s.topo.plan.node || p.sizes != s.topo.plan.sizes || p.ring != s.topo.plan.ring

/-- Whether a dimension link is allowed by a plan (R289). -/
def Plan.linkOk (p : Plan) (e : ExitPlan) : Bool :=
  p.size e.dim != 1 && e.node != p.node && decide (e.node < p.modules)
    && ([0, 1, 2, 3].all fun d => d == e.dim || p.coord e.node d == p.coord p.node d)
    && (!p.isRing e.dim || (let n := p.size 3
        let c := p.coord p.node 3
        p.coord e.node 3 == (c + 1) % n || p.coord e.node 3 == (c + n - 1) % n))

/-- Whether a ring link of a plan crosses the wrap link (R303). -/
def Plan.wraps (p : Plan) (e : ExitPlan) : Bool :=
  e.kind == 1 && p.isRing e.dim &&
    (let n := p.size 3
     let c := p.coord p.node 3
     let t := p.coord e.node 3
     (c == 0 && t == n - 1) || (c == n - 1 && t == 0))

/-- The exit that a port plan entry starts on. -/
def PortPlan.first (x : PortPlan) : ExitPlan := if x.initial = 0 then x.a else x.b

/-- The checks of a staged plan that fail with 0x02 (R289). -/
def State.planOk (s : State) (p : Plan) (ports : List PortPlan) : Bool :=
  let s3 := p.size 3
  let exits := ports.zipIdx.flatMap fun (x, i) => [(x.a, i), (x.b, i)]
  (if p.ring then decide (3 ≤ s3) && decide (s3 ≤ 32) else decide (1 ≤ s3) && decide (s3 ≤ 16))
    && decide (p.modules ≤ 65535) && decide (p.node < p.modules)
    && (exits.all fun (e, i) =>
      e.kind == 0 || (if e.kind == 1 then decide (i < 44) && p.linkOk e else decide (44 ≤ i) && decide (p.modules ≤ e.node)))
    && (ports.all fun x => x.first.kind == 0 ||
        decide ((ports.filter fun y => y.first.kind != 0 && y.first.node == x.first.node).length ≤ 4))
    && ([0, 1, 2, 3].all fun d => decide (p.size d ≤ 1) ||
        decide (p.mins.toList.getD d 1 ≤ (ports.filter fun x => x.first.kind == 1 && x.first.dim == d).length))
    && (ports.all fun x =>
        !(p.wraps x.a || p.wraps x.b) || x.shared || s.setting 0x4330 (5 + x.quire.val) == 1)

/-- A write of 0x4300:0C (R288, R289, R394): the status, and the staged plan under way. -/
def State.stagePlan (s : State) (t : Nat) : State × Nat :=
  let p := s.stagedPlan
  let ports := s.stagedPorts
  if !s.planOk p ports then (s, 0x02)
  else if s.reshapes p ∧ !s.allStopped then (s, 0x06)
  else if t < s.now + 1000000 then (s, 0x05)
  else ({ s with topo := { s.topo with commit := some (t, p, ports) } }, 0)

/-- Brings a port's new entry into force: a changed entry, and with a changed shape every port, trains. A port whose fibre is open
trains from R364's answered state only: until then it is down, or unused where the plan does not use the exit (R292). -/
def State.commitPort (s : State) (shape ident : Bool) (p : PortId) (e : PortPlan) : State :=
  let x := s.port p
  let changed := { x.plan with raw := 0 } != { e with raw := 0 }
  let s := s.updPort p fun x => { x with plan := e }
  if changed ∨ shape then
    let exit := if changed then e.initial else x.exit
    let planned : Bool := (if exit = 0 then e.a else e.b).kind != 0
    if x.lit ∧ s.spinePath p ∧ s.fabricOn then s.startTraining p exit
    else (s.setPort p (if planned then .down else .unused) 0).updPort p fun x => { x with exit := exit }
  else match x.state with
    | .held => s.setPort p .discovery 0
    | .up => s.updPort p fun x => { x with recheck := x.recheck || ident }
    | _ => s

/-- PLAN_COMMIT (R288): at the first gutter start at or after the effective FT; cancelled when a quire has started meanwhile and
the shape would change. -/
def execPlanCommit (s : State) : Result :=
  match s.topo.commit, s.gut.now with
  | some (t, p, ports), some g =>
    if g.start < t ∨ g.opened then .next s
    else if s.reshapes p ∧ !s.allStopped then
      .next (State.raise { s with topo := { s.topo with commit := none } } { code := 0x040B, unit := uCtl s.holder })
    else
      let shape := s.reshapes p
      let ident := p.ident != s.topo.plan.ident
      let s := { s with topo := { s.topo with commit := none, plan := p } }
      let s := if shape then { s with topo := { s.topo with words := [], ringBits := [], ringSent := none } } else s
      let s := allPorts.foldl (fun s q => s.commitPort shape ident q (ports.getD q.val PortPlan.reset)) s
      .next s.rejoin
  | _, _ => .next s

/-! ## Congestion (R308) -/

/-- The bin of an occupancy of the 512 KiB queue. -/
def congBin (n : Nat) : Nat :=
  let cap := 524288
  if n = 0 then 0 else if 16 * n ≤ cap then 1 else if 8 * n ≤ cap then 2 else if 4 * n ≤ cap then 3
  else if 2 * n ≤ cap then 4 else if 4 * n ≤ 3 * cap then 5 else if n < cap then 6 else 7

/-- CONGESTION_SAMPLE (R308): at FT multiples of 1,000 ns; a count saturates at the 100 samples of a window. -/
def execCongestionSample (s : State) : Result :=
  if s.now % 1000 ≠ 0 then .next s else
  .next { s with topo := { s.topo with bins := allPorts.foldl (fun m p =>
    let k := 8 * p.val + congBin (s.port p).queued
    SMap.set 0 m k (min 100 (SMap.get 0 m k + 1))) s.topo.bins } }

/-- CONGESTION_RECORD_CLOSE (R308): at FT multiples of 100 µs; sent to the manager as management traffic. -/
def execCongestionRecordClose (s : State) : Result :=
  if s.now % 100000 ≠ 0 then .next s else
  let r : CongRecord := { node := s.node, ft := s.now, plan := s.topo.plan.ident, counts := s.topo.bins }
  let s := { s with topo := { s.topo with bins := [], record := r } }
  let m := s.manager
  .next (if m = 0xFFFF then s else s.sendMgmt s.holder (.congestion m r))

end Sys2Proof.Machine
end

