-- ==== Sys2Proof/Machine/Optics.lean ====
section
/-! DEFINITION. The optical edge: heater tables, calibration, identity markers, slot retirement and retuning, line margins, moves to
spare slots, eye safety (R342 to R368). Ring k of a port is the transmit ring of slot k, ring 18 + k its receive ring. -/

namespace Sys2Proof.Machine

/-! ## Access -/

def State.opt (s : State) (p : PortId) : PortOpt := (s.port p).opt

def State.updOpt (s : State) (p : PortId) (f : PortOpt → PortOpt) : State :=
  s.updPort p fun x => { x with opt := f x.opt }

def State.slot (s : State) (p : PortId) (k : Fin 18) : SlotSt := (s.opt p).slots[k]

def State.updSlot (s : State) (p : PortId) (k : Fin 18) (f : SlotSt → SlotSt) : State :=
  s.updOpt p fun o => { o with slots := o.slots.set k (f o.slots[k]) }

def State.countOpt (s : State) (p : PortId) (i : Fin 7) : State :=
  s.updOpt p fun o => { o with counts := o.counts.set i (o.counts[i] + 1) }

def allSlots : List (Fin 18) := List.finRange 18

/-- The comb of a port (R343). -/
def combOf (p : PortId) : Fin 16 := ⟨p.val / 3, by omega⟩

def combPorts (c : Fin 16) : List PortId := allPorts.filter fun p => combOf p == c

def State.line (s : State) (c : Fin 16) (k : Nat) : LineSt :=
  s.combs[c].lines.toList.getD k { margin := 0, failed := true, low := true, fellAt := none }

def State.updLine (s : State) (c : Fin 16) (k : Nat) (f : LineSt → LineSt) : State :=
  { s with combs := s.combs.set c { s.combs[c] with
      lines := s.combs[c].lines.zipIdx.map fun (x, i) => if i = k then f x else x } }

/-- A line with margin: not failed and at or above the threshold (R357). -/
def State.lineGood (s : State) (c : Fin 16) (k : Nat) : Bool :=
  !(s.line c k).failed && decide ((s.setting 0x4500 1 : Int) ≤ (s.line c k).margin)

/-- The first start of a schedule after an instant (R51). -/
def Schedule.after (c : Schedule) (t : Int) : Int :=
  let p : Int := c.period
  if p = 0 then 0 else ((t - c.phase) / p + 1) * p + c.phase

/-- The next gutter start of a port after now: of the schedule in force, of the staged one from its FT on, or of a one-off gutter on the
port (R51, R58). -/
def State.nextGutter (s : State) (p : PortId) : Nat :=
  let g := s.gut.sched.after s.now
  let g := match s.gut.staged with
    | some (c, t) => if t ≤ g then c.after (max (s.now : Int) (t - 1)) else g
    | none => g
  ((s.gut.oneOffs.filter fun (t, ports) => bit ports p.val && decide (s.now < t)).map (·.1)).foldl Nat.min g.toNat

/-- Enters an action among those that wait, unless the same one already does. -/
def State.request (s : State) (kind : GutterKind) (res : GutterRes) (arg from_ : Nat) : State :=
  if s.gut.waiting.any fun a => a.kind == kind && a.res == res then s
  else { s with gut := { s.gut with waiting := s.gut.waiting ++ [{ kind := kind, res := res, arg := arg, from_ := from_, deferred := 0 }] } }

/-- The port that an action acts on. -/
def onPort (r : GutterRes) (p : PortId) : Bool := match r with
  | .port q => q == p
  | .slot q _ => q == p
  | _ => false

/-- Drops the actions of a port (R365, R368). -/
def State.dropActions (s : State) (p : PortId) : State :=
  { s with gut := { s.gut with waiting := s.gut.waiting.filter fun a => !onPort a.res p,
                               now := s.gut.now.map fun g => { g with running := g.running.filter fun a => !onPort a.res p } } }

/-! ## Heaters (R347) -/

/-- The table code of a ring at a reading in 0.1 °C, between its two bins; the rounding to a code is open (log 48). -/
def State.tableCode (s : State) (ring : Nat) (reading : Int) : Nat × State :=
  let t := (min (max reading 200) 1100).toNat - 200
  let b := t / 5
  let f := t % 5
  let n := Config.heaterTable ring b % 4096 * (5 - f) + Config.heaterTable ring (b + 1) % 4096 * f
  if n % 5 = 0 then (n / 5, s)
  else
    let (up, s) := s.fresh 2
    (n / 5 + up, s)

/-- HEATER_UPDATE (R347): a sum outside the 12 bits of a code is open (log 48). -/
def execHeaterUpdate (p : PortId) (ring : Fin 36) (reading : Int) (s : State) : Result :=
  let s := if reading < 200 ∨ 1100 < reading then s.raise { code := 0x050F, unit := uEdge (p.val / 6) } else s
  let (code, s) := s.tableCode (36 * p.val + ring.val) reading
  let v := (code : Int) + (s.opt p).rings[ring].offset
  let (v, s) := if 0 ≤ v ∧ v < 4096 then (v.toNat, s) else s.fresh 4096
  .next (s.updOpt p fun o => { o with rings := o.rings.set ring { o.rings[ring] with code := v } })

/-- CALIBRATION_OFFSET_SAVE (R347): at most once per hour. -/
def execCalibrationOffsetSave (s : State) : Result :=
  if s.savedAt ≠ 0 ∧ s.mono + 1 < s.savedAt + 3600000000000 then .next s
  else .next (allPorts.foldl (fun s p => s.updOpt p fun o =>
    { o with rings := o.rings.map fun (r : RingSt) => { r with saved := r.offset } }) { s with savedAt := s.mono + 1 })

/-- The sweep of a slot's two rings sets their offsets: transmit, then receive. -/
def PortOpt.setOffsets (o : PortOpt) (k : Fin 18) (offsets : List Int) : PortOpt :=
  let tx : Fin 36 := ⟨k.val, by omega⟩
  let rx : Fin 36 := ⟨18 + k.val, by omega⟩
  let rings := o.rings.set tx { o.rings[tx] with offset := offsets.getD 0 o.rings[tx].offset }
  { o with rings := rings.set rx { rings[rx] with offset := offsets.getD 1 rings[rx].offset } }

/-! ## Calibration (R349 to R351) -/

/-- Whether a slot's last calibration is older than the interval. -/
def State.due (s : State) (x : SlotSt) : Bool := decide (x.calAt + s.setting 0x4500 2 * 1000000000 < s.mono)

/-- An in-service slot that is out for calibration or retune. -/
def SlotSt.isOut (x : SlotSt) : Bool := x.service && x.st == .withdrawn

/-- A slot that is out, or is retired and waits for its retune or is in it: no other slot is withdrawn meanwhile (R55, R56). -/
def SlotSt.bars (x : SlotSt) : Bool := x.isOut || (x.service && x.st == .retired)

/-- CALIBRATION_REQUEST (R349): the most overdue in-service slot, then the lowest; the end with the lower node number names the
next gutter, and the other acknowledges. -/
def execCalibrationRequest (p : PortId) (s : State) : Result :=
  let cands := allSlots.filter fun k => (s.slot p k).st == .inService && s.due (s.slot p k)
  let oldest := (cands.map fun k => (s.slot p k).calAt).foldl Nat.min (2 ^ 64)
  let out := allSlots.any fun k => (s.slot p k).bars && !(s.slot p k).passed
  let asked := s.gut.waiting.any fun a => a.kind == .withdrawal && onPort a.res p
  match cands.find? fun k => (s.slot p k).calAt == oldest with
  | some k =>
    if (s.port p).state ≠ .up ∨ (s.port p).time.oneEnded ∨ out ∨ asked then .next s
    else
      let g := s.nextGutter p
      let first := decide (s.node < (s.port p).exitPlan.node)
      .next ((s.request .withdrawal (.slot p k) 0 g).send (.link p (if first then .calibrate k.val g else .ack g)))
  | none => .next s

/-- CALIBRATION_STALE (R351): once. -/
def execCalibrationStale (p : PortId) (k : Fin 18) (s : State) : Result :=
  let x := s.slot p k
  if !x.staleTold ∧ x.line.isSome ∧ x.calAt + s.setting 0x4500 3 * 3600000000000 < s.mono then
    .next ((s.updSlot p k fun x => { x with staleTold := true }).raise { code := 0x0508, unit := uSlot p k.val })
  else .next s

/-- CALIBRATION_SWEEP_COMPLETE (R349): a passed check at both ends readies the return; a failed one leaves the slot to be
retuned. -/
def execCalibrationSweepComplete (p : PortId) (k : Fin 18) (offsets : List Int) (markersOk farOk : Bool) (s : State) : Result :=
  let x := s.slot p k
  if x.st ≠ .withdrawn ∨ !x.service ∨ x.passed ∨ x.training ∨ x.newLine.isSome then .next s
  else
    let s := (s.updOpt p fun o => o.setOffsets k offsets).updSlot p k fun x => { x with calAt := s.mono, staleTold := false }
    if markersOk && farOk then
      .next ((s.updSlot p k fun x => { x with passed := true, retune := false }).request .slotReturn (.slot p k) 0 (s.nextGutter p))
    else .next (s.updSlot p k fun x => { x with st := .retired, sweeps := 0 })

/-- SPARE_SLOT_CALIBRATION (R349): a due spare slot, outside gutters; the bits set at the next return from calibration apply at
once. -/
def execSpareSlotCalibration (p : PortId) (k : Fin 18) (offsets : List Int) (s : State) : Result :=
  let x := s.slot p k
  if x.st ≠ .spare ∨ !s.due x ∨ s.gut.now.isSome then .next s
  else .next ((s.updOpt p fun o => o.setOffsets k offsets).updSlot p k fun x =>
    { x with calAt := s.mono, staleTold := false, res := s.setting 0x4500 4 })

/-! ## Retirement (R353, R354, R356, R360) -/

/-- The lowest spare slot whose line has margin and which no waiting move takes (R358). -/
def State.spareFor (s : State) (p : PortId) : Option (Fin 18) :=
  allSlots.find? fun k => (s.slot p k).st == .spare && (match (s.slot p k).line with
    | some l => s.lineGood (combOf p) l
    | none => false) && !(s.gut.waiting.any fun a => a.kind == .move && onPort a.res p && a.arg == k.val)

/-- A port with fewer than 8 in-service slots goes down (R360). -/
def State.checkSlots (s : State) (p : PortId) : State :=
  if (s.port p).state = .up ∧ (s.port p).inService < 8 then s.portFell p 0x0402 else s

/-- Retires an in-service slot with an event and a count, and reports it to the far end. -/
def State.retireSlot (s : State) (p : PortId) (k : Fin 18) (code : Nat) (count : Fin 7) : State :=
  let s := s.updSlot p k fun x =>
    { x with st := .retired, sweeps := 0, good := 0, bad := 0, badFrames := 0, badWords := 0, passed := false }
  let s := { s with gut := { s.gut with waiting := s.gut.waiting.filter fun (a : Action) =>
    !(a.res == GutterRes.slot p k && (a.kind == GutterKind.withdrawal || a.kind == GutterKind.slotReturn)) } }
  (((s.countOpt p count).send (.link p (.retired k.val))).raise { code := code, unit := uSlot p k.val }).checkSlots p

/-- A slot that cannot serve on: a spare takes its traffic at the next gutter, else the loss is reported (R358, R360). -/
def State.replaceSlot (s : State) (p : PortId) (k : Fin 18) : State :=
  if s.gut.waiting.any fun a => a.kind == .move && a.res == .slot p k then s
  else match s.spareFor p with
    | some t => (s.request .move (.slot p k) t.val (s.nextGutter p)).send (.link p (.move k.val t.val (s.nextGutter p)))
    | none => s.raise { code := 0x0507, unit := uPort p (s.port p).exit }

/-- The identity marker that slot k of a port sends on a line (R352). -/
def State.marker (s : State) (p : PortId) (k line : Nat) : Word :=
  let body := s.node * 2 ^ 40 + p.val * 2 ^ 34 + (s.port p).exit * 2 ^ 33 + k * 2 ^ 28 + line * 2 ^ 23
    + (s.opt p).generation % 2 ^ 16
  BitVec.ofNat 64 (body * 256 + crc8 (leBytes 7 body))

/-- Whether a marker's CRC holds (R352). -/
def markerOk (m : Word) : Bool := crc8 ((leBytes 8 m.toNat).drop 1) == bits m.toNat 7 0

/-- IDENTITY_MARKER_RECEIVE (R353, R354): two valid matches in a row take a training slot into service; two mismatches in slot,
line, node or port retire an in-service one. -/
def execIdentityMarkerReceive (p : PortId) (k : Fin 18) (m : Word) (s : State) : Result :=
  if !markerOk m then .next (s.updSlot p k fun x => { x with good := 0 }) else
  let v := m.toNat
  let x := s.slot p k
  let e := (s.port p).exitPlan
  let own := bits v 40 36 == k.val && (x.newLine.or x.line) == some (bits v 35 31)
  let far := (s.port p).state != .up || (bits v 63 48 == e.node && bits v 47 42 == e.port)
  match x.st with
  | .withdrawn | .spare =>
    let good := if own then x.good + 1 else 0
    if x.training ∧ 2 ≤ good then
      .next (s.updSlot p k fun x => { x with training := false, bad := 0, good := good,
                                             st := if x.service then .inService else .spare })
    else .next (s.updSlot p k fun x => { x with good := good })
  | .inService =>
    if own && far then .next (s.updSlot p k fun x => { x with good := x.good + 1, bad := 0 })
    else if 2 ≤ x.bad + 1 then .next (s.retireSlot p k 0x0501 0)
    else .next (s.updSlot p k fun x => { x with good := 0, bad := x.bad + 1 })
  | .retired | .failed => .next s

/-- DATA_FRAME_RECEIVE (R353, R354, R356): 8 wrong slot numbers or 16 uncorrectable codewords in a row retire the slot. -/
def execDataFrameReceive (p : PortId) (k : Fin 18) (f : FrameObs) (s : State) : Result :=
  let x := s.slot p k
  if x.st ≠ .inService ∨ (s.port p).state ≠ .up then .next s else
  let words := if f.uncorrectable then x.badWords + 1 else 0
  let frames := if f.decodes && f.crcOk then (if f.slot = k.val then 0 else x.badFrames + 1) else x.badFrames
  if 16 ≤ words then .next (s.retireSlot p k 0x0502 2)
  else if 8 ≤ frames then .next (s.retireSlot p k 0x0501 0)
  else .next (s.updSlot p k fun x => { x with badWords := words, badFrames := frames })

/-- RETIREMENT_REPORT_RECEIVE (R354): the transmitter stops striping onto the slot. -/
def execRetirementReportReceive (p : PortId) (k : Fin 18) (s : State) : Result :=
  if (s.slot p k).st ≠ .inService then .next s
  else .next ((s.updSlot p k fun x => { x with st := .retired, sweeps := 0, good := 0, bad := 0 }).checkSlots p)

/-- SLOT_LOSS_OF_SIGNAL (R356); a switchover pause does not retire slots (R368). -/
def execSlotLossOfSignal (p : PortId) (k : Fin 18) (s : State) : Result :=
  if (s.slot p k).st ≠ .inService ∨ s.pause.isSome then .next s else .next (s.retireSlot p k 0x0502 1)

/-! ## Retuning and line replacement (R355, R359) -/

/-- The lowest unbound line of the port's comb with margin (R359). -/
def State.freeLine (s : State) (p : PortId) : Option Nat :=
  (List.range 20).find? fun l => s.lineGood (combOf p) l
    && allSlots.all fun k => (s.slot p k).line != some l && (s.slot p k).newLine != some l

/-- A change of a port's slot bindings (R352). -/
def State.nextGeneration (s : State) (p : PortId) : State :=
  s.updOpt p fun o => { o with generation := (o.generation + 1) % 65536 }

/-- A slot whose line has no margin leaves its line, which is failed for the whole comb: it is rebound by a guided sweep, or is bound to
none (R359). -/
def State.rebind (s : State) (p : PortId) (k : Fin 18) : State :=
  let free := s.freeLine p
  let s := match (s.slot p k).line with
    | some l => s.updLine (combOf p) l fun y => { y with failed := true }
    | none => s
  match free with
  | some l => s.updSlot p k fun x => { x with st := .withdrawn, service := false, newLine := some l, sweeps := 0, good := 0,
                                              training := false, passed := false }
  | none => (s.updSlot p k fun x => { x with st := .failed, service := false, line := none, training := false }).nextGeneration p

/-- GUIDED_SWEEP_COMPLETE (R355, R359): begun only while no other slot of the port is withdrawn; three failures mark the slot. -/
def execGuidedSweepComplete (p : PortId) (k : Fin 18) (locked : Bool) (offsets : List Int) (s : State) : Result :=
  let x := s.slot p k
  let others := allSlots.any fun j => j != k && (s.slot p j).isOut
  if x.newLine.isSome then
    if locked then
      .next ((s.updOpt p fun o => o.setOffsets k offsets).request .move (.slot p k) (18 + x.newLine.getD 0) (s.nextGutter p))
    else if x.sweeps + 1 < 3 then .next (s.updSlot p k fun x => { x with sweeps := x.sweeps + 1 })
    else .next ((s.updSlot p k fun x => { x with st := .failed, sweeps := 3, newLine := none }).raise
      { code := 0x0502, unit := uSlot p k.val })
  else if x.st ≠ .retired ∨ others then .next s
  else if locked then
    let s := (s.updOpt p fun o => o.setOffsets k offsets).updSlot p k fun x =>
      { x with st := .withdrawn, passed := true, retune := true, good := 0, calAt := s.mono, staleTold := false }
    .next (s.request .slotReturn (.slot p k) 0 (s.nextGutter p))
  else if x.sweeps + 1 < 3 then .next (s.updSlot p k fun x => { x with sweeps := x.sweeps + 1 })
  else
    let s := (s.updSlot p k fun x => { x with st := .failed, sweeps := 3 }).raise { code := 0x0502, unit := uSlot p k.val }
    .next (if x.service then s.replaceSlot p k else s)

/-! ## Line margins and moves (R357, R358, R361) -/

/-- What a line without margin means for one port of its comb. -/
def State.lineLow (s : State) (p : PortId) (l : Nat) (failed : Bool) : State :=
  match allSlots.find? fun k => (s.slot p k).line == some l with
  | none => s
  | some k => match (s.slot p k).st with
    | .inService =>
      let s := if failed then s.retireSlot p k 0x0502 1 else s
      if failed ∨ (s.spareFor p).isSome then s.replaceSlot p k else s
    | .spare => if s.gut.waiting.any (fun a => a.kind == .move && onPort a.res p && a.arg == k.val) then s else s.rebind p k
    | .withdrawn | .retired | .failed => s

/-- Whether a comb has failed: every line below 0 dB, all within 10 ms (R361). -/
def State.combDark (s : State) (c : Fin 16) : Bool :=
  let ts := s.combs[c].lines.toList.map fun (x : LineSt) => if x.margin < 0 then x.fellAt else none
  ts.all (·.isSome) &&
    (let ns := ts.filterMap id
     decide (ns.foldl Nat.max 0 ≤ ns.foldl Nat.min (2 ^ 64) + 10000000))

/-- LINE_MARGIN_AVERAGE (R357): averaged power in 0.1 dB over the record's minimum. -/
def execLineMarginAverage (c : Fin 16) (l : Fin 20) (power : Int) (s : State) : Result :=
  let margin := power - s.vendor.lineMin.getD (20 * c.val + l.val) 0
  let x := s.line c l.val
  let low := decide (margin < (s.setting 0x4500 1 : Int))
  let failed := decide (margin ≤ 0)
  let s := s.updLine c l.val fun x =>
    { x with margin := margin, low := low, failed := x.failed || failed,
             fellAt := if margin < 0 then some (x.fellAt.getD s.mono) else none }
  let s := if low ∧ !x.low then s.raise { code := 0x0504, unit := uLine c.val l.val } else s
  let s := if low then (combPorts c).foldl (fun s p => s.lineLow p l.val failed) s else s
  if s.combDark c ∧ !s.combs[c].failed then
    let s := { s with combs := s.combs.set c { s.combs[c] with failed := true } }
    let s := s.raise { code := 0x050B, unit := uLine c.val 0xFFF }
    .next ((combPorts c).foldl (fun s p => if (s.port p).trained then s.portFell p 0x050B else s) s)
  else .next s

/-- MOVE_REQUEST (R358): the far end acknowledges before the gutter starts. -/
def execMoveRequest (p : PortId) (fromSlot toSlot : Fin 18) (gutter : Nat) (s : State) : Result :=
  if (s.port p).state ≠ .up ∨ (s.slot p toSlot).st ≠ .spare ∨ !(s.slot p fromSlot).service ∨ gutter ≤ s.now then .next s
  else .next ((s.request .move (.slot p fromSlot) toSlot.val gutter).send (.link p (.ack gutter)))

/-- Carries a move out (R358): the failing slot leaves service, the spare enters, event 0x0505; the vacated slot is rebound when
its line has lost margin (R359). -/
def State.moveSlot (s : State) (p : PortId) (k t : Fin 18) : State :=
  if (s.slot p t).st ≠ .spare then s else
  let x := s.slot p k
  let s := s.updSlot p t fun y => { y with st := .inService, service := true, bad := 0 }
  let s := (s.countOpt p 3).raise { code := 0x0505, unit := uSlot p t.val }
  match x.line with
  | some l =>
    if (s.line (combOf p) l).low ∧ x.st ≠ .failed then (s.updSlot p k fun y => { y with service := false }).rebind p k
    else s.updSlot p k fun y => { y with service := false, st := if x.st = .failed then .failed else .retired }
  | none => s.updSlot p k fun y => { y with service := false }

/-- Carries a line replacement out (R359, R481): the slot becomes a spare slot on its new line. -/
def State.replaceLine (s : State) (p : PortId) (k : Fin 18) : State :=
  match (s.slot p k).newLine with
  | none => s
  | some l =>
    let s : State := match (s.slot p k).line with
      | some l0 =>
        let e := (uLine (combOf p) l0, uLine (combOf p) l, s.now)
        if s.gov.spares.any fun f => f.1 == e.1 && f.2.1 == e.2.1 then s
        else { s with gov := { s.gov with spares := s.gov.spares ++ [e] } }
      | none => s
    let s := s.updSlot p k fun x => { x with st := .spare, line := some l, newLine := none, bad := 0, calAt := s.mono,
                                             staleTold := false }
    let s := s.nextGeneration p
    (s.countOpt p 4).raise { code := 0x0506, unit := uSlot p k.val }

/-- Carries a return out (R349, R355, R368): a slot whose line has lost margin stays out and a spare enters in its place. -/
def State.returnSlot (s : State) (p : PortId) (k : Fin 18) : State :=
  let x := s.slot p k
  if !x.passed then s else
  let low := match x.line with
    | some l => !s.lineGood (combOf p) l && (s.line (combOf p) l).low
    | none => true
  match (if low && x.service then s.spareFor p else none) with
  | some t => (s.updSlot p k fun x => { x with passed := false }).moveSlot p k t
  | none =>
    let s := s.updSlot p k fun x =>
      { x with passed := false, retune := false, bad := 0, res := if x.retune then x.res else s.setting 0x4500 4,
               st := if x.service then .inService else .spare }
    if x.retune then s.raise { code := 0x0503, unit := uSlot p k.val } else s

/-! ## Eye safety (R363 to R365) -/

/-- Whether a port steers in the gutter in progress, between g + 500 ns and g + 4.5 µs (R363). -/
def State.steering (s : State) (p : PortId) : Bool := match s.gut.now with
  | some g => g.opened && !g.closed && g.running.any fun a => a.kind == .steer && a.res == .port p
  | none => false

/-- Shutters close; the port is down, or unused where the plan does not use its exit: no light arrives (R292). -/
def State.shutPort (s : State) (p : PortId) (code : Nat) : State :=
  let s := (s.updOpt p fun o => { o with fibre := .shutdown, shut := true }).dropActions p
  let s := s.raise { code := code, unit := uPort p (s.port p).exit }
  if (s.port p).state = .unused then s
  else
    let s := s.portFell p code
    if (s.port p).exitPlan.kind = 0 then s.setPort p .unused code else s

/-- FIBRE_LOSS_OF_LIGHT (R363); not during the port's own steer, nor in a pause (R306). -/
def execFibreLossOfLight (p : PortId) (s : State) : Result :=
  if !(s.port p).lit ∨ s.steering p ∨ s.pause.isSome then .next s else .next ((s.shutPort p 0x0509).countOpt p 5)

/-- The marker that a probe on the line of W00 carries: of the slot bound to that line, else of slot 0 (log 169). -/
def State.probeMarker (s : State) (p : PortId) : Word :=
  s.marker p (((allSlots.find? fun k => (s.slot p k).line == some 0).map (·.val)).getD 0) 0

/-- PROBE_START (R364): a pulse of 2 ms, every 1 s or at once on a neighbour's probe. -/
def execProbeStart (p : PortId) (neighbourProbe : Bool) (s : State) : Result :=
  let o := s.opt p
  let dark : Bool := match o.fibre with
    | .shutdown => true
    | .probe => decide (o.probeAt + 2000000 ≤ s.mono)
    | .normal | .answered => false
  if dark ∧ (neighbourProbe ∨ o.probeAt + 1000000000 ≤ s.mono) then
    .next ((s.updOpt p fun o => { o with fibre := .probe, probeAt := s.mono }).send (.probe p (s.probeMarker p)))
  else .next s

/-- PROBE_ANSWERED (R364): full power, event 0x050A, and a planned port trains. -/
def execProbeAnswered (p : PortId) (s : State) : Result :=
  let o := s.opt p
  if o.fibre ≠ .probe ∨ o.probeAt + 2000000 < s.mono then .next s
  else
    let s := (s.updOpt p fun o => { o with fibre := .answered, shut := false }).raise
      { code := 0x050A, unit := uPort p (s.port p).exit }
    .next (if (s.port p).exitPlan.kind ≠ 0 ∧ s.spinePath p ∧ s.fabricOn then s.startTraining p (s.port p).exit else s)

/-- OUTPUT_POWER_TRIP (R365). -/
def execOutputPowerTrip (p : PortId) (s : State) : Result := .next (s.shutPort p 0x050E)

end Sys2Proof.Machine
end

