-- ==== Sys2Proof/Machine/Spine.lean ====
section
/-! DEFINITION. The spine: bridges, the two virtual channels, a packet's hop; dies that change quires (R22 to R28, R35 to R37). -/

namespace Sys2Proof.Machine

/-! ## Paths (R26) -/

/-- The channel of a packet at a die: the one it is on, or at its entry the first clear one. -/
def State.pickChannel (s : State) (x : DieId) (k : SpinePacket) : Option Bool :=
  match k.vc with
  | some v => if s.pathClear v 7 x k.dst then some v else none
  | none => if s.pathClear false 7 x k.dst then some false else if s.pathClear true 7 x k.dst then some true else none

/-- The unit of a packet that finds no way (R28): the source die of a request of this module, the host edge die among them; else the
die at which it is found (log 125). -/
def State.lostUnit (s : State) (d : DieId) : Body → Nat
  | .request r =>
    if r.srcNode ≠ s.node then uDie d else if h : r.srcDie < 20 then uDie ⟨r.srcDie, h⟩ else if r.srcDie = 20 then uHost else uDie d
  | .reply _ => uDie d

/-- SPINE_HOP (R26): one hop on the packet's channel. An unreachable destination raises 0x0485 at the source die, and a request is
answered NK 0x20. Routers forward during a freeze (R62), and discard a packet older
than the packet lifetime (R276). -/
def execSpineHop (d : DieId) (k : SpinePacket) (s : State) : Result :=
  if (s.die d).presence ≠ .inService ∨ s.pause.isSome ∨ k.dst = d ∨ s.aged d k.body then .next s else
  match s.pickChannel d k with
  | some v => .next (s.send (.spine (nextDie v d k.dst) { k with vc := some v }))
  | none =>
    let s := s.raise { code := 0x0485, unit := s.lostUnit d k.body, detail := k.dst.val }
    match k.body with
    | .request r => .next (s.refuseAt d r)
    | .reply _ => .next s

/-! ## Quire assignment (R35 to R37) -/

/-- Unloads every context of a die, whatever its state: status words are written and stay (log 150), and what goes with the contexts is
cleared. -/
def State.unloadAll (s : State) (d : DieId) : State :=
  let s := allCtx.foldl (fun s c => if (s.getCtx d c).loadedB then s.writeAllWords d c else s) s
  s.updDie d fun x => { x.clearEngines with ctx := .replicate 8 Ctx.reset, flags := .replicate 32 flagsClear, rel := [] }

/-- The quire of an assignment value. -/
def quireOfValue (v : Nat) : Option (Fin 4) := if h : v < 4 then some ⟨v, h⟩ else none

/-- A die's entry in 0x2020 takes a new value: status 0x06 unless the quires it leaves and joins are stopped. Every change gives a
new epoch with its boundary 1 µs ahead. A die that joins a quire other than its last belongs to none until it has been zeroed; one that
is still being zeroed joins when that ends, and the quires it left and joins stay stopped until then (R37, R280; log 154). -/
def State.assignQuire (s : State) (d : DieId) (v : Nat) : State × Nat :=
  let x := s.die d
  let old := x.quire.or x.joining
  let new := quireOfValue v
  let runs : Option (Fin 4) → Bool
    | some k => !s.quireStopped k
    | none => false
  if old = new then (s, 0)
  else if runs old || runs new then (s, 0x06)
  else
    let s := if x.quire.isSome then s.unloadAll d else s
    let s := s.setSetting 0x2020 (d.val + 1) v
    let zero : Bool := x.zeroing || (match new with
      | some k => k != x.lastQuire
      | none => false)
    (s.updDie d fun x =>
      { x with quire := if zero then none else new, joining := if zero then new else none,
               left := if x.zeroing then x.left else old, epoch := (x.epoch + 1) % 65536, boundary := x.ft + 1000, zeroing := zero,
               lastQuire := new.getD x.lastQuire }, 0)

/-- A die after zeroing: stack and SRAM hold zero, objects, reply cache and what describes the old contents are reset, and it joins its
new quire (R37). -/
def Die.zeroed (x : Die) : Die :=
  { x with zeroing := false, quire := x.joining, joining := none, left := none, dram := [], sram := [], badDram := [], badSram := [],
           corrected := [], so := [], recs := [], results := [], inbound := [], dirty := [], copied := [], slots := [], splan := none,
           splanBad := false, snapNew := none, snapOld := none, tracked := (0, 0), copy := none,
           trace := { x.trace with written := 0, totals := .replicate 4 0 } }

/-- QUIRE_ZEROING_COMPLETE (R37): all moved dies are zeroed in parallel. -/
def execQuireZeroingComplete (s : State) : Result :=
  .next (allDies.foldl (fun s d =>
    if (s.die d).zeroing then
      State.updSource (s.updDie d Die.zeroed) (srcOf d) fun x => { x with ops := [], keys := [] }
    else s) s)

end Sys2Proof.Machine
end

