-- ==== Sys2Proof/Machine/Boot.lean ====
section
/-! DEFINITION. The endpaper's capture, what a loss of rails leaves, and the full boot in its eight steps (R409 to R420, R439,
R446 to R448). -/

namespace Sys2Proof.Machine

/-! ## The endpaper (R447) -/

/-- The endpaper as captured now. -/
def State.capture (s : State) (cause : Nat) : Endpaper :=
  { cause := cause, bootCount := s.flash.bootCount, ft := s.now, timeEpoch := s.time.epoch, mgrEpoch := s.mgrEpoch,
    planId := s.topo.plan.ident, leaseEpoch := s.leaseEpoch,
    epochs := allDies.map fun d => (s.die d).epoch,
    marks := allDies.map fun d => ((s.die d).horizon, (s.die d).peaks),
    stitches := allQuires.map fun k => (s.quire k).stitch,
    chans := allChans.map fun c =>
      let x := s.chan c
      (x.state == .opened, x.session, x.lastAccepted, x.lastCompleted),
    highest := allDies.flatMap fun d =>
      ((s.source (srcOf d)).high.filter fun e => decide (e.1 < 0x58)).map fun e => (256 * d.val + e.1, e.2),
    refusals := s.power.refusals, entries := s.power.entries.toList,
    log := s.log.recs.drop (s.log.recs.length - 7678) }

/-! ## Dark and cold (R433, R439, R444) -/

/-- What a loss of every rail leaves: the flash, the wake logic's latches, the strapped node-ID, the test access port; a commit
copy cut short leaves a bad image (R428). -/
def State.cold (s : State) : State :=
  { State.reset with
    pending := s.pending, free := s.free, mono := s.mono, wire := s.wire, savedAt := s.savedAt, vendor := s.vendor, rom := s.rom,
    ports := s.ports.map fun (x : Port) => { Port.reset with opt := { PortOpt.reset with
      rings := x.opt.rings.map fun (r : RingSt) => { code := 0, offset := r.saved, saved := r.saved } } },
    flash := { s.flash with saving := none, saveWait := [], copy := none,
                            image := if s.flash.copy.isSome then { s.flash.image with valid := false } else s.flash.image },
    can := { s.can with transfer := none, lastStatus := 0, heartbeatAt := s.mono },
    power := { PowerSt.reset with tripped := s.power.tripped, cause := s.power.cause }, tap := s.tap }

/-- The module dark: Off, or shed and waiting, with every die out of service. -/
def State.dark (s : State) (supply : Supply) : State :=
  let s := s.cold
  { s with power := { s.power with st := .off, supply := supply }, boot := { BootSt.reset with stage := 0 },
           dies := s.dies.map fun (x : Die) => { x with presence := .isolated } }

/-! ## The per-wire map (R508 to R511) -/

/-- Whether a net is one of R508. -/
def netKnown (n : NetObs) : Bool :=
  if n.bond then decide (n.unit < 20 ∧ n.middle < 68 ∧ n.net < 320)
  else decide (n.unit < 88 ∧ n.middle < sectionsBuilt n.unit ∧ n.net < 274)

/-- The fault code of a net: the first rule that fits; 0 for a good net (R509). -/
def netCode (n : NetObs) : Nat :=
  if n.low then 1
  else if n.high then 2
  else if n.partner.isSome then 3
  else if !n.middlePass then 4
  else if !n.outerPass then 5
  else 0

/-- The map entry of a net (R510). -/
def netEntry (n : NetObs) (field : Bool) : Nat :=
  let at_ := if n.bond then n.unit * 2 ^ 52 + n.middle * 2 ^ 45 else n.unit * 2 ^ 50 + n.middle * 2 ^ 45
  let partner := match n.partner with
    | none => 0
    | some (other, m, w) =>
      (if n.bond then m * 2 ^ 29 + w * 2 ^ 20 else (if other then 2 ^ 35 else 0) + m * 2 ^ 30 + w * 2 ^ 21) + 2 ^ 19
  (if n.bond then 2 else 1) * 2 ^ 62 + (if field then 2 ^ 61 else 0) + netCode n * 2 ^ 57 + at_ + n.net * 2 ^ 36 + partner

/-- Codes 1 to 4 fail the net; an edge-marginal one stays in service (R509). -/
def mapFails (e : Nat) : Bool := decide (1 ≤ bits e 60 57 ∧ bits e 60 57 ≤ 4)

/-- The failed wires of a map by bridge direction, section and net. -/
def mapWires (m : List Nat) : List (Nat × Nat × Nat) :=
  (m.filter fun e => bits e 63 62 == 1 && mapFails e).map fun e => (bits e 56 50, bits e 49 45, bits e 44 36)

/-- The failed hybrid bonds of a map by stack, channel and bond. -/
def mapBonds (m : List Nat) : List (Nat × Nat × Nat) :=
  (m.filter fun e => bits e 63 62 == 2 && mapFails e).map fun e => (bits e 56 52, bits e 51 45, bits e 44 36)

/-- The bonds of a stack that are lanes, and the channels that a failed command, address or clock bond fails (R227, R508). -/
def bondLanes (m : List (Nat × Nat × Nat)) (d : DieId) : List (Nat × Nat) :=
  (m.filter fun e => e.1 == d.val && decide (e.2.2 < 296)).map (·.2)
def bondChannels (m : List (Nat × Nat × Nat)) (d : DieId) : List Nat :=
  (m.filter fun e => e.1 == d.val && decide (296 ≤ e.2.2)).map fun e => e.2.1

/-- The entries that an interconnect test adds to a map: nets that are not good, with a fault the map does not give them (R510). -/
def newEntries (map : List Nat) (nets : List NetObs) : List Nat :=
  ((nets.filter fun n => netKnown n && netCode n != 0).map fun n => netEntry n true).foldl (fun (new : List Nat) e =>
    if (map ++ new).any fun o => bits o 63 62 == bits e 63 62 && bits o 60 36 == bits e 60 36 then new else new ++ [e]) []

/-- Both parts' per-wire maps: the failures of either count (R32). -/
def State.wireMap (s : State) : List Nat := s.vendor.map ++ (s.flash.field.getD FieldPart.empty).map

/-- An extended boot's interconnect test of the bonds or of the wires adds its entries to the field part (R510). -/
def State.interconnectTest (s : State) (nets : List NetObs) : State :=
  if s.boot.extended then
    { s with flash := { s.flash with
      field := s.flash.field.map fun (x : FieldPart) => { x with map := x.map ++ newEntries s.wireMap nets } } }
  else s

/-- The boot path of a bridge direction (R413): its lowest section that the per-wire map of the configuration record marks good, that is
with no net in the map (R510) and not removed (log 126). -/
def bootPath (v : VendorPart) (f : FieldPart) (b : Nat) : Option Nat :=
  (List.range (sectionsBuilt b)).find? fun sec =>
    !v.badSections.contains (32 * b + sec) && !(mapWires (v.map ++ f.map)).any fun e => e.1 == b && e.2.1 == sec

/-- A full boot begins: every object takes its default, or what the settings store holds (R397); a new vendor part takes effect
and discards the field part (R425); every bridge direction trains its boot path (R413). -/
def State.fullBoot (s : State) (extended : Bool) : State :=
  let v := s.flash.vendorNext.getD s.vendor
  let c := s.cold
  let field := if s.flash.vendorNext.isSome then none else c.flash.field
  { c with
    vendor := v, disabled := v.disabled,
    bridges := Vector.ofFn fun (b : Fin 88) => { Bridge.reset with path := bootPath v (field.getD FieldPart.empty) b.val },
    flash := { c.flash with vendorNext := none, writing := none, field := field },
    dict := match s.flash.store with
      | some st => st.vals
      | none => [],
    boot := { BootSt.reset with extended := extended, startAt := s.mono, stepAt := s.mono } }

/-- INPUT_POWER_APPLIED (R401, R446): the wake logic reads the straps. -/
def execInputPowerApplied (straps : Fin 64) (s : State) : Result :=
  match s.power.supply with
  | .absent => .next { s with can := { s.can with nodeId := straps.val }, power := { s.power with supply := .waiting } }
  | .tripped => .next { s with can := { s.can with nodeId := straps.val } }
  | .on | .waiting | .off => .next s

/-- WAKE_PIN (R439). -/
def execWakePin (s : State) : Result :=
  if s.power.supply = .off ∧ s.flash.writing.isNone then .next (s.fullBoot false) else .next s

/-- CAN_WAKE_FRAME (R439): not answered. -/
def execCanWakeFrame (f : CanFrame) (s : State) : Result :=
  if s.power.supply = .off ∧ s.flash.writing.isNone ∧ s.can.nodeId ≠ 0 ∧ f.fd ∧ f.ident = 0x600 + s.can.nodeId ∧ s.canOn then
    .next (s.fullBoot false)
  else .next s

/-- WAKE_CONDITIONS_MET (R446), in mV, held for 100 ms. -/
def execWakeConditionsMet (input bank : Nat) (s : State) : Result :=
  if s.power.supply = .waiting ∧ s.flash.writing.isNone ∧ 48000 ≤ input ∧ 47000 ≤ bank then .next (s.fullBoot false)
  else .next s

/-! ## Step 1 (R411, R414, R417 to R421, R448) -/

/-- Events of the governing control die. -/
def State.govEvent (s : State) (code detail : Nat) : State := s.raise { code := code, unit := uCtl s.holder, detail := detail }

/-- Checks 7 and 8 and the outcome of checks 1 to 6 of R417 for an image. -/
def State.imageOk (s : State) (i : Image) : Bool := i.valid && decide (s.flash.floor ≤ i.security) && bit i.generations 1

/-- The endpaper that is valid at this boot: of those with L's boot count, the newer (R448). -/
def State.bootPaper (s : State) : Option Endpaper := s.flash.papers.reverse.find? fun p => p.bootCount == s.flash.last

/-- A claim of the lease during the boot, announced to every compute die over the boot path (R414, R415). -/
def State.claimAt (s : State) (who : CtlId) (epoch : Nat) : State :=
  let s := s.send (.claim epoch who)
  { s with holder := who, leaseEpoch := epoch, flash := { s.flash with lease := (epoch, who.val, s.now) },
           boot := { s.boot with claimed := true },
           gov := { s.gov with ctl := s.gov.ctl.map fun (x : CtlSt) => { x with epoch := epoch, heardAt := s.mono } },
           dies := s.dies.map fun (x : Die) =>
             { x with leaseEpoch := epoch, leaseHolder := who, renewedAt := s.mono, leaseExpired := false } }

/-- CTL_B_BOOT_CLAIM (R414): no claim 5 s after power-on, its own checks passed. -/
def execCtlBBootClaim (s : State) : Result :=
  if s.boot.stage = 1 ∧ !s.boot.claimed ∧ !s.boot.recovery ∧ s.boot.startAt + 5000000000 ≤ s.mono ∧ !s.ctlLost 1
      ∧ s.imageOk s.flash.image then
    .next (s.claimAt 1 (s.flash.lease.1 + 2))
  else .next s

/-- The starting FT of a boot (R411, R48). -/
def State.startFt (s : State) (p : Option Endpaper) : Nat :=
  let base := match p with
    | some p => p.ft + 1000000000
    | none => 0
  if s.setting 0x4101 1 = 1 then max base (s.setting 0x4101 3) else base

/-- Each die's epoch: the endpaper's plus 1, else random (R280). -/
def State.bootEpochs (s : State) (p : Option Endpaper) : State :=
  allDies.foldl (fun s d => match p with
    | some p => s.updDie d fun x => { x with epoch := (p.epochs.getD d.val 0 + 1) % 65536, boundary := x.ft }
    | none =>
      let (e, s) := s.fresh 65536
      s.updDie d fun x => { x with epoch := e, boundary := x.ft }) s

/-- Takes the valid endpaper, if there is one: FT, epochs, channel values, and its fault log ahead of new events, with E
(R388, R411, R456). The other slot is erased. -/
def State.takePaper (s : State) : State :=
  let p := s.bootPaper
  let s := s.mapFt fun _ => s.startFt p
  let s := { s with boot := { s.boot with paper := p }, endValid := p.isSome,
                    endFt := match p with
                      | some p => p.ft
                      | none => 0,
                    flash := { s.flash with papers := p.toList },
                    log := { s.log with recs := match p with
                      | some p => p.log.map fun (e : Event) => { e with old := true }
                      | none => [] } }
  let s := s.bootEpochs p
  if p.isNone then s.govEvent 0x0707 0 else s

/-- The keys of a store copy that does not authenticate read as absent (R421). -/
def withoutKeys (m : SMap Nat) : SMap Nat := m.filter fun e => decide (e.1 / 256 ≠ 0x7110)

/-- ROM recovery begins (R427). -/
def State.enterRecovery (s : State) : State :=
  { s with boot := { s.boot with recovery := true }, flash := { s.flash with heldRom := true },
           dict := s.dict.filter fun e => decide (e.1 / 256 = 0x1400) }

/-- The rest of step 1, once a control die holds the lease and firmware runs. -/
def State.firmwareStarts (s : State) (obs : BootObs) : State :=
  let s := State.takePaper { s with boot := { s.boot with image := s.flash.image } }
  let raiseIf (c : Bool) (x : Cause) (s : State) : State := if c then s.raise x else s
  let s := raiseIf (s.ctlLost (otherCtl s.holder)) { code := 0x080B, unit := uCtl (otherCtl s.holder) } s
  let s := raiseIf (s.holder == 1) { code := 0x0809, unit := uCtl 1 } s
  let s := raiseIf s.flash.heldRom { code := 0x0901, unit := uCtl s.holder } s
  let s := raiseIf s.power.tripped { code := 0x0709, unit := uCtl s.holder } s
  let s := { s with flash := { s.flash with heldRom := false }, power := { s.power with tripped := false, cause := 0 } }
  let bad (c : CtlId) : Bool := obs.pufFailed.any (· == c) || s.ctlLost c
  let s := { s with sec := { s.sec with puf := #v[!bad 0, !bad 1] } }
  let s : State := obs.pufFailed.foldl (fun s c => s.raise { code := 0x0904, unit := uCtl c }) s
  let s : State := if bad 0 && bad 1 then s.govEvent 0x0905 0 else s
  let s := if bad 0 && bad 1 then { s with dict := withoutKeys s.dict } else s
  let s := if !obs.storeKeysOk ∧ s.flash.store.isSome then
      State.govEvent { s with dict := withoutKeys s.dict,
                              flash := { s.flash with store := s.flash.store.map fun (x : Store) =>
                                { x with vals := withoutKeys x.vals, keysOk := false } } } 0x0905 0
    else s
  if obs.fieldOk ∧ s.flash.field.isSome then s
  else
    State.govEvent { s with flash := { s.flash with field := some FieldPart.empty },
                            boot := { s.boot with extended := true, discarded := true } } 0x0903 0

/-- Step 1: the ROM's checks, then firmware. None while no control die has claimed the lease. -/
def State.bootStep1 (s : State) (obs : BootObs) : State :=
  let s := { s with gov := { s.gov with ctl := Vector.ofFn fun (c : Fin 2) =>
    { s.gov.ctl[c] with failed := s.gov.ctl[c].failed || obs.ctlFailed.any (· == c) } } }
  if s.ctlLost 0 && s.ctlLost 1 then s
  else if !s.imageOk s.flash.image then
    State.enterRecovery { s with flash := { s.flash with bootCount := s.flash.bootCount + 1 } }
  else
    let s := if !s.boot.claimed && !s.ctlLost 0 then s.claimAt 0 (s.flash.lease.1 + 1) else s
    if !s.boot.claimed then s
    else
      let s := { s with flash := { s.flash with bootCount := s.flash.bootCount + 1 } }
      let s := s.firmwareStarts obs
      { s with boot := { s.boot with stage := 2, stepAt := s.mono } }

/-! ## Steps 2 to 4 (R227 to R229, R24, R25, R126, R127) -/

/-- What a lost spine path means, by the paths there were before (R27, R28): event 0x0486 for the edge die; an optical one's ports,
trained or in training, go down. -/
def State.pathsLost (s before : State) : State :=
  let now := s
  let s := (List.range 8).foldl (fun s n =>
    if !before.opticPath n ∨ now.opticPath n then s
    else
      let s := s.raise { code := 0x0486, unit := uEdge n }
      (allPorts.filter fun p => p.val / 6 == n).foldl (fun s p =>
        if (s.port p).trained ∨ (s.port p).state = .training then s.portFell p 0x0402 else s) s) s
  if before.hostPath && !now.hostPath then s.raise { code := 0x0486, unit := uHost } else s

/-- Takes a die out of service (R27). -/
def State.isolate (s : State) (d : DieId) (p : Presence) : State :=
  (s.updDie d fun x => { x with presence := p }).pathsLost s

/-- Step 2: failing dies and engines. -/
def State.bootStep2 (s : State) (obs : BootObs) : State :=
  let s := obs.failedDies.foldl (fun s d => (s.isolate d .isolated).updDie d fun x => { x with heldDown := true }) s
  let s := obs.failedEngines.foldl (fun s (d, e, f) => s.applyFault d e f) s
  { s with boot := { s.boot with stage := 3, stepAt := s.mono } }

/-- Failed lanes of group g of a channel. -/
def lanesOf (bad : List (Nat × Nat)) (c g : Nat) : List Nat :=
  (bad.filter fun e => e.1 == c && e.2 / 37 == g).map fun e => e.2 % 37

/-- A list with what another adds, nothing twice. -/
def union {α : Type} [DecidableEq α] (xs ys : List α) : List α := ys.foldl (fun zs y => if y ∈ zs then zs else zs ++ [y]) xs

/-- Whether a channel fails by its lanes: a group with two failed lanes, or one and its spare (R227). -/
def channelFails (bad : List (Nat × Nat)) (c : Nat) : Bool := (List.range 8).any fun g => decide (2 ≤ (lanesOf bad c g).length)

/-- Full training of a stack (R227 to R229), with the failed bonds of the map before this boot's patterns and after: the lanes and channels that take spares, the positions removed. A position keeps the spare
that an earlier training gave it; new assignments raise 0x0302 (R228). Both stand in the spare record (R481). -/
def State.trainStack (s : State) (d : DieId) (before after : List (Nat × Nat × Nat)) (found : List Nat)
    (foundLanes : List (Nat × Nat)) : State :=
  let f := s.flash.field.getD FieldPart.empty
  let known := (f.channels.filter (·.1 == d.val)).map (·.2)
      ++ (s.vendor.badChannels.filter fun k => k / 68 == d.val).map (· % 68) ++ bondChannels before d
  let found := found ++ bondChannels after d
  let knownLanes := union ((f.lanes.filter (·.1 == d.val)).map (·.2)) (bondLanes before d)
  let foundLanes := foundLanes ++ bondLanes after d
  let lanes := union knownLanes foundLanes
  let bad (c : Nat) : Bool := c ∈ known || c ∈ found || channelFails lanes c
  let oneLane := ((List.range 68).filter fun c => !bad c).flatMap fun c => (List.range 8).filterMap fun g =>
    match lanesOf lanes c g with
    | [l] => if l < 36 then some (8 * c + g, l) else none
    | _ => none
  let lost := (List.range 64).filter bad
  let kept := ((f.assigned.filter (·.1 == d.val)).map (·.2)).filter fun e => decide (e.1 ∈ lost) && !bad e.2
  let spares := [64, 65, 66, 67].filter fun c => !bad c && !kept.any fun e => e.2 == c
  let left := lost.filter fun k => !kept.any fun e => e.1 == k
  let dealt := left.zip spares
  let map := (List.range 64).map fun k =>
    if bad k then ((kept ++ dealt).find? fun e => e.1 == k).map (·.2) else some k
  let s := s.updDie d fun x =>
    { x with chanMap := map, lanes := oneLane.foldl (fun m e => SMap.set 0xFF m e.1 e.2) [],
             trainAt := (List.range 68).foldl (fun m c => SMap.set 0 m c s.mono) [], tempAt := s.mono }
  let newLanes : List (Nat × Nat) := lanes.filter fun e => decide (e ∉ knownLanes)
  let newChans := ((List.range 68).filter bad).filter fun c => decide (c ∉ known)
  let s := { s with flash := { s.flash with field := some { f with
    lanes := f.lanes ++ newLanes.map fun e => (d.val, e), channels := f.channels ++ newChans.map (fun c => (d.val, c)),
    assigned := f.assigned.filter (fun e => e.1 != d.val) ++ (kept ++ dealt).map fun e => (d.val, e) } } }
  let s := oneLane.foldl (fun (s : State) (e : Nat × Nat) =>
    if newLanes.any fun x => x.1 == e.1 / 8 && x.2 == 37 * (e.1 % 8) + e.2 then s.raise { code := 0x0301, unit := uChannel d (e.1 / 8) }
    else s) s
  let s := { s with gov := { s.gov with
    spares := s.gov.spares ++ (kept ++ dealt).map fun (e : Nat × Nat) => (uChannel d e.1, uChannel d e.2, s.now) } }
  let s := dealt.foldl (fun (s : State) (e : Nat × Nat) => s.raise { code := 0x0302, unit := uChannel d e.2 }) s
  (left.drop dealt.length).foldl (fun s _ => s.raise { code := 0x0303, unit := uStack d }) s

/-- Step 3: every stack is trained with its spares, an extended boot testing the bonds; all stand zeroed. -/
def State.bootStep3 (s : State) (obs : BootObs) : State :=
  let before := mapBonds s.wireMap
  let s := s.interconnectTest (obs.nets.filter (·.bond))
  let after := mapBonds s.wireMap
  let s := allDies.foldl (fun s d =>
    s.trainStack d before after ((obs.failedChannels.filter (·.1 == d)).map (·.2))
      ((obs.failedLanes.filter (·.1 == d)).map fun e => (e.2.1, e.2.2))) s
  { s with boot := { s.boot with stage := 4, stepAt := s.mono } }

/-- Training of a bridge direction from the wires known and found to have failed (R24, R25). -/
def State.trainBridge (s : State) (b : Fin 88) (known found : List (Nat × Nat)) (removed : List Nat) : State :=
  let all := union (union [] known) found
  let found := all.filter fun e => decide (e ∉ known)
  let n := sectionsBuilt b.val
  let wires (sec g : Nat) : List Nat := (all.filter fun e => e.1 == sec && decide (e.2 < 272) && e.2 / 17 == g).map (·.2 % 17)
  let has (sec w : Nat) : Bool := all.any fun e => e.1 == sec && e.2 == w
  let gone (sec : Nat) : Bool := sec ∈ removed || (has sec 272 && has sec 273)
      || (List.range 16).any fun g => decide (2 ≤ (wires sec g).length)
  let out := (List.range n).filter gone
  let up := (List.range n).filter fun sec => !gone sec
  let spares := up.flatMap fun sec => (List.range 16).filterMap fun g => match wires sec g with
    | [k] => if k < 16 then some (16 * sec + g, k + 1) else none
    | _ => none
  let clocks := up.filter fun sec => has sec 272
  let bridge : Bridge :=
    { failed := all.map fun e => 274 * e.1 + e.2, spares := spares.foldl (fun m e => SMap.set 0 m e.1 e.2) [],
      clocks := clocks, removed := out, path := (s.bridge b).path }
  let s := { s with bridges := s.bridges.set b bridge }
  let cause (code : Nat) : Cause := { code := code, unit := uDie (bridgeDie (b.val / 2)), detail := b.val }
  let s := spares.foldl (fun s e =>
    if found.any fun x => x.1 == e.1 / 16 && x.2 == 17 * (e.1 % 16) + e.2 - 1 then s.raise (cause 0x0481) else s) s
  let s := clocks.foldl (fun s sec => if found.contains (sec, 272) then s.raise (cause 0x0482) else s) s
  let s := out.foldl (fun s sec => if found.any (·.1 == sec) then s.raise (cause 0x0483) else s) s
  if 2 * up.length < n then s.raise (cause 0x0484) else s

/-- Step 4: the spine, from the per-wire map of both parts of the configuration record (R25, R31); the boot paths give way to the
sections (R413). An extended boot tests the wires first, and its new entries are found failures (R510). An edge die whose bridge is removed loses its spine
path (R28). -/
def State.bootStep4 (s : State) (obs : BootObs) : State :=
  let map := mapWires s.wireMap
  let onDir (b : Fin 88) (xs : List (Nat × Nat × Nat)) : List (Nat × Nat) := (xs.filter (·.1 == b.val)).map fun e => (e.2.1, e.2.2)
  let before := s
  let s := s.interconnectTest (obs.nets.filter fun n => !n.bond)
  let found := mapWires s.wireMap ++ obs.failedWires
  let s := { s with boot := { s.boot with stage := 5, stepAt := s.mono } }
  let s := (List.finRange 88).foldl (fun s b =>
    s.trainBridge b (onDir b map) (onDir b found)
      ((s.vendor.badSections.filter fun k => k / 32 == b.val).map (· % 32))) s
  s.pathsLost before

/-! ## Steps 5 to 8 (R288, R294, R367, R411, R412, R417, R448) -/

/-- The plan of the settings store comes into force, and its planned ports train (R367, R397). -/
def State.bootPlan (s : State) : State :=
  let s := { s with topo := { s.topo with plan := s.stagedPlan } }
  allPorts.foldl (fun s p =>
    let e := s.stagedPorts.getD p.val PortPlan.reset
    let s := s.updPort p fun x => { x with plan := e, exit := e.initial }
    if e.first.kind = 0 then s
    else if !s.spinePath p then s.setPort p .down 0
    else (s.updOpt p fun o => { o with fibre := .normal, shut := false,
                                       slots := o.slots.map fun (k : SlotSt) => { k with calAt := s.mono, res := s.setting 0x4500 4 } }).startTraining p e.initial) s

/-- Ports that still train when step 5 ends go down (R367). -/
def State.bootStep5 (s : State) (_ : BootObs) : State :=
  let s := allPorts.foldl (fun s p => if (s.port p).state == .training then s.portFell p 0x0402 else s) s
  let s := { s with topo := { s.topo with watch := true }, boot := { s.boot with stage := 6, stepAt := s.mono, told := false } }
  s.rejoin

/-- The heartbeat frame (R405). -/
def State.heartbeat (s : State) (b : Byte) : State :=
  let s := { s with can := { s.can with heartbeatAt := s.mono } }
  if s.can.nodeId ≠ 0 ∧ s.canOn then s.send (.can (0x700 + s.can.nodeId) [b]) else s

/-- Ready is reported: heartbeat, event 0x0807 with kind (1 full, 2 extended) and duration, the security version floor. -/
def State.bootReady (s : State) : State :=
  let s := { s with boot := { s.boot with stage := 9, stepAt := s.mono } }
  let s := s.heartbeat 5
  let s := s.govEvent 0x0807 ((if s.boot.extended then 2 else 1) * 2 ^ 56 + (s.mono - s.boot.startAt))
  if s.flash.floor < s.flash.image.security then
    State.govEvent { s with flash := { s.flash with floor := s.flash.image.security } } 0x0906 0
  else s

/-- The end of the boot step in progress with what its tests found. -/
def State.bootStep (s : State) (obs : BootObs) : State :=
  if s.boot.recovery then s
  else match s.boot.stage with
    | 1 => s.bootStep1 obs
    | 2 => s.bootStep2 obs
    | 3 => s.bootStep3 obs
    | 4 => (s.bootStep4 obs).bootPlan
    | 5 => s.bootStep5 obs
    | 6 => if s.joinMet then { s with boot := { s.boot with stage := 7, stepAt := s.mono, told := false },
                                      flash := { s.flash with last := s.flash.bootCount } } else s
    | 7 => if s.time.firstLocked then { s with boot := { s.boot with stage := 8, stepAt := s.mono } } else s
    | 8 => s.bootReady
    | _ => s

/-- BOOT_STEP_COMPLETE (R410): steps 6 and 7 wait until joined and locked. -/
def execBootStepComplete (obs : BootObs) (s : State) : Result := .next (s.bootStep obs)

/-- Limits of steps 1 to 5 in ns (R410). -/
def bootLimit (stage : Nat) : Nat := ([0, 5, 30, 120, 90, 30].getD stage 0) * 1000000000

def BootObs.none_ : BootObs :=
  { failedDies := [], failedEngines := [], failedChannels := [], failedLanes := [], failedWires := [], nets := [], ctlFailed := [],
    pufFailed := [], fieldOk := true, storeKeysOk := true }

/-- The units that have not finished the step, as failed: control dies, dies, stacks, bridge directions, ports, by number. -/
def unfinishedObs (stage : Nat) (us : List Nat) : BootObs :=
  let dies := allDies.filter fun d => d.val ∈ us
  if stage = 1 then { BootObs.none_ with ctlFailed := (List.finRange 2).filter fun c => c.val ∈ us }
  else if stage = 2 then { BootObs.none_ with failedDies := dies }
  else if stage = 3 then { BootObs.none_ with failedChannels := dies.flatMap fun d => (List.range 68).map fun c => (d, c) }
  else if stage = 4 then { BootObs.none_ with
    failedWires := (us.filter (· < 88)).flatMap fun b => (List.range (sectionsBuilt b)).flatMap fun k => [(b, k, 272), (b, k, 273)] }
  else BootObs.none_

/-- BOOT_STEP_LIMIT (R410): past its limit a step ends, its unfinished units failed; steps 6 and 7 raise 0x0808 once after 60 s. -/
def execBootStepLimit (unfinished : List Nat) (s : State) : Result :=
  let k := s.boot.stage
  if s.boot.recovery then .next s
  else if 1 ≤ k ∧ k ≤ 5 then
    if s.mono < s.boot.stepAt + bootLimit k then .next s
    else
      let s := s.govEvent 0x0808 0
      .next (s.bootStep (unfinishedObs k unfinished))
  else if (k = 6 ∨ k = 7) ∧ !s.boot.told ∧ s.boot.stepAt + 60000000000 ≤ s.mono then
    .next (State.govEvent { s with boot := { s.boot with told := true } } 0x0808 0)
  else .next s

end Sys2Proof.Machine
end

