-- ==== Sys2Proof/Machine/Memory.lean ====
section
/-! DEFINITION. What the stacks do on their own account: corrected codewords, the scrubber, temperature, retraining (R225, R240 to
R250, R254). -/

namespace Sys2Proof.Machine

/-- ECC_WRITE_BACK (R225): the oldest corrected codeword is written back corrected, unless a write came first. -/
def execEccWriteBack (d : DieId) (s : State) : Result := .next (s.updDie d fun x => { x with corrected := x.corrected.drop 1 })

/-- Effect of an uncorrectable codeword in a reserved region on its owner (R254). Which result entry, descriptor or trace records lie in
the codeword is open (log 49). -/
def State.regionError (s : State) (d : DieId) (k : Nat) : State :=
  if k = 0 then
    let (n, s) := s.fresh (2 ^ 32)
    let len := (s.die d).results.length
    if len = 0 then s else s.updDie d fun x => { x with results := x.results.eraseIdx (n % len) }
  else if k = 1 then
    { s with frz := { s.frz with cut := s.frz.cut.map fun c => { c with unusable := true } } }
  else if k = 2 then
    let (n, s) := s.fresh (2 ^ 32)
    let runs := (List.finRange 4).flatMap fun e => ((s.die d).mx[e].runs.filter fun r => !r.panels.isEmpty).map fun r => (e, r)
    match runs[n % (runs.length + 1)]? with
    | some (e, r) =>
      let s := s.updDie d fun x => { x with mx := x.mx.set e { x.mx[e] with
        runs := x.mx[e].runs.filter fun y => !(y.q == r.q && y.pos == r.pos) } }
      s.failAt r.q 0x12 r.pos
    | none => s
  else if k = 3 then
    let (n, s) := s.fresh 4
    s.updDie d fun x => { x with trace := x.trace.lose ⟨n % 4, by omega⟩ (x.stamp 3 0 23 0 0) 2 }
  else s

/-- SCRUB_READ (R250): a corrected codeword is counted and waits for its write-back; an uncorrectable one is reported as R253 says,
with no requester. Inside a reserved region only the cut hold area and canonical staging invalidate the interval (R254). -/
def execScrubRead (d : DieId) (cw : Nat) (found : EccObs) (s : State) : Result :=
  let x := s.die d
  let off := 32 * cw
  if x.capacity ≤ off ∨ s.setting 0x2121 1 = 0 then .next s else
  let ch := (x.localChannel off).getD 0
  match found with
  | .clean => .next s
  | .corrected => .next (s.updDie d fun x => { x.countMem (2 * ch) with corrected := insertNew x.corrected cw })
  | .uncorrectable =>
    let s := s.updDie d fun x => { x with badDram := insertNew x.badDram cw }
    let s1 := s.memError ⟨d, false, off⟩
    .next (match s.regionOf d off with
      | none => s1
      | some k => s1.regionError d k)

/-! ## Temperature (R240 to R243) -/

/-- A band or step with 2 °C of hysteresis: the highest entered, held while not below its leaving point. Readings in 0.1 °C. -/
def hysteresis (enter : List Int) (now : Nat) (t : Int) : Nat :=
  let up := (enter.filter (· ≤ t)).length
  let keep := (enter.filter (· - 20 ≤ t)).length
  if now ≤ up then up else min now keep

/-- Adds the time since the last reading to the residency of the band and the step in force. -/
def Die.reside (x : Die) (mono : Nat) : Die :=
  let dt := mono - x.tempAt
  let r := x.residency.zipIdx.map fun (v, i) =>
    if i = x.band ∨ (0 < x.step ∧ i = 2 + x.step) then v + dt else v
  { x with residency := r, tempAt := mono }

/-! ## Retraining (R245 to R248) -/

/-- The served channels of a stack, in logical order. -/
def Die.served (x : Die) : List Nat := x.chanMap.filterMap id

/-- UNSCHEDULED_RETRAIN (R244 to R246): drift and corrected codewords per ms of a channel. Beyond the unscheduled limits it
retrains at once, or after the one in progress; beyond the gutter limit it waits for the next gutter. -/
def execUnscheduledRetrain (d : DieId) (chan drift corrected : Nat) (s : State) : Result :=
  let x := s.die d
  if chan ∉ x.served then .next s
  else if s.setting 0x2120 3 < drift ∨ s.setting 0x2120 4 < corrected then
    let due (x : Die) : State := (s.setDie d x).raise { code := 0x0306, unit := uChannel d chan }
    match x.retrain with
    | none => .next (due { x with retrain := some (chan, false), retrainFrom := s.mono, retrains := (x.retrains.1, x.retrains.2 + 1) })
    | some (c, _) =>
      if c = chan ∨ chan ∈ x.retrainWait then .next s else .next (due { x with retrainWait := x.retrainWait ++ [chan] })
  else if s.setting 0x2120 2 < drift then
    if s.gut.waiting.any fun a => a.kind == .retrain && a.res == .channel d chan then .next s
    else .next { s with gut := { s.gut with
      waiting := s.gut.waiting ++ [{ kind := .retrain, res := .channel d chan, arg := 0, from_ := 0, deferred := 0 }] } }
  else .next s

/-- Whether the spare lane of a channel's group is in use (0x2111). -/
def State.spareTaken (s : State) (d : DieId) (c g : Nat) : Bool := SMap.get 0xFF (s.die d).lanes (8 * c + g) != 0xFF

/-- The spare of a group takes a lane: 0x2111 shows it. -/
def State.tipLane (s : State) (d : DieId) (c g l : Nat) : State :=
  s.updDie d fun x => { x with lanes := SMap.set 0xFF x.lanes (8 * c + g) l }

/-- A retrain tips in the unused spare lane of a group for a lane that has failed since the last full training (R245). -/
def State.tipLanes (s : State) (d : DieId) (c : Nat) (lanes : List (Nat × Nat)) : State :=
  lanes.foldl (fun s (g, l) =>
    if s.spareTaken d c g ∨ 8 ≤ g ∨ 36 ≤ l then s
    else (s.tipLane d c g l).raise { code := 0x0301, unit := uChannel d c }) s

/-- The field part of the configuration record learns a channel that the next full training replaces (R31, R32, R248, log 140). -/
def State.noteChannel (s : State) (d : DieId) (c : Nat) : State :=
  let f := s.flash.field.getD FieldPart.empty
  if (d.val, c) ∈ f.channels then s
  else { s with flash := { s.flash with field := some { f with channels := f.channels ++ [(d.val, c)] } } }

/-- RETRAIN_COMPLETE (R245, R247, R248): lanes that failed take their group's unused spare; a failed retrain leaves the settings; three
in a row raise 0x0307. The next unscheduled one that waits begins. -/
def execRetrainComplete (d : DieId) (obs : RetrainObs) (s : State) : Result :=
  match (s.die d).retrain with
  | none => .next s
  | some (c, planned) =>
    let s := s.tipLanes d c obs.lanes
    let s := s.emit d 0x09 1 21 0 (c * 2 ^ 33 + (if planned then 0 else 2 ^ 32) + (s.mono - (s.die d).retrainFrom) % 2 ^ 32)
    let fails := if obs.restored then 0 else SMap.get 0 (s.die d).trainFails c + 1
    let s := s.updDie d fun x =>
      { x with trainFails := SMap.set 0 x.trainFails c fails, trainAt := SMap.set 0 x.trainAt c s.mono,
               retrainFrom := s.mono,
               retrain := match x.retrainWait with
                 | w :: _ => some (w, false)
                 | [] => none,
               retrains := (x.retrains.1, x.retrains.2 + if x.retrainWait.isEmpty then 0 else 1),
               retrainWait := x.retrainWait.drop 1 }
    .next (if fails = 3 then (s.noteChannel d c).raise { code := 0x0307, unit := uChannel d c } else s)

/-- The channel that a stack retrains in a gutter (R245, R248): a failed one first, then the most overdue, then the lowest logical
channel. -/
def State.retrainDue (s : State) (d : DieId) (t : Nat) : Option Nat :=
  let x := s.die d
  let failed (c : Nat) : Bool := let n := SMap.get 0 x.trainFails c
    0 < n && decide (n < 3)
  let asked (c : Nat) : Bool := s.gut.waiting.any fun a => a.kind == .retrain && a.res == .channel d c && decide (a.from_ ≤ t)
  let due (c : Nat) : Bool := asked c || decide (SMap.get 0 x.trainAt c + s.setting 0x2120 1 * 1000000 ≤ s.mono)
  match x.served.find? failed with
  | some c => some c
  | none =>
    let cs := x.served.filter due
    let oldest := (cs.map fun c => SMap.get 0 x.trainAt c).foldl Nat.min (2 ^ 64)
    cs.find? fun c => SMap.get 0 x.trainAt c == oldest

end Sys2Proof.Machine
end

