-- ==== Sys2Proof/Machine/Gutter.lean ====
section
/-! DEFINITION. Gutters: their schedule and timeline, the actions of R55 in priority order, deferrals and overruns (R51 to R58). -/

namespace Sys2Proof.Machine

/-! ## Schedule (R51, R52) -/

/-- The staged schedule's values (R51). -/
def State.stagedSchedule (s : State) : Schedule :=
  { period := s.setting 0x4120 1, phase := s.setting 0x4120 2, length := s.setting 0x4120 3, guard := s.setting 0x4120 4,
    ident := s.setting 0x4120 6 }

/-- The rules of R52, and the phase below the period. -/
def Schedule.ok (c : Schedule) : Bool :=
  decide (c.phase < c.period) && decide (20 * c.length ≤ c.period) && decide (4 * c.guard ≤ c.length)
    && decide (4000 + 2 * c.guard ≤ c.length)

/-- A write of 0x4120:05: status, and the schedule staged for its FT (R51, R52, R394); a manager sends it to every member (R309). -/
def State.stageSchedule (s : State) (t : Nat) : State × Nat :=
  let c := s.stagedSchedule
  if !c.ok then (s, 0x02)
  else if t < s.now + 1000000 then (s, 0x05)
  else
    let s : State := { s with gut := { s.gut with staged := some (c, (t : Int)) } }
    (if s.isManager then s.sendMgmtAll s.holder ((s.members.filter (· ≠ s.node)).map fun n => .schedule n c t) else s, 0)

/-- GUTTER_SCHEDULE_TAKES_EFFECT (R51). -/
def execGutterScheduleTakesEffect (s : State) : Result :=
  match s.gut.staged with
  | some (c, t) => if t ≤ (s.now : Int) then .next { s with gut := { s.gut with sched := c, staged := none } } else .next s
  | none => .next s

/-- ONE_OFF_GUTTER (R58, R49): less than 50 µs ahead it is rejected with the status of a late FT instant, which answers the manager
(log 131). -/
def execOneOffGutter (t ports : Nat) (s : State) : Result :=
  if t < s.now + 50000 then .next (s.sendMgmt s.holder (.answer s.manager 0x05))
  else if ports = 0 then .next s
  else .next { s with gut := { s.gut with oneOffs := s.gut.oneOffs ++ [(t, ports)] } }

/-! ## The timeline (R54) -/

/-- GUTTER_START (R54): injection stops on every port of the gutter. A freeze of the same instant comes first (R50). A periodic gutter
due while a one-off gutter runs replaces it and takes its running actions over; a one-off gutter that cannot start within its guard
does not start (log 132). -/
def execGutterStart (s : State) : Result :=
  if !s.calm 1 then .next s else
  match s.gutterToStart with
  | some (g, ports, once) =>
    let c := s.gut.sched
    .next { s with gut := { s.gut with
      now := some { start := g, length := c.length, guard := c.guard, ports := ports, once := once, opened := false, closed := false,
                    running := (s.gut.now.map (·.running)).getD [] },
      lastStart := if once then s.gut.lastStart else some g,
      oneOffs := s.gut.oneOffs.filter fun (t, _) => decide (s.now < t + c.guard) && !(once && t == g) } }
  | none => .next s

/-! ## Choice of actions (R45, R55 to R58) -/

/-- Priority of an action, 1 to 7 (R55). -/
def priority : GutterKind → Nat
  | .steer => 1
  | .move => 2
  | .slotReturn => 3
  | .withdrawal => 4
  | .retrain => 5
  | .eyeScan => 6
  | .selfTest => 7

def twoEnded (k : GutterKind) : Bool := decide (priority k ≤ 4)

/-- Whether two actions need the same resource: a steered port takes no other optical action (R55, R56); one withdrawal per port; one
channel per stack. -/
def clash (a b : Action) : Bool := match a.res, b.res with
  | .port p, .port q => p == q
  | .port p, .slot q _ => p == q
  | .slot p _, .port q => p == q
  | .slot p k, .slot q j => p == q && (k == j || (a.kind == .withdrawal && b.kind == .withdrawal)
      || (a.kind == .move && b.kind == .move && a.arg == b.arg))
  | .channel d _, .channel e _ => d == e
  | .section_ b i, .section_ c j => b == c && i == j
  | .engine d _, .engine e _ => d == e
  | _, _ => false

/-- The unit that a resource names in an event; of a port, with its exit. -/
def State.resUnit (s : State) : GutterRes → Nat
  | .port p => uPort p (s.port p).exit
  | .slot p k => uSlot p k.val
  | .channel d c => uChannel d c
  | .section_ b _ => uDie (bridgeDie (b / 2))
  | .engine d e => uEngine d e

/-- The engine a die tests in this gutter: the next enabled one after the engine tested last (R57). -/
def State.testNext (s : State) (d : DieId) : Option (Fin 4) :=
  let x := s.die d
  if x.presence != .inService || x.zeroing then none else
  ([1, 2, 3, 4].map fun (i : Nat) => (⟨(x.testLast.val + i) % 4, by omega⟩ : Fin 4)).find? fun e =>
    !s.folioDisabled d (e.val / 2) && !x.mx[e].removed

/-- Steers whose FT is the gutter's start, on the ports of their mask (R334). -/
def State.steersAt (s : State) (g : Nat) : List Action :=
  s.gut.steers.flatMap fun (ft, mask, exits) => if ft ≠ g then [] else
    (allPorts.filter fun p => bit mask p.val).map fun p =>
      { kind := .steer, res := .port p, arg := if bit exits p.val then 1 else 0, from_ := g, deferred := 0 }

/-- Whether an eye scan may take a unit: a spine section in service, or an in-service slot of a fabric port (R55). -/
def State.scannable (s : State) (r : GutterRes) : Bool := match r with
  | .section_ b i =>
    if h : b < 88 then decide (i < sectionsBuilt b) && !(s.bridge ⟨b, h⟩).removed.contains i else false
  | .slot p k => decide (p.val < 44) && (s.slot p k).st == .inService
  | _ => false

/-- The actions that may run in a gutter, by priority. Which units' eye scans are due is the module's own choice (log 28). -/
def State.candidates (s : State) (obs : WindowObs) (g : Gutter) : List Action :=
  let waiting := s.gut.waiting.filter fun a => decide (a.from_ ≤ g.start) && a.kind != .retrain && a.kind != .selfTest
  let before (k : GutterKind) (r : GutterRes) : Nat :=
    ((s.gut.waiting.find? fun a => a.kind == k && a.res == r).map (·.deferred)).getD 0
  let retrains := allDies.filterMap fun d =>
    if (s.die d).retrain.isSome then none else (s.retrainDue d g.start).map fun c =>
      { kind := .retrain, res := .channel d c, arg := 0, from_ := 0, deferred := before .retrain (.channel d c) }
  let tests := allDies.filterMap fun d => (s.testNext d).map fun e =>
    { kind := .selfTest, res := .engine d e, arg := 0, from_ := 0, deferred := before .selfTest (.engine d e) }
  let scans := (obs.scans.filter fun r => s.scannable r && !waiting.any fun a => a.kind == .eyeScan && a.res == r).map fun r =>
    { kind := .eyeScan, res := r, arg := 0, from_ := 0, deferred := 0 }
  let all := s.steersAt g.start ++ waiting ++ retrains ++ scans ++ tests
  (List.range 7).flatMap fun i => all.filter fun a => priority a.kind == i + 1

/-- Whether the port of an action belongs to the gutter. -/
def Gutter.includes (g : Gutter) (a : Action) : Bool := match a.res with
  | .port p => bit g.ports p.val
  | .slot p _ => bit g.ports p.val
  | _ => true

/-- Whether the module's time state lets an action run: none while unlocked, one-ended ones only in degraded holdover or beyond its
bound (R45). -/
def State.timeAllows (s : State) (a : Action) : Bool := match s.time.lock with
  | .unlocked => false
  | .locked => true
  | .holdover => !twoEnded a.kind || decide (2 * s.errorBound ≤ s.gut.sched.guard)
  | .degraded => !twoEnded a.kind

/-- Whether the port of a two-ended action is excluded from them (R51, R53). -/
def State.portAllows (s : State) (a : Action) : Bool := match a.res with
  | .port p => !(s.port p).time.oneEnded
  | .slot p _ => !(s.port p).time.oneEnded
  | _ => true

/-- Whether two-ended actions wait for degraded holdover: its state, or a holdover whose bound already asks for it (R45). -/
def State.degradedNow (s : State) : Bool := s.time.lock == .degraded ||
  (s.time.lock == .holdover && decide (s.gut.sched.guard < 2 * s.errorBound))

/-- Counts a deferral: by kind, or a two-ended one in degraded holdover under its own count. The action waits for the next gutter. The
64th deferral in a row raises 0x0608, whose detail names the action that displaced it, by its priority and unit (R58, log 133). -/
def State.defer (s : State) (a : Action) (by_ : Option Action) : State :=
  let k := priority a.kind - 1
  let degraded := twoEnded a.kind && s.degradedNow
  let g := s.gut
  let g := if degraded then { g with degDeferrals := g.degDeferrals + 1 }
    else { g with deferrals := g.deferrals.setIfInBounds k (g.deferrals.toList.getD k 0 + 1) }
  let a' := { a with deferred := a.deferred + 1 }
  let keep := g.waiting.filter fun x => !(x.kind == a.kind && x.res == a.res)
  let s := { s with gut := { g with waiting := keep ++ [a'] } }
  let s := match a.kind, a.res with
    | .withdrawal, .slot p _ => s.countOpt p 6
    | _, _ => s
  if a'.deferred = 64 then
    s.raise { code := 0x0608, unit := s.resUnit a.res,
              detail := (by_.map fun b => priority b.kind * 2 ^ 32 + s.resUnit b.res).getD 0 }
  else s

/-! ## Carrying actions out -/

/-- A steered port: both switches move, and the port trains on the new exit; its routes and its queue stay as they are until the gutter
ends (R292, R307, R362). The old neighbour's state word goes. -/
def State.steerPort (s : State) (p : PortId) (exit : Nat) : State :=
  if (s.port p).state != .up || (s.port p).exit == exit then s else
  let s := s.updPort p fun x =>
    { x with state := .training, cause := 0, since := s.mono, exit := exit, word := none, old := some x.exit, recheck := false,
             time := { x.time with remeasure := true, sent := none } }
  { s with topo := { s.topo with words := s.topo.words.filter fun (q, _, _) => q ≠ p.val } }

/-- Whether a waiting slot action still has a reason on the link that its port now has (R56). -/
def State.stillWanted (s : State) (a : Action) : Bool := match a.res with
  | .slot p k =>
    let x := s.slot p k
    let low := match x.line with
      | some l => (s.line (combOf p) l).low
      | none => true
    (match a.kind with
      | .move => if a.arg < 18 then low || x.st != .inService else x.newLine.isSome
      | .slotReturn => x.st == .withdrawn && x.passed
      | .withdrawal => x.st == .inService && s.due x
      | .eyeScan => x.st == .inService
      | _ => true)
  | _ => true

/-- Deferred slot actions of steered ports are judged again on the new exit (R56). -/
def State.reevaluate (s : State) (run : List Action) : State :=
  let steered := run.filterMap fun a => match a.kind, a.res with
    | .steer, .port p => some p
    | _, _ => none
  { s with gut := { s.gut with waiting := s.gut.waiting.filter fun a => match a.res with
      | .slot p _ => !steered.contains p || s.stillWanted a
      | _ => true } }

/-- A self-test slice of an engine (R57, R128): faults found are noted with event 0x0103; 2,048 slices make the engine's test, and the
engines' tests a round, whose time stands until the next round of any die ends (log 152). -/
def State.testSlice (s : State) (d : DieId) (e : Fin 4) (fs : List CellFault) : State :=
  let s := s.updMx d e fun m => { m with slices := m.slices + 1, found := m.found ++ fs, failedRound := m.failedRound || !fs.isEmpty }
  let s := s.updDie d fun x => { x with testLast := e }
  let s := if fs.isEmpty then s else s.faultEvent d e
  if (s.die d).mx[e].slices < 2048 then s
  else
    let s := s.updMx d e fun m =>
      { m with slices := 0, failedRound := false, passFt := if m.failedRound then m.passFt else (s.die d).ft }
    let done := (List.finRange 4).all fun i => s.folioDisabled d (i.val / 2) || (s.die d).mx[i].removed || (s.die d).mx[i].slices == 0
    if done then
      let ms := ((s.die d).ft - (s.die d).roundFt) / 1000000
      State.updDie { s with gut := { s.gut with roundMs := ms } } d fun x => { x with roundFt := x.ft }
    else s

/-- Starts one action at the window's opening. -/
def State.startAction (s : State) (a : Action) (obs : WindowObs) : State :=
  match a.kind, a.res with
  | .steer, .port p => s.steerPort p a.arg
  | .move, .slot p k =>
    if h : a.arg < 18 then s.moveSlot p k ⟨a.arg, h⟩ else s.replaceLine p k
  | .slotReturn, .slot p k => s.returnSlot p k
  | .withdrawal, .slot p k =>
    if (s.slot p k).st = .inService then s.updSlot p k fun x => { x with st := .withdrawn, passed := false, good := 0 } else s
  | .retrain, .channel d c => s.updDie d fun x => { x with retrain := some (c, true), retrainFrom := s.mono, retrains := (x.retrains.1 + 1, x.retrains.2) }
  | .selfTest, .engine d e => s.testSlice d e ((obs.faults.filter fun f => f.1 == d).map (·.2))
  | _, _ => s

/-- Whether an action may run now: at most one slot of a port is out (R56), and a slot enters service only after two valid markers in a
row (R353). -/
def State.stillDue (s : State) (a : Action) : Bool := match a.kind, a.res with
  | .withdrawal, .slot p _ => allSlots.all fun k => !(s.slot p k).bars
  | .slotReturn, .slot p k => decide (2 ≤ (s.slot p k).good)
  | .move, .slot p k =>
    if h : a.arg < 18 then decide (2 ≤ (s.slot p ⟨a.arg, h⟩).good) || (s.slot p ⟨a.arg, h⟩).st != .spare
    else decide (2 ≤ (s.slot p k).good)
  | _, _ => true

/-- An action of this module's request that the far end has not acknowledged waits for the following gutter, which is named anew
(R349, R358). -/
def State.unanswered (s : State) (a : Action) : State :=
  let s := s.defer a none
  match a.kind, a.res with
  | .move, .slot p k => s.send (.link p (.move k.val a.arg (s.nextGutter p)))
  | .withdrawal, .slot p k => s.send (.link p (.calibrate k.val (s.nextGutter p)))
  | _, _ => s

/-- Takes the next action: run, or deferred behind what displaced it. Self-test slices run in the Run state only (R433). -/
def State.takeAction (obs : WindowObs) (g : Gutter) (s : State × List Action) (a : Action) : State × List Action :=
  let (s, run) := s
  if !g.includes a then (s, run)
  else if !s.timeAllows a || (twoEnded a.kind && !s.portAllows a) || (a.kind == .selfTest && s.power.st != .run) then (s.defer a none, run)
  else match (run ++ s.gut.overrun).find? (clash a) with
    | some b => (s.defer a (some b), run)
    | none =>
      if !s.stillDue a then (s.defer a none, run)
      else if (a.kind == .withdrawal || (a.kind == .move && decide (a.arg < 18))) && obs.unacked.contains a.res then
        (s.unanswered a, run)
      else
        let s := { s with gut := { s.gut with waiting := s.gut.waiting.filter fun x => !(x.kind == a.kind && x.res == a.res) } }
        (s.startAction a obs, run ++ [a])

/-- What the window measured: link delays of steered ports, switches that did not settle (R54, R362). -/
def State.takeObs (s : State) (obs : WindowObs) : State :=
  let s := obs.delays.foldl (fun s (p, d) =>
    let s := s.updPort p fun x => { x with time := { x.time with delay := some d, remeasure := false } }
    let t := (s.port p).time
    s.exclude p (decide (((s.gut.sched.guard : Int) - 40) * 1000 < d) || (t.oneEnded && t.schedule != s.gut.sched.ident)) false) s
  obs.unsettled.foldl (fun s p =>
    if s.steering p then
      let now := s.gut.now.map fun (g : Gutter) => { g with running := g.running.filter fun a => !onPort a.res p }
      let s : State := { s with gut := { s.gut with now := now } }
      (s.portFell p 0x050D).raise { code := 0x050D, unit := uPort p (s.port p).exit }
    else s) s

/-- ACTION_WINDOW_OPEN (R54, R55): at g + guard. -/
def execActionWindowOpen (obs : WindowObs) (s : State) : Result :=
  match s.gut.now with
  | none => .next s
  | some g =>
    if g.opened ∨ s.now < g.start + g.guard then .next s
    else
      let (s, run) := (s.candidates obs g).foldl (State.takeAction obs g) (s, g.running)
      let s := { s with gut := { s.gut with now := some { g with opened := true, running := run },
                                            steers := s.gut.steers.filter fun (ft, _, _) => decide (g.start < ft) } }
      .next ((s.reevaluate run).takeObs obs)

/-- The slot that an action has put or leaves in service, or a new spare of it. -/
def Action.slotOf (a : Action) : Option (PortId × Fin 18) := match a.kind, a.res with
  | .move, .slot p k => if h : a.arg < 18 then some (p, ⟨a.arg, h⟩) else some (p, k)
  | .slotReturn, .slot p k => some (p, k)
  | .eyeScan, .slot p k => some (p, k)
  | _, _ => none

/-- The bridge direction that a record about a spine section carries (R454). -/
def resDirection : GutterRes → Nat
  | .section_ b _ => b
  | _ => 0

/-- An action that still runs at the window's close: its unit stays out of service until it completes (R54). A slot leaves service here;
a spine section, an engine and a channel are out while the action is among those that overran. -/
def State.overran (s : State) (a : Action) : State :=
  let s := { s with gut := { s.gut with overruns := s.gut.overruns + 1, overrun := s.gut.overrun ++ [a] } }
  let s := match a.slotOf with
    | some (p, k) =>
      if (s.slot p k).st = SlotState.inService ∨ (s.slot p k).st = SlotState.spare then s.updSlot p k fun x => { x with st := .withdrawn, passed := true }
      else s
    | none => s
  s.raise { code := 0x0609, unit := s.resUnit a.res, detail := resDirection a.res }

/-- An action that overran an earlier window and has completed: its slot returns in a later gutter. -/
def State.completed (s : State) (a : Action) : State := match a.slotOf with
  | some (p, k) => if (s.slot p k).st = .withdrawn ∧ (s.slot p k).passed then s.request .slotReturn (.slot p k) 0 (s.nextGutter p) else s
  | none => s

/-- ACTION_WINDOW_CLOSE (R54, R362): the actions whose resources still run overran; a completed steer raises 0x050C. -/
def execActionWindowClose (running : List GutterRes) (s : State) : Result :=
  match s.gut.now with
  | none => .next s
  | some g =>
    if !g.opened ∨ g.closed ∨ s.now + g.guard < g.start + g.length then .next s
    else
      let ran := s.gut.overrun
      let s : State := { s with gut := { s.gut with now := some { g with closed := true },
                                                    overrun := ran.filter fun a => decide (a.res ∈ running) } }
      let s := (ran.filter fun a => decide (a.res ∉ running)).foldl State.completed s
      .next (g.running.foldl (fun s a =>
        if a.res ∈ running then s.overran a
        else match a.kind, a.res with
          | .steer, .port p => s.raise { code := 0x050C, unit := uPort p (s.port p).exit }
          | _, _ => s) s)

/-- GUTTER_END (R54, R307): injection resumes, and the routes that steering changed take effect. -/
def execGutterEnd (s : State) : Result :=
  match s.gut.now with
  | none => .next s
  | some g =>
    if !g.closed ∨ s.now < g.start + g.length then .next s
    else
      let steered := allPorts.filter fun p => (s.port p).old.isSome
      let s : State := { s with gut := { s.gut with now := none } }
      let s := steered.foldl (fun s p => s.updPort p fun x => { x with old := none }) s
      .next (steered.foldl (fun s p => if (s.port p).state = .up then s else s.reroute p) s).rejoin.reparent

end Sys2Proof.Machine
end

