-- ==== Sys2Proof/Machine/Power.lean ====
section
/-! DEFINITION. Input power, power states, sag, critical shutdown and the endpaper's write (R430 to R449). -/

namespace Sys2Proof.Machine

/-! ## The power limit (R430, R431) -/

/-- The limit in force: the lower of the configured and the thermal limit (0x3010:02). -/
def State.powerLimit (s : State) : Nat := min (s.setting 0x3010 1) s.power.thermal

/-- Gives the core clock of the Run state a value; every die's trace writes a clock pair when the clock changes (R40, R430, R493). -/
def State.setClock (s : State) (mhz : Nat) : State :=
  State.pairsFrom { s with power := { s.power with clock := mhz } } s.coreClock

/-- The clock of the limit's controller: in 25 MHz steps down while the limit or the transient cap is exceeded, up while it is
not; how many steps is open (log 52). -/
def State.nextClock (s : State) (beyond : Bool) : Nat × State :=
  let c := s.power.clock
  if beyond then
    let room := (c - 300) / 25
    if room = 0 then (c, s)
    else
      let (n, s) := s.fresh room
      (c - 25 * (n + 1), s)
  else
    let (n, s) := s.fresh ((1200 - c) / 25 + 1)
    (c + 25 * n, s)

/-- Engines that the power limit's floor has stopped at a boundary go on (R430). -/
def State.unpark (s : State) : State :=
  { s with dies := s.dies.map fun (x : Die) =>
      { x with unit := x.unit.map fun (u : UnitSt) => { u with parked := u.parked && u.stopping } } }

/-- POWER_SAMPLE (R430, R431, R449): readings are reported every 1 ms; during a switchover pause the clock keeps its frequency. -/
def execPowerSample (m : PowerObs) (s : State) : Result :=
  if s.power.st = .off then .next s else
  let s := { s with power := { s.power with average := m.average } }
  let s := if s.power.shownAt = 0 ∨ s.power.shownAt + 1000000 ≤ s.mono then
      { s with power := { s.power with shownAt := s.mono, volts := m.volts, amps := m.amps, watts := m.watts } } else s
  let s := if 5800 < m.volts ∧ (s.power.overAt = 0 ∨ s.power.overAt + 60000000000 ≤ s.mono + 1) then
      State.govEvent { s with power := { s.power with overAt := s.mono + 1 } } 0x070A 0 else s
  let s := if 11000 < m.watts ∧ (s.power.capAt = 0 ∨ s.power.capAt + 1000000000 ≤ s.mono + 1) then
      State.govEvent { s with power := { s.power with capAt := s.mono + 1 } } 0x070C 0 else s
  let beyond : Bool := decide (s.powerLimit < m.average) || decide (11000 < m.watts)
  if s.pause.isSome then .next s
  else
    let (c, s) := s.nextClock beyond
    let s := s.setClock c
    let stalled : Bool := if s.powerLimit < m.average then decide (c = 300) || s.power.stalled
      else s.power.stalled && decide (m.average = s.powerLimit)
    let s : State := { s with power := { s.power with stalled := stalled } }
    .next (if stalled then s else s.unpark)

/-! ## Refusals and aborts (R435, R436) -/

/-- Counts one refusal or abort: a new combination beyond 128 replaces the entry with the oldest last FT. -/
def countRefusal (xs : List RefusalEntry) (e : RefusalEntry) : List RefusalEntry :=
  let same (x : RefusalEntry) : Bool :=
    x.target == e.target && x.reason == e.reason && x.aborted == e.aborted && x.unit == e.unit && x.refuser == e.refuser
  if xs.any same then xs.map fun x => if same x then { x with count := min (x.count + 1) 0xFFFFFFFF, ft := e.ft } else x
  else if xs.length < 128 then xs ++ [e]
  else
    let oldest := (xs.map (·.ft)).foldl Nat.min (2 ^ 64)
    match findIdxFrom (fun x : RefusalEntry => x.ft == oldest) xs 0 with
    | some i => xs.set i e
    | none => xs

/-- The 24 bytes of an entry (R436). -/
def RefusalEntry.bytes (e : RefusalEntry) : List Byte :=
  leBytes 1 e.target ++ leBytes 1 e.reason ++ leBytes 1 (if e.aborted then 1 else 0) ++ leBytes 1 (if e.unit then 1 else 0) ++
  leBytes 4 e.refuser ++ leBytes 4 e.count ++ leBytes 4 0 ++ leBytes 8 e.ft

/-- An endpaper's slot in flash: 256 KiB with the SM3 digest of what precedes it as the seal. -/
def Endpaper.bytes (p : Endpaper) : List Byte :=
  let zeros (n : Nat) : List Byte := List.replicate n (0 : Byte)
  let pad (n : Nat) (bs : List Byte) : List Byte := (bs ++ zeros n).take n
  let body :=
    [0x45#8, 0x4E#8, 0x44#8, 0x50#8] ++ leBytes 2 1 ++ leBytes 1 p.cause ++ zeros 1 ++ leBytes 4 p.bootCount
    ++ leBytes 4 p.log.length ++ leBytes 8 p.ft ++ leBytes 4 p.timeEpoch ++ leBytes 4 p.mgrEpoch ++ leBytes 4 p.planId
    ++ leBytes 4 p.leaseEpoch ++ zeros 24
    ++ p.epochs.flatMap (leBytes 2) ++ zeros 24
    ++ p.marks.flatMap (fun (h, r, e) => leBytes 8 h.toNat ++ leBytes 4 r ++ leBytes 4 e)
    ++ p.stitches.flatMap (fun (i, t) => leBytes 8 i ++ leBytes 8 t)
    ++ p.chans.flatMap (fun (o, session, accepted, completed) =>
        leBytes 1 (if o then 1 else 0) ++ zeros 3 ++ leBytes 4 session ++ leBytes 4 accepted ++ leBytes 4 completed)
    ++ (List.range 20).flatMap (fun d => (List.range 0x58).flatMap fun k => leBytes 4 (SMap.get 0 p.highest (256 * d + k)))
    ++ zeros 128
    ++ pad 4096 (leBytes 4 p.refusals.length ++ leBytes 4 0 ++ p.refusals.flatMap RefusalEntry.bytes)
    ++ p.entries.flatMap (leBytes 8) ++ zeros 3544 ++ pad 245696 (p.log.flatMap Event.bytes) ++ zeros 32
  body ++ sm3 body

/-- Counts a refuser and raises event 0x0702, its detail the reason; a quire's entry names its number. -/
def State.refuseEntry (s : State) (target reason : Nat) (aborted : Bool) (unit refuser : Nat) (ctx : Option Nat) : State :=
  let quire := decide (refuser < 4) && decide (unit / 2 ^ 24 = 0x0F)
  let e : RefusalEntry :=
    { target := target, reason := reason, aborted := aborted, unit := !quire, refuser := refuser, count := 1, ft := s.now }
  State.raise { s with power := { s.power with refusals := countRefusal s.power.refusals e } }
    { code := 0x0702, unit := unit, ctx := ctx, detail := reason }

/-- The entries of a target that a command counted last, at most 8. -/
def State.refusalData (s : State) (target : Nat) (aborted : Bool) (keys : List (Nat × Nat)) : List Byte :=
  ((s.power.refusals.filter fun e => e.target == target && e.aborted == aborted && keys.contains (e.reason, e.refuser)).take 8).flatMap
    RefusalEntry.bytes

def PowerState.code : PowerState → Nat
  | .run => 0
  | .idle => 1
  | .sleep => 2
  | .deepSleep => 3
  | .off => 4

def powerOf (n : Nat) : PowerState :=
  if n = 0 then .run else if n = 1 then .idle else if n = 2 then .sleep else if n = 3 then .deepSleep else .off

/-- Every refuser of an entry (R435): reason, unit code for the event, refuser of the entry, context. -/
def State.refusers (s : State) (t : PowerState) : List (Nat × Nat × Nat × Option Nat) :=
  let deepish : Bool := t != .idle
  let gov := (uCtl s.holder, uCtl s.holder, none)
  ((allQuires.filter fun k => s.quireState k == 2).map fun k => (1, uQuire k, k.val, none))
    ++ (if t = .deepSleep then allDies.flatMap fun d => (allCtx.filter fun c => (s.getCtx d c).state != .empty).map fun c =>
          (2, uDie d, uDie d, some c.val) else [])
    ++ (if deepish ∧ (s.setting 0x4101 1 = 1 ∨ s.setting 0x4350 1 = 1 ∨ s.setting 0x4350 1 = 2) then [(3, gov)] else [])
    ++ (if deepish ∧ (s.flash.copy.isSome ∨ s.flash.saving.isSome) then [(4, gov)] else [])
    ++ (if s.power.st ≠ .run ∧ t ≠ .off then [(5, gov)] else [])

/-- Undoes an entry in progress for a reason (R435): the previous state stays, the abort is counted, the command ends with 0x60. -/
def State.abortEntry (s : State) (reason unit : Nat) : State :=
  match s.power.entering with
  | none => s
  | some (t, seq) =>
    let s := { s with power := { s.power with entering := none } }
    let s := s.refuseEntry t.code reason true unit unit none
    s.finish 0 seq 0x60 (s.refusalData t.code true [(reason, unit)])

/-! ## Power-state commands (R434 to R438) -/

/-- A POWER STATE command in hand whose target is Run, or is not (R434, R412). -/
def State.powerCommand (s : State) (seq : Nat) (exit : Bool) (run : Nat → State) : Result :=
  match s.ready 0 seq 0x10 with
  | none => .next s
  | some x =>
    let t := bits (x.qw 2) 63 60
    if 5 ≤ t then .next (s.finish 0 seq 0x01 [])
    else if decide (t = 0) ≠ exit ∨ s.boot.stage ≠ 9 then .next s
    else if !s.hostPath then .next (s.finish 0 seq 0x20 [])
    else .next (run t)

/-- Marks a command as started. -/
def State.begun (s : State) (seq : Nat) : State := s.updChan 0 (·.updCmd seq fun x => { x with started := true })

/-- POWER_STATE_ENTRY (R434, R435): a command of the state's own code completes; an entry in progress is waited for. On the way to
Off the endpaper is written from input power (R447). -/
def execPowerStateEntry (seq : Nat) (s : State) : Result :=
  s.powerCommand seq false fun n =>
    let t := powerOf n
    if s.power.entering.isSome ∨ !s.power.leaving.isEmpty then s
    else if t = s.power.st then s.finish 0 seq 0 []
    else
      let rs := s.refusers t
      if !rs.isEmpty then
        let s := rs.foldl (fun s (r : Nat × Nat × Nat × Option Nat) => s.refuseEntry n r.1 false r.2.1 r.2.2.1 r.2.2.2) s
        s.finish 0 seq 0x60 (s.refusalData n false (rs.map fun r => (r.1, r.2.2.1)))
      else
        let s := State.begun { s with power := { s.power with entering := some (t, seq) } } seq
        if t = .off then { s with flash := { s.flash with writing := some (s.capture 1, .off) } } else s

/-- POWER_STATE_EXIT (R438): an entry in progress is aborted with reason 0x06. -/
def execPowerStateExit (seq : Nat) (s : State) : Result :=
  s.powerCommand seq true fun _ =>
    if s.power.entering.isSome then
      let s := s.abortEntry 0x06 uHost
      State.begun { s with power := { s.power with leaving := s.power.leaving ++ [seq] },
                           flash := { s.flash with writing := none } } seq
    else if s.power.st = .run then s.finish 0 seq 0 []
    else State.begun { s with power := { s.power with leaving := s.power.leaving ++ [seq] } } seq

/-- Whether what an entry includes has ended (R434, R249): retrains for Sleep and Deep sleep, the endpaper for Off. -/
def State.entryDone (s : State) (t : PowerState) : Bool := match t with
  | .sleep | .deepSleep => allDies.all fun d => (s.die d).retrain.isNone
  | .off => s.flash.writing.isNone
  | .run | .idle => true

/-- What a compute die loses in Deep sleep (R433): all but DRAM, what the dictionary shows, and the reply cache, which lies in
DRAM. -/
def Die.deepSleep (x : Die) : Die :=
  { x with sram := [], badSram := [], so := [], rel := [], inbound := [], unit := .replicate 18 UnitSt.reset,
           latent := x.latent.filter (!·.1),
           mx := x.mx.map fun (m : Mx) => { m with banks := .replicate 2 [], test := none, checks := .replicate 3 none, runs := [] },
           trace := { x.trace with buf := [] } }

/-- The fabric goes down with Sleep and Deep sleep: the module leaves it (R294, R433). -/
def State.portsDown (s : State) : State :=
  allPorts.foldl (fun s p => if (s.port p).trained ∨ (s.port p).state = .training then s.setPort p .down 0x0701 else s) s

/-- The stacks go into self-refresh; no channel queue holds anything between two commands (R249, log 142). -/
def State.selfRefresh (s : State) : State := { s with dies := s.dies.map fun (x : Die) => { x with selfRefresh := true } }

/-- A power state is entered: count, a clock pair where its core clock is another (R40, R433), event 0x0701. -/
def State.entered (s : State) (t : PowerState) : State :=
  let i : Fin 5 := ⟨t.code % 5, by omega⟩
  let before := s.coreClock
  let s : State := { s with power := { s.power with st := t, entering := none, leaving := [],
                                                    entries := s.power.entries.set i (s.power.entries[i] + 1) } }
  (s.pairsFrom before).govEvent 0x0701 0

/-- Planned ports train again, and every channel has been retrained, at the exit from Sleep or Deep sleep (R249, R438). -/
def State.wakeUp (s : State) : State :=
  if s.power.st = .idle then s
  else
    let s := allPorts.foldl (fun s p =>
      if (s.port p).state == .down && (s.port p).lit then s.startTraining p (s.port p).exit else s) s
    { s with dies := s.dies.map fun (x : Die) =>
        { x with selfRefresh := false, trainAt := (List.range 68).foldl (fun m c => SMap.set 0 m c s.mono) [] } }

/-- POWER_STATE_REACHED (R434, R438): for Off the completion is sent before the rails go. -/
def execPowerStateReached (s : State) : Result :=
  match s.power.entering with
  | some (t, seq) =>
    if !s.entryDone t then .next s
    else match t with
      | .run => .next s
      | .idle => .next ((s.entered .idle).finish 0 seq 0 [])
      | .sleep => .next ((s.portsDown.selfRefresh.entered .sleep).finish 0 seq 0 [])
      | .deepSleep =>
        let s := s.portsDown.selfRefresh
        let s := { s with dies := s.dies.map Die.deepSleep }
        .next ((s.entered .deepSleep).finish 0 seq 0 [])
      | .off => .next ((((s.entered .off).finish 0 seq 0 []).tell 0 seq).dark .off)
  | none =>
    if s.power.leaving.isEmpty then .next s
    else
      let seqs := s.power.leaving
      let s := if s.power.st = .run then { s with power := { s.power with leaving := [] } } else (s.wakeUp).entered .run
      .next (seqs.foldl (fun s seq => s.finish 0 seq 0 []) s)

/-! ## Sag, critical shutdown, trip (R431, R432, R442 to R449) -/

/-- Sheds the load and writes an endpaper with this cause from step 7 onward; what follows decides the dark state (R411, R444). An
endpaper that is being written goes on (R449). -/
def State.shed (s : State) (cause : Nat) (after : After) : State :=
  let supply : Supply := match after with
    | .off => .off
    | .shed | .boot _ => .waiting
  let w := match s.flash.writing with
    | some w => some w
    | none => if 7 ≤ s.boot.stage then some (s.capture cause, after) else none
  let dark := s.dark supply
  { dark with flash := { dark.flash with writing := w.map fun (p, _) => (p, after) } }

/-- SAG (R443, R444, R449): acted on in every state but Off. A sag while Off is being entered ends in Off; other entries are
aborted with reason 0x07. -/
def execSag (millivolts : Nat) (s : State) : Result :=
  if s.power.st = .off ∨ 46000 ≤ millivolts then .next s
  else match s.power.entering with
    | some (.off, _) => .next (s.shed 1 .off)
    | _ => .next (((s.abortEntry 0x07 (uCtl s.holder)).govEvent 0x0705 0).shed 0 .shed)

/-- A critical cause beside a sag enters the fault log of the sag's endpaper (R449). -/
def State.lateCritical (s : State) (cause unit : Nat) : State :=
  { s with flash := { s.flash with writing := match s.flash.writing with
      | some (p, .shed) =>
        let e : Event :=
          { code := 0x0708, sev := 3, ctx := none, stream := none, old := false, unit := unit, ft := p.ft, quire := none,
            rep := 0, seq := 0, detail := cause, born := s.mono }
        some ({ p with log := p.log ++ [e] }, .shed)
      | w => w } }

/-- The critical shutdown path (R442): cause 1 compute die, 2 stack, 3 input. The wake logic latches it. -/
def State.critical (s : State) (cause unit : Nat) : State :=
  if s.power.st = .off then s.lateCritical cause unit
  else
    let s := s.abortEntry 0x07 (uCtl s.holder)
    let s := { s with power := { s.power with cause := cause }, flash := { s.flash with writing := none } }
    (s.raise { code := 0x0708, unit := unit, detail := cause }).shed 3 .off

/-- INPUT_OVERVOLTAGE (R431, R442): above 60.0 V for 10 µs. -/
def execInputOvervoltage (millivolts : Nat) (s : State) : Result :=
  if millivolts ≤ 60000 then .next s else .next (s.critical 3 (uCtl s.holder))

/-- OVERCURRENT_TRIP (R432): no endpaper; the trip is latched. -/
def execOvercurrentTrip (s : State) : Result :=
  match s.power.supply with
  | .absent => .next s
  | _ =>
    let s := s.dark .tripped
    .next { s with flash := { s.flash with writing := none }, power := { s.power with tripped := true } }

/-- INPUT_POWER_REMOVED (R401, R432, R444): a running module sags first. The wake logic forgets the node-ID, and after 1 s a
latched trip. -/
def execInputPowerRemoved (millis : Nat) (s : State) : Result :=
  let s := if s.power.st = .off then s else (s.govEvent 0x0705 0).shed 0 .shed
  let supply : Supply := if s.power.supply = .tripped ∧ millis < 1000 then .tripped else .absent
  .next { s with power := { s.power with supply := supply }, can := { s.can with nodeId := 0 }, tap := TapSt.reset }

/-- ENDPAPER_WRITE_COMPLETE (R447, R448): the seal is written last; the slot of the older endpaper was erased. What follows: the
control dies stay dark, Off, or the boot of a RESTART. -/
def execEndpaperWriteComplete (s : State) : Result :=
  match s.flash.writing with
  | none => .next s
  | some (p, after) =>
    let kept := s.flash.papers.drop (s.flash.papers.length - 1)
    let s := { s with flash := { s.flash with papers := kept ++ [p], writing := none } }
    match after with
    | .shed | .off => .next s
    | .boot extended => .next (s.fullBoot extended)

end Sys2Proof.Machine
end

