-- ==== Sys2Proof/Machine/Firmware.lean ====
section
/-! DEFINITION. Firmware and attestation commands (R416, R417, R422 to R428). -/

namespace Sys2Proof.Machine

/-- A firmware command of channel 0 in hand: 0x20 while CD02 is isolated (R389), served from step 5 on and in recovery (R412,
R427); it waits while nothing governs. -/
def State.fwCommand (s : State) (seq op : Nat) (run : HostCmd → State) : Result :=
  match s.ready 0 seq op with
  | none => .next s
  | some x =>
    if s.boot.recovery then .next (run x)
    else if !s.hostPath then .next (s.finish 0 seq 0x20 [])
    else if s.boot.stage < 5 ∨ !s.governs then .next s
    else .next (run x)

/-! ## FW WRITE (R423, R424) -/

def updateSize : Nat := 64 * mib

/-- Whether two extents share a byte. -/
def overlaps (a n b m : Nat) : Bool := decide (a < b + m) && decide (b < a + n) && n != 0 && m != 0

/-- FW_WRITE: a write at offset 0 erases the area first; bytes written since the last erase cannot be written again. -/
def execFwWrite (seq : Nat) (s : State) : Result :=
  s.fwCommand seq 0x30 fun x =>
    let off := bits (x.qw 2) 25 0
    let len := bits (x.qw 3) 12 0
    if s.flash.copy.isSome ∨ 8160 < len ∨ len % 4 ≠ 0 ∨ off % 4 ≠ 0 ∨ x.payload.length < 64 + len then s.finish 0 seq 0x02 []
    else if updateSize < off + len then s.finish 0 seq 0x10 []
    else
      let f := if off = 0 ∧ len ≠ 0 then { s.flash with staged := [], written := [] } else s.flash
      if f.written.any fun e => overlaps e.1 e.2 off len then s.finish 0 seq 0x02 []
      else
        let f := { f with staged := splice f.staged off ((x.payload.drop 64).take len),
                          written := if len = 0 then f.written else f.written ++ [(off, len)] }
        State.finish { s with flash := f } 0 seq 0 []

/-! ## Images (R416, R417) -/

/-- Fields of a staged header. -/
def stagedField (m : SMap Byte) (off n : Nat) : Nat := leNat (slice m off n)

def asciiFw : List Byte := [0x47, 0x52, 0x45, 0x44, 0x41, 0x4C, 0x2D, 0x46, 0x57]
def asciiCfg : List Byte := [0x47, 0x52, 0x45, 0x44, 0x41, 0x4C, 0x2D, 0x43, 0x46, 0x47]

/-- The first failing check of R417 for the staged image, 1 to 8, or 0. -/
def State.imageCheck (s : State) : Nat :=
  let m := s.flash.staged
  let len := stagedField m 0x008 4
  let key := slice m 0x040 64
  if slice m 0 4 ≠ [0x50#8, 0x4C#8, 0x49#8, 0x48#8] ∨ stagedField m 4 2 ≠ 1 then 1
  else if stagedField m 0x010 4 ≠ 0x00500001 then 2
  else if sm3 key ≠ s.rom.keyDigest then 3
  else if !sm2Verify asciiFw key (slice m 0 0x80) (slice m 0x080 32) (slice m 0x0A0 32) then 4
  else if len % 4096 ≠ 0 ∨ 67104768 < len then 5
  else if sm3 (slice m 4096 len) ≠ slice m 0x020 32 then 6
  else if stagedField m 0x00E 2 < s.flash.floor then 7
  else if !bit (stagedField m 0x014 4) 1 then 8
  else 0

/-- The staged image. -/
def State.stagedImage (s : State) : Image :=
  let m := s.flash.staged
  { release := stagedField m 0x00C 2, security := stagedField m 0x00E 2, generations := stagedField m 0x014 4,
    digest := some (sm3 (slice m 0 (4096 + stagedField m 0x008 4))), valid := true }

/-- FW_COMMIT (R424): a verified image is copied; a failing check is named by event 0x0902. -/
def execFwCommit (seq : Nat) (s : State) : Result :=
  s.fwCommand seq 0x31 fun x =>
    let a := bits (x.qw 2) 63 60
    if (a ≠ 1 ∧ a ≠ 2) ∨ (s.boot.recovery ∧ a = 2) then s.finish 0 seq 0x01 []
    else if s.flash.copy.isSome then s.finish 0 seq 0x02 []
    else
      let k := s.imageCheck
      if k ≠ 0 then (s.govEvent 0x0902 k).finish 0 seq 0x02 []
      else State.begun { s with flash := { s.flash with copy := some (a, seq, s.stagedImage) } } seq

/-- FW_COMMIT_COPY_COMPLETE (R424, R427): activation 1 completes, activation 2 asks for a warm restart; in recovery a full boot
follows at once. -/
def execFwCommitCopyComplete (s : State) : Result :=
  match s.flash.copy with
  | none => .next s
  | some (a, seq, i) =>
    let s := { s with flash := { s.flash with image := i, copy := none } }
    if s.boot.recovery then .next (((s.finish 0 seq 0 []).tell 0 seq).fullBoot false)
    else if a = 1 then .next (s.finish 0 seq 0 [])
    else .next { s with gov := { s.gov with warmWait := s.gov.warmWait ++ [(2, seq)] } }

/-! ## CONFIG WRITE (R418, R425) -/

/-- The first failing check of R418 for a staged vendor part, 1 to 3, or 0: vendor key, signature, identity key. -/
def State.partCheck (s : State) (p : VendorPart) : Nat :=
  if sm3 p.vendorKey ≠ s.rom.keyDigest then 1
  else if !sm2Verify asciiCfg p.vendorKey p.raw p.sigR p.sigS then 2
  else if p.identityKey ≠ s.vendor.identityKey then 3
  else 0

/-- CONFIG_WRITE: `part` is what the staged bytes spell; it is replaced at the next full boot. -/
def execConfigWrite (seq : Nat) (part : Option VendorPart) (s : State) : Result :=
  s.fwCommand seq 0x34 fun x =>
    let len := bits (x.qw 2) 31 0
    if s.flash.copy.isSome then s.finish 0 seq 0x02 []
    else match part with
      | none => (s.govEvent 0x0902 1).finish 0 seq 0x02 []
      | some p =>
        let k := if slice s.flash.staged 0 (min len p.raw.length) ≠ p.raw then 1 else s.partCheck p
        if k ≠ 0 then (s.govEvent 0x0902 k).finish 0 seq 0x02 []
        else if p.serial ≠ s.vendor.serial
            ∨ !(s.vendor.disabled.all fun d => p.disabled.any fun e => e.1 == d.1) then s.finish 0 seq 0x02 []
        else State.finish { s with flash := { s.flash with vendorNext := some p } } 0 seq 0 []

/-! ## ATTEST (R422) and the security block (R182) -/

/-- 0x7000:04: SM3 over the vendor part followed by the field part in force (R419). -/
def State.configDigest (s : State) : List Byte :=
  let f := s.flash.field.getD FieldPart.empty
  sm3 (s.vendor.raw ++ Config.fieldBytes f.channels f.lanes f.assigned f.map)

def Image.digestBytes (i : Image) : List Byte := i.digest.getD (beBytes 32 Config.imageDigest.toNat)

/-- 0x4100:02. -/
def lockCode : Lock → Nat
  | .unlocked => 0
  | .locked => 1
  | .holdover => 2
  | .degraded => 3

/-- The first 224 bytes of the report. -/
def State.report (s : State) (nonce : List Byte) : List Byte :=
  let i := s.boot.image
  let flags := (if s.sec.puf[(1 : Fin 2)] && (s.holder == 1 || !s.sec.puf[(0 : Fin 2)]) then 8 else 0) + (if s.boot.discarded then 4 else 0)
    + (if s.boot.extended then 2 else 0) + (if s.endValid then 1 else 0)
  leBytes 2 1 ++ leBytes 2 288 ++ leBytes 4 0 ++ s.vendor.serial ++ nonce ++ leBytes 8 s.now ++ leBytes 4 s.flash.bootCount ++
  leBytes 2 i.release ++ leBytes 2 i.security ++ leBytes 4 0x00500001 ++ leBytes 2 (productCode s.vendor) ++
  leBytes 1 (lockCode s.time.lock) ++ leBytes 1 flags ++ leBytes 4 s.leaseEpoch ++ leBytes 1 s.holder.val ++
  (List.replicate 11 0 : List Byte) ++ beBytes 32 (Config.romDigest s.holder.val).toNat ++ i.digestBytes ++ s.configDigest ++
  sm3 (match s.flash.store with
    | some st => Config.storeBytes st.vals
    | none => [])

/-- ATTEST: 0x03 while the identity key is unavailable; else it waits for the security block. -/
def execAttest (seq : Nat) (s : State) : Result :=
  s.fwCommand seq 0x32 fun _ =>
    if !s.identityKey then s.finish 0 seq 0x03 []
    else State.begun { s with sec := { s.sec with jobs := s.sec.jobs ++ [.attest seq] } } seq

/-- SIGNATURE_COMPLETE (R182, R422): the security block signs the oldest record that waits. -/
def execSignatureComplete (s : State) : Result :=
  match s.sec.jobs with
  | [] => .next s
  | .seal q p :: rest => .next (State.signSeal { s with sec := { s.sec with jobs := rest } } q p)
  | .attest seq :: rest =>
    let s := { s with sec := { s.sec with jobs := rest } }
    match (s.chan 0).cmd seq with
    | none => .next s
    | some x =>
      let report := s.report ((List.range 4).flatMap fun i => leBytes 8 (x.qw (2 + i)))
      let (sig, s) := s.signature report 4
      .next (s.finish 0 seq 0 (report ++ sig))

/-! ## RESTART (R426) -/

/-- RESTART: kinds 1 and 2 complete, the endpaper is written, and the boot begins; kind 3 asks for a warm restart. While every
quire stands frozen at the restart limit, kinds 1 and 2 are still taken (R478). -/
def execRestart (seq : Nat) (s : State) : Result :=
  match s.ready 0 seq 0x33 with
  | none => .next s
  | some x =>
    let k := bits (x.qw 2) 63 60
    let stuck := s.ctlLost 0 && s.ctlLost 1
    if s.boot.recovery ∨ k = 0 ∨ 3 < k then .next (s.finish 0 seq 0x01 [])
    else if !s.hostPath then .next (s.finish 0 seq 0x20 [])
    else if s.boot.stage < 5 ∨ (!s.governs ∧ !(stuck ∧ k ≠ 3)) then .next s
    else if k = 3 then .next (State.begun { s with gov := { s.gov with warmWait := s.gov.warmWait ++ [(1, seq)] } } seq)
    else if !s.allStopped ∧ !bit (x.qw 2) 59 then .next (s.finish 0 seq 0x06 [])
    else
      let s := (s.finish 0 seq 0 []).tell 0 seq
      if 7 ≤ s.boot.stage then
        .next { s with flash := { s.flash with writing := some (s.capture 2, .boot (k == 2)) } }
      else .next (s.fullBoot (k == 2))

end Sys2Proof.Machine
end

