-- ==== Sys2Proof/Machine/Freeze.lean ====
section
/-! DEFINITION. Freeze, the consistent cut and thaw (R61 to R66), and the freeze of a rollback (R470). -/

namespace Sys2Proof.Machine

/-- Least lead of a freeze, a thaw and a one-off gutter, in ns (R49, 0x4130:01). -/
def leadNs : Nat := 50000

/-- FREEZE (R61, R65): late, or while frozen and before the thaw accepted for the freeze in force, it ends with 0x05. -/
def execFreeze (seq : Nat) (s : State) : Result :=
  s.timeCommand seq 1 fun x =>
    let t := x.qw 3
    let early : Bool := match s.frz.cut, s.frz.thaws with
      | some _, w :: _ => decide (t < w)
      | _, _ => false
    if t < s.now + leadNs ∨ early ∨ s.time.lock = .unlocked then s.finish 0 seq 0x05 []
    else State.finish { s with frz := { s.frz with pending := insertFt t s.frz.pending } } 0 seq 0 []

/-- THAW (R65): the same lead; accepted whether or not a freeze is in force, in every time state. -/
def execThaw (seq : Nat) (s : State) : Result :=
  s.timeCommand seq 2 fun x =>
    let t := x.qw 3
    if t < s.now + leadNs then s.finish 0 seq 0x05 []
    else State.finish { s with frz := { s.frz with thaws := insertFt t s.frz.thaws } } 0 seq 0 []

/-- Engines that stand at a boundary with nothing in hand record their stop FT (R62). -/
def State.stopIdle (s : State) (d : DieId) : State :=
  allUnits.foldl (fun s u =>
    if s.inFlight d u = 0 ∧ !(s.getUnit d u).stopping then (s.updUnit d u fun x => { x with stopFt := some (s.die d).ft }).emit d 0x06 1 u.val 0 0 else s) s

/-- Steps 2 and 3 of a rollback for every quire whose ROLLBACK named this instant (R470). -/
def State.beginRollbacks (s : State) (t : Nat) : State :=
  allQuires.foldl (fun s k => match (s.quire k).rollback with
    | some (_, ft) =>
      if ft = t ∧ (s.quire k).restoring then
        let s := s.rollbackQuire k t
        { s with frz := { s.frz with cut := s.frz.cut.map fun c => { c with rollback := true } } }
      else s
    | none => s) s

/-- FREEZE_INSTANT (R62, R65, R66): a freeze whose instant comes while an earlier one holds is void; dies away from service are
absent from the cut. -/
def execFreezeInstant (s : State) : Result :=
  match s.frz.pending with
  | [] => .next s
  | t :: rest =>
    if s.now < t then .next s
    else
      let s := { s with frz := { s.frz with pending := rest } }
      if s.frz.cut.isSome then .next (s.beginRollbacks t)
      else
        let absent := allDies.filter fun d => (s.die d).presence != .inService
        let cut : Cut := { ft := t, since := s.mono, absent := absent, reported := false, named := false, unusable := false,
                           paused := s.pause.isSome, rollback := false }
        let s := { s with frz := { s.frz with cut := some cut } }
        let s := s.beginRollbacks t
        let s := if s.pause.isSome then s
          else (allDies.filter (· ∉ absent)).foldl State.stopIdle s
        .next s

/-- ENGINE_STOP_AT_BOUNDARY (R62, R66): later than 2 µs, or after a switchover pause, it raises 0x060A. -/
def execEngineStopAtBoundary (d : DieId) (u : UnitId) (s : State) : Result :=
  match s.frz.cut with
  | none => .next s
  | some c =>
    let un := s.getUnit d u
    let ft := (s.die d).ft
    if un.stopFt.isSome ∨ un.stopping ∨ d ∈ c.absent ∨ ft < c.ft ∨ s.pause.isSome then .next s
    else
      .next (s.stopUnit d u)

/-- MODULE_FROZEN (R64, R66): every engine has recorded its stop FT and no port holds a packet of the cut; the report carries the
held packets and the latest stop FT. -/
def execModuleFrozen (s : State) : Result :=
  match s.frz.cut with
  | none => .next s
  | some c =>
    let dies := allDies.filter (· ∉ c.absent)
    let stops := dies.flatMap fun d => allUnits.map fun u => (s.getUnit d u).stopFt
    let transit := allPorts.any fun p => ((s.port p).egress ++ (s.port p).backlog).any fun k => decide (Body.stamp k.body < c.ft)
    if c.reported ∨ stops.any (·.isNone) ∨ transit then .next s
    else
      let held := sumNat (dies.map fun d => (s.die d).cutHold.length)
      let stop := (stops.filterMap id).foldl Nat.max 0
      .next (State.send { s with frz := { s.frz with cut := some { c with reported := true } } } (.frozen held stop c.absent))

/-- FREEZE_SETTLE_TIMEOUT (R64): named to the manager as not quiescent. -/
def execFreezeSettleTimeout (s : State) : Result :=
  match s.frz.cut with
  | none => .next s
  | some c =>
    if c.reported ∨ c.named ∨ s.mono < c.since + s.setting 0x4130 3 * 1000 then .next s
    else .next (State.send { s with frz := { s.frz with cut := some { c with named := true } } } (.notQuiescent c.ft))

/-- Applies a held packet at its die and sends its reply (R65, R282): a request passes the handling order, a multicast delivery joins its
combination, a reply reaches its source. -/
def State.applyHeld (s : State) (d : DieId) (b : Body × Option Nat) : State :=
  let s := match b with
    | (.request r, some id) => s.deliver d r id
    | (.request r, none) => s.handleRequest d r
    | (.reply r, _) => if h : r.die < 21 then s.replyIn ⟨r.die, h⟩ r else s
  State.drainLanes (s.die d).laneWork s d

/-- One die's part of a thaw: what waits in its lanes since before the freeze, then its held packets in order of arrival (R65, log 138). -/
def State.thawDie (s : State) (d : DieId) : State :=
  let held := (s.die d).cutHold
  let s := s.updDie d fun x => { x with cutHold := [] }
  held.foldl (fun s b => s.applyHeld d b) (State.drainLanes (s.die d).laneWork s d)

/-- Engines resume. -/
def State.resumeEngines (s : State) : State :=
  allDies.foldl (fun s d => s.updDie d fun x => { x with unit := x.unit.map fun (u : UnitSt) => { u with stopFt := none } }) s

/-- Ends the cut: every die applies its held packets, then its engines resume and its sources inject again (R65). -/
def State.thaw (s : State) (c : Cut) : State :=
  let s := { s.skipFrozen c with frz := { s.frz with cut := none } }
  let s := if c.rollback then allDies.foldl (fun s d => s.updDie d fun x => { x with cutHold := [] }) s
    else (allDies.filter fun d => (s.die d).presence == .inService).foldl State.thawDie s
  s.resumeEngines

/-- Whether the freeze in force is firmware's own: a warm restart, a post-mortem image being written, both control dies stopped
(R477, R478, R501). -/
def State.heldFrozen (s : State) (c : Cut) : Bool :=
  s.gov.warm.any (fun w => w.freezeFt == c.ft) || s.pm.any (·.writing) || s.gov.ctl.toList.all (·.stopped)

/-- THAW_INSTANT (R65): only a module that is frozen thaws; a rollback's cut ends with its restore (log 15), firmware's own freeze by
firmware. -/
def execThawInstant (s : State) : Result :=
  match s.frz.thaws with
  | [] => .next s
  | t :: rest =>
    if s.now < t then .next s
    else
      let s := { s with frz := { s.frz with thaws := rest } }
      match s.frz.cut with
      | some c => if c.reported ∧ !s.heldFrozen c ∧ !(c.rollback ∧ allQuires.any fun k => (s.quire k).restoring) then .next (s.thaw c) else .next s
      | none => .next s

end Sys2Proof.Machine
end

