-- ==== Sys2Proof/Machine/Lease.lean ====
section
/-! DEFINITION. The governing lease: renewals, expiry, claims and their confirmation (R414, R415, R474 to R476). -/

namespace Sys2Proof.Machine

def State.updCtl (s : State) (c : CtlId) (f : CtlSt → CtlSt) : State :=
  { s with gov := { s.gov with ctl := s.gov.ctl.set c (f s.gov.ctl[c]) } }

/-- LEASE_RENEWAL (R414, R474): the holder's, from the claim onward, over its spine path (R27). -/
def execLeaseRenewal (s : State) : Result :=
  if !s.boot.claimed ∨ !s.governs ∨ s.power.st = .off ∨ !s.ctlPath s.holder then .next s
  else .next ((s.updCtl s.holder fun x => { x with heardAt := s.mono }).send (.renewal s.leaseEpoch s.holder))

/-- A compute die takes a renewal of the highest epoch it has seen from that epoch's holder (R474). -/
def Die.renew (x : Die) (mono epoch : Nat) (holder : CtlId) : Die :=
  if x.intakeFrozen ∨ epoch < x.leaseEpoch ∨ (epoch = x.leaseEpoch ∧ holder ≠ x.leaseHolder) then x
  else { x with leaseEpoch := epoch, leaseHolder := holder, renewedAt := mono, leaseLimit := 2000000, leaseExpired := false }

/-- LEASE_RENEWAL_RECEIVE (R474, R475): a holder that sees a higher epoch yields. -/
def execLeaseRenewalReceive (p : LeaseParty) (epoch : Nat) (holder : CtlId) (s : State) : Result :=
  match p with
  | .die d => .next (s.updDie d (·.renew s.mono epoch holder))
  | .ctl c =>
    if epoch < s.gov.ctl[c].epoch then .next s
    else
      let s := s.updCtl c fun x => { x with epoch := epoch, heardAt := s.mono }
      let s := { s with gov := { s.gov with claim := if s.gov.claim.any (·.who == c) then none else s.gov.claim } }
      .next (if c = s.holder ∧ s.leaseEpoch < epoch then { s with holder := holder, leaseEpoch := epoch } else s)

/-- LEASE_EXPIRY (R474): the limit, 2 ms or what a restart notice set, passed without a renewal. -/
def execLeaseExpiry (d : DieId) (s : State) : Result :=
  let x := s.die d
  if !s.boot.claimed ∨ x.intakeFrozen ∨ s.mono < x.renewedAt + x.leaseLimit then .next s
  else .next (s.updDie d fun x => { x with leaseExpired := true })

/-! ## Claims (R415, R475) -/

/-- Sends LEASE CONFIRM to the manager, with the FT at which the lease expired (R466, R474), and the CAN FD frame at most once every 1 s
(R475). -/
def State.askConfirm (s : State) (c : Claim) : State :=
  let m := s.manager
  let since := s.mono - (s.gov.ctl[c.who].heardAt + 2000000)
  let r : MgmtRecord :=
    { s.mgmtBase 0x18 0 with tag := 0, ft := s.ctlFt[c.who] - since, leaseEpoch := c.epoch + 1 }
  let s := if m = 0xFFFF then s else s.sendMgmt c.who (.mgmt m (sealed r))
  if s.can.nodeId ≠ 0 ∧ s.canOn ∧ (c.canAt = 0 ∨ c.canAt + 1000000000 ≤ s.mono + 1) then
    State.send { s with gov := { s.gov with claim := some { c with canAt := s.mono + 1 } } }
      (.can (0x0C0 + s.can.nodeId) (leBytes 4 (c.epoch + 1) ++ leBytes 1 c.who.val ++ List.replicate 3 0))
  else { s with gov := { s.gov with claim := some c } }

/-- Takes the lease at an epoch, writes the lease record and announces the claim (R414, R475). -/
def State.takeLease (s : State) (who : CtlId) (epoch : Nat) : State :=
  let s := s.updCtl who fun x => { x with epoch := epoch, heardAt := s.mono }
  State.send { s with holder := who, leaseEpoch := epoch, flash := { s.flash with lease := (epoch, who.val, s.ctlFt[who]) },
                      gov := { s.gov with claim := none } } (.claim epoch who)

/-- LEASE_CLAIM_REQUEST (R415, R475, R477): 2 ms without a renewal and the 2 ms guard have passed. Before step 8 no confirmation is
asked: the boot restarts at step 2 with the claimant as holder. -/
def execLeaseClaimRequest (who : CtlId) (s : State) : Result :=
  let x := s.gov.ctl[who]
  let quiet : Bool := decide (x.heardAt + 4000000 ≤ s.mono) && (match s.gov.warm with
    | some w => decide (w.startAt + 250000000 ≤ s.mono)
    | none => true)
  if who = s.holder ∨ s.ctlLost who ∨ !quiet ∨ s.gov.claim.isSome ∨ s.boot.recovery ∨ s.power.st = .off then .next s
  else if s.boot.stage = 9 then .next (s.askConfirm { who := who, epoch := x.epoch, askedAt := s.mono, canAt := 0 })
  else if 2 ≤ s.boot.stage then
    let old := s.holder
    let s := s.takeLease who (x.epoch + 1)
    let s := (s.updCtl old fun y => { y with failed := true }).raise { code := 0x080B, unit := uCtl old }
    .next { s with boot := { s.boot with stage := 2, stepAt := s.mono } }
  else .next s

/-- LEASE_CONFIRM_RECEIVE (R475): a manager refuses with 0x06 when it heard management traffic from the module within 4 ms. -/
def execLeaseConfirmReceive (r : MgmtRecord) (s : State) : Result :=
  if !s.mgrTakes r 0x18 then .next s
  else
    let t := SMap.get 0 s.gov.traffic r.node
    let refused : Bool := t != 0 && decide (s.mono < t - 1 + 4000000)
    .next (s.send (.mgmt r.node (sealed { s.mgmtBase 0x19 0 with
      tag := 0, result := if refused then 0x06 else 0, leaseEpoch := r.leaseEpoch })))

/-- LEASE_ANSWER_RECEIVE (R475): on confirmation the claimant claims at the accepted epoch plus 1, with event 0x0810; a warm restart
that did not thaw is over. -/
def execLeaseAnswerReceive (confirmed _viaCan : Bool) (epoch : Nat) (s : State) : Result :=
  match s.gov.claim with
  | none => .next s
  | some c =>
    if !confirmed ∨ epoch ≠ c.epoch + 1 ∨ s.ctlLost c.who then .next s
    else
      let old := s.holder
      let s := s.takeLease c.who epoch
      let s := { s with gov := { s.gov with warm := none, spares := s.gov.spares ++ [(uCtl old, uCtl c.who, s.now)] } }
      .next (s.raise { code := 0x0810, unit := uCtl c.who, detail := epoch })

/-- LEASE_CONFIRM_TIMEOUT (R475): 1 s without confirmation raises 0x0811, and the claimant asks again. -/
def execLeaseConfirmTimeout (s : State) : Result :=
  match s.gov.claim with
  | none => .next s
  | some c =>
    if s.mono < c.askedAt + 1000000000 then .next s
    else
      let s := s.raise { code := 0x0811, unit := uCtl c.who, detail := c.epoch + 1 }
      .next (s.askConfirm { c with askedAt := s.mono })

/-- LEASE_CLAIM_RECEIVE (R474, R476): a lower epoch is rejected; two claimants with one epoch freeze the die's command intake. -/
def execLeaseClaimReceive (d : DieId) (who : CtlId) (epoch : Nat) (s : State) : Result :=
  let x := s.die d
  if x.intakeFrozen ∨ epoch < x.leaseEpoch then .next s
  else if epoch = x.leaseEpoch ∧ who ≠ x.leaseHolder then
    .next ((s.updDie d fun x => { x with intakeFrozen := true }).raise { code := 0x0812, unit := uDie d, detail := epoch })
  else .next (s.updDie d (·.renew s.mono epoch who))

end Sys2Proof.Machine
end

