-- ==== Sys2Proof/Machine/Recovery.lean ====
section
/-! DEFINITION. Compute die reset and rejoining, clock-generator switchover, firmware warm restart, reserve folios (R472, R473, R477
to R481). -/

namespace Sys2Proof.Machine

/-! ## Compute die reset (R472) -/

/-- What a reset die loses: contexts, synchronisation objects, release table, dirty bits, colophon state, the trace buffer and the
dump entries; its stack stays. What its SRAM then holds is open (log 53). -/
def Die.lose (x : Die) (sram : List Byte) : Die :=
  { x.clearEngines with
    so := [], rel := [], ctx := .replicate 8 Ctx.reset, unit := .replicate 18 UnitSt.reset, flags := .replicate 32 flagsClear,
    mx := x.mx.map fun (m : Mx) => { m with runs := [], banks := .replicate 2 [], test := none, checks := .replicate 3 none },
    sram := cellsOf 0 sram, badSram := [], latent := x.latent.filter (!·.1), inbound := [], hotAt := none, dirty := [], copied := [], slots := [], splan := none,
    retrain := none, retrainWait := [],
    trace := { x.trace with buf := [], drops := .replicate 4 { count := 0, ft := 0, cycle := 0 }, refused := .replicate 4 false,
                            dumps := .replicate 16 none } }

/-- A reset of a die in service: event 0x080C with the cause, isolation, a new epoch with its boundary 1 µs ahead. A second one
within 10 s has cause 6 and keeps the die isolated until the next full boot; so do failing sensors (R440). -/
def State.resetDie (s : State) (d : DieId) (cause : Nat) : State :=
  if (s.die d).presence ≠ .inService then s
  else
    let again : Bool := match (s.die d).resetAt with
      | some t => decide (s.mono < t + 10000000000)
      | none => false
    let s := s.raise { code := 0x080C, unit := uDie d, detail := if again then 6 else cause }
    let s := s.isolate d .resetting
    let (sram, s) := s.freshBytes sramSize
    let s := s.updDie d fun x =>
      { x.lose sram with epoch := (x.epoch + 1) % 65536, boundary := x.ft + 1000, resetAt := some s.mono,
                         heldDown := again || decide (cause = 4) }
    let s := s.updSource (srcOf d) fun x => { x with ops := [], keys := [] }
    { s with frz := { s.frz with cut := s.frz.cut.map fun (c : Cut) => { c with absent := if d ∈ c.absent then c.absent else c.absent ++ [d] } } }

/-- Sensors of a compute die that are not excluded, of 64 (R440). -/
def State.validSensors (s : State) (d : DieId) : Nat :=
  64 - (s.power.excluded.filter fun k => k / 64 == d.val).length

/-- DIE_RESET: causes 1 lockstep, 2 watchdog, 3 clock loss, 4 fewer than 48 valid sensors, 5 requested (R472). -/
def execDieReset (d : DieId) (cause : Nat) (s : State) : Result :=
  if cause = 0 ∨ 5 < cause ∨ s.power.st = .off ∨ (cause = 4 ∧ 48 ≤ s.validSensors d) ∨ (cause = 5 ∧ !s.governs) then .next s
  else .next (s.resetDie d cause)

/-- DIE_WATCHDOG_EXPIRY (R472). -/
def execDieWatchdogExpiry (d : DieId) (s : State) : Result :=
  if s.power.st = .off then .next s else .next (s.resetDie d 2)

/-- DIE_REJOIN (R472, R495): after self-test and training, with an empty reply cache; the trace starts with a time record and a
drop count of unknown size per enabled class. -/
def execDieRejoin (d : DieId) (s : State) : Result :=
  let x := s.die d
  if x.presence ≠ .resetting ∨ x.heldDown then .next s
  else
    let s := s.updDie d fun x =>
      { x with presence := .inService, recs := [], results := [],
               trainAt := (List.range 68).foldl (fun m c => SMap.set 0 m c s.mono) [] }
    let s := s.timeRecord d
    let s := (List.range 4).foldl (fun s k =>
      if bit (s.die d).trace.classes k then s.emit d 0x03 0 23 0 (0xFFFFFFFF * 2 ^ 8 + k * 2 ^ 6) else s) s
    .next (s.raise { code := 0x080D, unit := uDie d, detail := (s.die d).epoch })

/-! ## Clock generators (R473) -/

/-- Every die loses its clock; the module waits for a full boot. -/
def State.clockLost (s : State) : State :=
  allDies.foldl (fun s d => (s.resetDie d 3).updDie d fun x => { x with heldDown := true }) s

/-- CLOCK_GENERATOR_FAILURE: CTL-A's generator in service fails; trained ports send pause symbols (R306). -/
def execClockGeneratorFailure (s : State) : Result :=
  if s.gov.gen ≠ 0 ∨ !s.gov.gens[(0 : Fin 2)] ∨ s.power.st = .off then .next s
  else
    let s := { s with gov := { s.gov with gens := s.gov.gens.set 0 false } }
    if s.gov.gens[(1 : Fin 2)] then
      let s := { s with gov := { s.gov with gen := 1, spares := s.gov.spares ++ [(uClock 0, uClock 1, s.now)] }, pause := some s.mono }
      let s := s.sendAll ((allPorts.filter fun p => (s.port p).trained).map fun p => .link p .pause)
      .next ((s.raise { code := 0x080E, unit := uClock 0 }).raise { code := 0x080F, unit := uClock 0 })
    else .next s.clockLost

/-- STANDBY_GENERATOR_FAILURE: CTL-B's generator fails: alone with event 0x080F, in service with every die's clock. -/
def execStandbyGeneratorFailure (s : State) : Result :=
  if !s.gov.gens[(1 : Fin 2)] ∨ s.power.st = .off then .next s
  else
    let s : State := { s with gov := { s.gov with gens := s.gov.gens.set 1 false } }
    let alone : Bool := s.gov.gen == 0 && s.gov.gens[(0 : Fin 2)]
    if alone then .next (s.raise { code := 0x080F, unit := uClock 1 })
    else .next s.clockLost

/-- SWITCHOVER_PAUSE_END: link-level retry resends what was held; the FT error of at most 5 ns is slewed out (R39), and the core clock
runs again with a clock pair (R40). -/
def execSwitchoverPauseEnd (ftError : Int) (s : State) : Result :=
  if s.pause.isNone ∨ 5 < ftError.natAbs then .next s
  else .next (State.pairsFrom { s with pause := none, time := { s.time with slew := s.time.slew + ftError } } s.coreClock)

/-! ## Firmware warm restart (R477, R478) -/

/-- The restart begins: event 0x0813, the notice that extends every die's lease to 250 ms, a freeze 50 µs ahead. -/
def State.warmRestart (s : State) (cause : Nat) (cmd : Option Nat) : State :=
  let s := s.govEvent 0x0813 cause
  let t := s.now + 50000
  { s with
    dies := s.dies.map fun (x : Die) => if x.intakeFrozen then x else { x with leaseLimit := 250000000, renewedAt := s.mono },
    frz := { s.frz with pending := insertFt t s.frz.pending },
    gov := { s.gov with warm := some { cause := cause, startAt := s.mono, freezeFt := t, cmd := cmd } } }

/-- A control die reaches the limit of R478 and stops; when both have, event 0x0814, and every quire is frozen. -/
def State.stopCtl (s : State) (who : CtlId) : State :=
  let s := s.updCtl who fun x => { x with stopped := true }
  if s.ctlLost 0 && s.ctlLost 1 then
    let s := s.govEvent 0x0814 0
    { s with frz := { s.frz with pending := insertFt s.now s.frz.pending } }
  else s

/-- A restart that a lockstep mismatch or a watchdog of a control die asks for: the third of that die within 10 minutes is not
performed (R478, log 54). -/
def State.faultRestart (s : State) (who : CtlId) (cause : Nat) : State :=
  if s.ctlLost who ∨ s.gov.warm.isSome ∨ s.power.st = .off ∨ s.boot.stage < 2 ∨ s.boot.recovery then s
  else
    let recent := s.gov.ctl[who].restarts.filter fun t => decide (s.mono < t + 600000000000)
    if 2 ≤ recent.length then s.stopCtl who
    else (s.updCtl who fun x => { x with restarts := recent ++ [s.mono] }).warmRestart cause none

/-- FIRMWARE_WARM_RESTART: cause 1 RESTART, 2 FW COMMIT, once no commit copy runs (R428); 3 a lockstep mismatch of the governing control
die's pair, 5 the same of the other control die's, which event 0x0813 names as cause 3 too. -/
def execFirmwareWarmRestart (cause : Nat) (s : State) : Result :=
  if cause = 3 then .next (s.faultRestart s.holder 3)
  else if cause = 5 then .next (s.faultRestart (otherCtl s.holder) 3)
  else if s.flash.copy.isSome ∨ !s.governs then .next s
  else match s.gov.warmWait.find? (·.1 == cause) with
    | none => .next s
    | some (c, seq) =>
      .next (State.warmRestart { s with gov := { s.gov with warmWait := s.gov.warmWait.erase (c, seq) } } c (some seq))

/-- CONTROL_WATCHDOG_EXPIRY (R477, R478). -/
def execControlWatchdogExpiry (who : CtlId) (s : State) : Result := .next (s.faultRestart who 4)

/-- WARM_RESTART_THAW (R424, R477): the image area's firmware runs; what the restart froze thaws; unanswered dictionary transfers are
lost, and exchanges send their records again (R471). -/
def execWarmRestartThaw (s : State) : Result :=
  match s.gov.warm with
  | none => .next s
  | some w =>
    let own (c : Cut) : Bool := c.ft == w.freezeFt && !c.rollback
    let waits : Bool := s.frz.pending.contains w.freezeFt || (match s.frz.cut with
      | some c => own c && !c.reported
      | none => false)
    if waits then .next s
    else
      let s := match s.frz.cut with
        | some c => if own c then s.thaw c else s
        | none => s
      let s := { s with gov := { s.gov with warm := none }, boot := { s.boot with image := s.flash.image },
                        can := { s.can with transfer := none },
                        flash := { s.flash with saveWait := s.flash.saveWait.filter (· != Access.can) } }
      let s := if w.cause = 2 then s.govEvent 0x080A 0 else s
      let s := match w.cmd with
        | some seq => s.finish 0 seq 0 []
        | none => s
      .next s.reachedAgain

/-- CONTROL_DIE_FAILURE (R30, R411): the other control die serves every compute die. -/
def execControlDieFailure (who : CtlId) (s : State) : Result :=
  if s.gov.ctl[who].failed then .next s
  else
    let s := s.updCtl who fun x => { x with failed := true }
    .next (if 1 ≤ s.boot.stage ∧ s.boot.stage < 9 then s.raise { code := 0x080B, unit := uCtl who } else s)

/-! ## Reserve folios (R480, R481) -/

/-- Folios, 2 × die + folio, that hold a removed engine and stand enabled. -/
def State.removedFolios (s : State) : List (DieId × Nat) :=
  allDies.flatMap fun d => [0, 1].filterMap fun f =>
    if !s.folioDisabled d f ∧ ((s.die d).mx[(⟨2 * f % 4, by omega⟩ : Fin 4)].removed
        || (s.die d).mx[(⟨(2 * f + 1) % 4, by omega⟩ : Fin 4)].removed) then some (d, f) else none

/-- The reserve folio for a die: its own first, else the lowest-numbered die's. -/
def State.reserveFor (s : State) (d : DieId) : Option Nat :=
  let rs := (s.disabled.filter (·.2)).map (·.1)
  match rs.find? fun k => k / 2 == d.val with
  | some k => some k
  | none => (List.range 40).find? fun k => k ∈ rs

/-- RESERVE_FOLIO_TIP_IN: while the quire of the reserve folio's die is stopped, the reserve folio enters service and the removed
engine's folio joins the disabled list as defective. -/
def execReserveFolioTipIn (s : State) : Result :=
  match s.removedFolios with
  | [] => .next s
  | (d, f) :: _ =>
    match s.reserveFor d with
    | none => .next s
    | some k =>
      let r : DieId := ⟨k / 2 % 20, by omega⟩
      let ok : Bool := match (s.die r).quire with
        | some q => s.quireStopped q
        | none => true
      if !ok then .next s
      else
        let low : Fin 4 := ⟨2 * f % 4, by omega⟩
        let e : Fin 4 := if (s.die d).mx[low].removed then low else ⟨(2 * f + 1) % 4, by omega⟩
        let s := { s with disabled := (s.disabled.filter fun (e : Nat × Bool) => decide (e.1 ≠ k)) ++ [(2 * d.val + f, false)],
                          gov := { s.gov with spares := s.gov.spares ++ [(uFolio d f, uFolio r (k % 2), s.now)] } }
        .next (s.raise { code := 0x081A, unit := uFolio r (k % 2), detail := uEngine d e })

end Sys2Proof.Machine
end

