-- ==== Sys2Proof/Machine/Dict.lean ====
section
/-! DEFINITION. The dictionary server: accesses of both paths, their checks, the values the module maintains, and what a write does
(R391 to R408). -/

namespace Sys2Proof.Machine

/-! ## Accesses (R396, R402, R406) -/

/-- An access to one sub-index. `len` is the data length it names (R380, R402). -/
structure DictReq where
  write : Bool
  idx : Nat
  sub : Nat
  len : Nat
  data : List Byte
  deriving DecidableEq, Repr

/-- The access that a path has in hand: a command of channel 0 that may start, or a complete CAN FD transfer. -/
def State.accessOf (s : State) (a : Access) : Option DictReq := match a with
  | .host seq =>
    match s.ready 0 seq 0x05 with
    | some x => some { write := false, idx := bits (x.qw 2) 23 8, sub := bits (x.qw 2) 7 0, len := 0, data := [] }
    | none => match s.ready 0 seq 0x06 with
      | some x =>
        let n := bits (x.qw 3) 12 0
        some { write := true, idx := bits (x.qw 2) 23 8, sub := bits (x.qw 2) 7 0, len := n, data := (x.payload.drop 64).take n }
      | none => none
  | .can =>
    match s.can.transfer with
    | some t =>
      if t.ready ∧ Access.can ∉ s.flash.saveWait then
        some { write := t.write, idx := t.index, sub := t.sub, len := t.total, data := t.data }
      else none
    | none => none

/-! ## CAN FD frames of the module (R402 to R404) -/

/-- The shortest CAN FD data length that holds n bytes (R402). -/
def canLength (n : Nat) : Nat := ([8, 12, 16, 20, 24, 32, 48, 64].find? fun k => decide (n ≤ k)).getD 64

def canPad (bs : List Byte) : List Byte := bs ++ List.replicate (canLength bs.length - bs.length) 0

/-- A response frame: none with node-ID 0 (R401) or while a boundary instruction holds the contacts. -/
def State.sendCan (s : State) (bs : List Byte) : State :=
  if s.can.nodeId ≠ 0 ∧ s.canOn then s.send (.can (0x580 + s.can.nodeId) (canPad bs)) else s

/-- Abort code of a status (R404). -/
def abortCode (write : Bool) (status : Nat) : Nat :=
  match status with
  | 0x50 => 0x06020000
  | 0x51 => 0x06090011
  | 0x52 => if write then 0x06010002 else 0x06010001
  | 0x53 => 0x06070010
  | 0x01 | 0x02 => 0x06090030
  | 0x03 => 0x08000024
  | 0x05 | 0x06 => 0x08000022
  | 0x12 => 0x06060000
  | _ => 0x08000000

def canHead (cmd idx sub : Nat) : List Byte := leBytes 1 cmd ++ leBytes 2 idx ++ leBytes 1 sub

/-- Segment n, from 1, of a transfer's data: 62 bytes after the 56 of the initiate frame (R402, R403). -/
def segmentFrame (data : List Byte) (n : Nat) : List Byte :=
  leBytes 1 0x60 ++ leBytes 1 n ++ (data.drop (56 + 62 * (n - 1))).take 62

/-- Answers the CAN FD transfer in hand: an abort, a write done, or read data with its first segment when it continues; the client
accepts each segment before the next goes out (R402, R403). -/
def State.canRespond (s : State) (r : DictReq) (status : Nat) (data : List Byte) : State :=
  let s := { s with can := { s.can with lastStatus := status, transfer := none } }
  if status ≠ 0 then
    s.sendCan (canHead 0x80 r.idx r.sub ++ leBytes 4 (abortCode r.write status) ++ leBytes 1 status)
  else if r.write then s.sendCan (canHead 0x21 r.idx r.sub ++ leBytes 4 0)
  else
    let s := s.sendCan (canHead 0x41 r.idx r.sub ++ leBytes 2 data.length ++ leBytes 2 0 ++ data.take 56)
    if data.length ≤ 56 then s
    else
      let t : CanTransfer :=
        { write := false, index := r.idx, sub := r.sub, total := data.length, data := data, nextSeg := 1, ready := false,
          lastAt := s.mono }
      State.sendCan { s with can := { s.can with transfer := some t } } (segmentFrame data 1)

/-- Answers an access on its path. -/
def State.respond (s : State) (a : Access) (r : DictReq) (status : Nat) (data : List Byte) : State := match a with
  | .host seq => s.finish 0 seq status data
  | .can => s.canRespond r status data

/-! ## Where a request goes (R389, R396, R406, R412, R427) -/

/-- Reads that the ROM loader serves. -/
def recoveryRead (r : DictReq) : Bool := !r.write && (r.idx == 0x1018 || r.idx == 0x7000) && decide (1 ≤ r.sub) && decide (r.sub ≤ 4)

/-- What an access does: the state, its status and its data. -/
abbrev Served := State × Nat × List Byte

/-- Serves the access in hand if it is one of this row: never to the host while CD02 is isolated; not before step 5 to the host, nor
before firmware runs; not while no control die governs. A DICT WRITE names at most 4,096 bytes (R380). -/
def State.serve (s : State) (a : Access) (mine : DictReq → Bool) (run : State → DictReq → Served) : Result :=
  match s.accessOf a with
  | none => .next s
  | some r =>
    if !mine r then .next s
    else if s.boot.recovery then
      if recoveryRead r then
        let (s, st, data) := run s r
        .next (s.respond a r st data)
      else .next (s.respond a r 0x01 [])
    else if a ≠ .can ∧ !s.hostPath then .next (s.respond a r 0x20 [])
    else if s.boot.stage < (if a = .can then 2 else 5) ∨ !s.governs then .next s
    else if a ≠ .can ∧ 4096 < r.len then .next (s.respond a r 0x02 [])
    else
      let (s, st, data) := run s r
      .next (s.respond a r st data)

/-! ## Values that the module maintains (R408) -/

def zeroPad (n : Nat) (bs : List Byte) : List Byte := (bs ++ List.replicate n 0).take n

def portOf (n : Nat) : PortId := ⟨n % 48, by omega⟩
def dieOf (n : Nat) : DieId := ⟨n % 20, by omega⟩

/-- Identity, CAN FD, shape: 0x1018 to 0x2011. -/
def State.identityValue (s : State) (idx sub : Nat) : Nat :=
  if idx = 0x1018 then
    if sub = 2 then productCode s.vendor
    else if sub = 3 then s.vendor.revision % 65536 * 65536 + s.boot.image.release
    else leNat (zeroPad 16 s.vendor.serial)
  else if idx = 0x1100 then (if sub = 1 then s.can.nodeId else s.can.lastStatus)
  else if idx = 0x1400 then s.hostAddr
  else if idx = 0x2010 then
    if sub = 5 then s.vendor.grade - 2000
    else sumNat (allDies.map fun d => ((List.finRange 4).filter fun e =>
      !s.folioDisabled d (e.val / 2) && !(s.die d).mx[e].removed).length)
  else s.disabled.length

/-- 0x2061: a matrix engine's state (R126). -/
def State.engineWord (s : State) (d : DieId) (e : Fin 4) : Nat :=
  let m := (s.die d).mx[e]
  (if m.removed then 2 else if s.folioDisabled d (e.val / 2) then 1 else 0) * 2 ^ 14 + m.unchecked * 2 ^ 12
    + (if m.column then 2 ^ 11 else 0) + (if m.spare then 2 ^ 8 else 0) + m.index % 256

/-- 0x2041 (R511): per group of sections and wires the replaced wire, per section its clock and its removal. -/
def State.spareMap (s : State) (b : Fin 88) : List Byte :=
  let x := s.bridge b
  ((List.range 512).map fun g => BitVec.ofNat 8 (match SMap.get 0 x.spares g with
    | 0 => 0
    | k + 1 => 128 + k % 16))
  ++ ((List.range 32).map fun k => if k ∈ x.clocks then 128#8 else 0)
  ++ ((List.range 32).map fun k => if k ∈ x.removed then 1#8 else 0)

/-- Quires, dies and memory: 0x2021 to 0x2111. -/
def State.dieValue (s : State) (idx sub : Nat) : List Byte :=
  let k := sub - 1
  let num (n v : Nat) : List Byte := leBytes n v
  if idx = 0x2021 then num 1 (s.quireState ⟨k % 4, by omega⟩)
  else if idx = 0x2040 then num 2 (s.bridgeState ⟨k % 88, by omega⟩ * 2 ^ 14 + s.sectionsUp ⟨k % 88, by omega⟩)
  else if idx = 0x2041 then s.spareMap ⟨k % 88, by omega⟩
  else if idx = 0x2051 then (if sub = 1 then num 1 s.holder.val else num 4 s.leaseEpoch)
  else if idx = 0x2061 then num 2 (s.engineWord (dieOf (k / 4)) ⟨k % 4, by omega⟩)
  else if idx = 0x2102 then
    let d := dieOf (k / 5)
    num 4 (match k % 5 with
      | 0 => (s.die d).capacity / mib
      | 1 => (s.die d).channels * 102400
      | 2 => s.localSize d / mib
      | 3 => s.spreadBase d / mib
      | _ => s.reservedBase d / mib)
  else if idx = 0x2110 then (s.die (dieOf k)).chanMap.map fun c => BitVec.ofNat 8 (c.getD 0xFF)
  else (List.range 544).map fun i => BitVec.ofNat 8 (SMap.get 0xFF (s.die (dieOf k)).lanes i)

/-- Power and thermal: 0x3000 to 0x3040. -/
def State.powerValue (s : State) (idx sub : Nat) : List Byte :=
  let d := dieOf (sub - 1)
  let i16 (v : Int) : List Byte := leBytes 2 ((v % 65536).toNat)
  if idx = 0x3000 then leBytes 2 (if sub = 1 then s.power.volts else if sub = 2 then s.power.amps else s.power.watts)
  else if idx = 0x3010 then leBytes 2 s.powerLimit
  else if idx = 0x3011 then i16 s.power.hot[d]
  else if idx = 0x3020 then i16 (s.die d).temp
  else if idx = 0x3021 then leBytes 1 ((s.die d).band * 16 + (s.die d).step)
  else if idx = 0x3030 then leBytes 1 s.power.st.code
  else if idx = 0x3031 then leBytes 4 s.power.refusals.length ++ leBytes 4 0 ++ s.power.refusals.flatMap RefusalEntry.bytes
  else if sub = 2 then leBytes 1 (if s.endValid then 1 else 0)
  else leBytes 8 s.endFt

/-- Time and remote operations: 0x4100 to 0x4202. -/
def State.timeValue (s : State) (idx sub : Nat) : Nat :=
  let g := s.gut.sched
  if idx = 0x4100 then
    match sub with
    | 1 => s.now
    | 2 => lockCode s.time.lock
    | 3 => ((s.time.offset / 1000) % (2 ^ 64 : Int)).toNat
    | 4 => match s.time.parent with
      | some p => p.val
      | none => 0xFF
    | 5 => s.errorBound
    | _ => s.time.epoch
  else if idx = 0x4102 then
    let p := (s.die (dieOf ((sub - 1) / 2))).startPair
    if sub % 2 = 1 then p.1 else p.2
  else if idx = 0x4121 then
    match sub with
    | 1 => g.period
    | 2 => (g.phase % (g.period : Int)).toNat
    | 3 => g.length
    | 4 => g.guard
    | _ => g.ident
  else if idx = 0x4122 then
    match sub with
    | 1 => s.gut.overruns
    | 2 => s.gut.degDeferrals
    | 3 => s.gut.roundMs
    | _ => s.gut.deferrals.toList.getD (sub - 4) 0
  else if idx = 0x4201 then
    let x := s.die (dieOf ((sub - 1) / 3))
    match (sub - 1) % 3 with
    | 0 => x.horizon.toNat
    | 1 => x.recs.length
    | _ => x.results.length
  else if sub ≤ 20 then (s.die (dieOf (sub - 1))).epoch
  else (s.die (dieOf (sub - 0x15))).boundary.toNat

/-- Fabric: 0x4301 to 0x4350. -/
def State.fabricValue (s : State) (idx sub : Nat) (size : Nat) : List Byte :=
  let p := s.topo.plan
  if idx = 0x4301 then leBytes size (match sub with
    | 1 => p.ident
    | 2 => p.node
    | 7 => if p.ring then 1 else 0
    | n => if n < 7 then p.size (n - 3) else p.mins.toList.getD (n - 8) 1)
  else if idx = 0x4311 then
    let x := s.port (portOf (sub - 1))
    let st := match x.state with
      | .unused => 0
      | .training => 1
      | .discovery => 2
      | .up => 3
      | .down => 4
      | .held => 5
      | .disabled => 6
    leBytes 16 x.plan.raw ++ leBytes 1 st ++ leBytes 1 x.cause ++ leBytes 1 x.exit ++ List.replicate 5 0
  else if idx = 0x4320 then leBytes 8 (sumNat ((s.upTo ((sub - 1) / 32) ((sub - 1) % 32)).map fun p => 2 ^ p.val))
  else if idx = 0x4321 then leBytes 4 s.ringMap
  else if idx = 0x4340 then
    let r := s.topo.record
    leBytes 32 (Config.congHeader r.node r.ft r.plan).toNat ++ (List.range 384).map fun i => BitVec.ofNat 8 (SMap.get 0 r.counts i)
  else leBytes 4 s.mgrEpoch

/-- Whether a slot of the comb's ports is bound to a line. -/
def State.lineBound (s : State) (c : Fin 16) (k : Nat) : Bool :=
  (combPorts c).any fun p => (s.opt p).slots.toList.any fun x => x.line == some k

/-- Optics: 0x4510 to 0x455F. -/
def State.opticsValue (s : State) (idx sub : Nat) (size : Nat) : List Byte :=
  if idx = 0x4510 then
    let p := portOf (sub - 1)
    let o := s.opt p
    let n (st : SlotState) : Nat := (o.slots.toList.filter fun x => x.st == st).length
    let f := match o.fibre with
      | .normal => 0
      | .shutdown => 1
      | .probe => if o.probeAt + 2000000 < s.mono then 1 else 2
      | .answered => 3
    /- the resolution in force on the lowest in-service slot (R346, log 92) -/
    let res := match o.slots.toList.find? fun x => x.st == .inService with
      | some x => x.res
      | none => s.setting 0x4500 4
    leBytes size (n .inService * 2 ^ 27 + n .spare % 4 * 2 ^ 25 + (s.port p).exit % 2 * 2 ^ 24 + f * 2 ^ 21
      + res % 16 * 2 ^ 17)
  else if idx = 0x4520 then
    match sub with
    | 1 => leBytes 1 (if s.host.linkUp then 1 else 0)
    | 2 => leBytes 8 s.host.linkCodewords.1
    | 3 => leBytes 8 s.host.linkCodewords.2
    | _ => leBytes 4 s.host.linkRatio.toNat
  else if idx < 0x4520 then
    let c : Fin 16 := ⟨(2 * (idx - 0x4518) + (sub - 1) / 20) % 16, by omega⟩
    let l := s.line c ((sub - 1) % 20)
    leBytes size ((if l.failed then 2 else if s.lineBound c ((sub - 1) % 20) then 1 else 0) * 2 ^ 30 + (l.margin % 65536).toNat)
  else
    let p := portOf (idx - 0x4530)
    let x := s.slot p ⟨(sub - 1) % 18, by omega⟩
    let st := match x.st with
      | .inService => 0
      | .spare => 1
      | .withdrawn => 2
      | .retired => 3
      | .failed => 4
    leBytes size (st * 2 ^ 29 + x.line.getD 0x1F % 32 * 2 ^ 24 + (s.opt p).generation % 65536 * 2 ^ 8
      + min 255 ((s.mono - x.calAt) / 60000000000))

/-- Counters of a vector, each of the same size. -/
def counters (size : Nat) (xs : List Nat) : List Byte := xs.flatMap (leBytes size)

/-- The occupancy record of a die (R492). -/
def OccRecord.bytes (r : OccRecord) : List Byte :=
  let hist (h : Nat) : List Byte := (List.range 8).flatMap fun b => leBytes 2 (SMap.get 0 r.bins (8 * h + b))
  leBytes 8 r.start ++ leBytes 8 r.stop ++ leBytes 4 r.period ++ leBytes 4 r.samples ++ leBytes 8 0
    ++ (List.range 8).flatMap hist ++ counters 4 ((List.range 4).map fun e => r.stalls.getD e 0)
    ++ (List.range 103).flatMap fun h => hist (8 + h)

/-- Faults, health, accounting and observation: 0x5000 to 0x7000. -/
def State.faultValue (s : State) (idx sub : Nat) : List Byte :=
  let k := sub - 1
  let x := s.die (dieOf k)
  if idx = 0x5000 then (if sub = 1 then leBytes 2 s.log.recs.length else leBytes 4 s.log.lost)
  else if idx = 0x5100 then (if sub = 1 then leBytes 2 s.health.score else leBytes 1 s.health.state)
  else if idx = 0x5110 then
    let m := (s.die (dieOf (k / 4))).mx[(⟨k % 4, by omega⟩ : Fin 4)]
    leBytes 4 m.failures ++ leBytes 4 m.recomputed
  else if idx = 0x5120 then counters 4 ((List.range 138).map fun i => SMap.get 0 x.memCounts i)
  else if idx = 0x5121 then leBytes 4 x.retrains.2 ++ leBytes 4 x.retrains.1
  else if idx = 0x5122 then
    leBytes 4 ((((s.die (dieOf (k / 6))).reside s.mono).residency.toList.getD (k % 6) 0) / 1000000000)
  else if idx = 0x5130 then counters 8 x.remCounts.toList
  else if idx = 0x5140 then leBytes 8 (s.topo.counts.toList.getD k 0)
  else if idx = 0x5150 then counters 8 x.collCounts.toList
  else if idx = 0x5160 then counters 4 (s.opt (portOf k)).counts.toList
  else if idx = 0x5170 then counters 8 (s.chan ⟨k % 64, by omega⟩).counts.toList
  else if idx = 0x5200 then
    let es := s.gov.spares.take 255
    leBytes 4 es.length ++ leBytes 4 0 ++ es.flatMap fun (a, b, t) => leBytes 4 a ++ leBytes 4 b ++ leBytes 8 t
  else if idx = 0x6000 then s.occ.last[dieOf k].bytes
  else match sub with
    | 1 => zeroPad 64 s.vendor.identityKey
    | 2 => leBytes 4 s.flash.bootCount
    | 3 => if s.boot.recovery then List.replicate 32 0 else zeroPad 32 s.boot.image.digestBytes
    | _ => s.configDigest

/-- 0x2011: a disabled folio; what stands in an unused entry is open. -/
def State.folioEntry (s : State) (k : Nat) : Nat × State := match s.disabled[k]? with
  | some (f, reserve) => ((if reserve then 2 ^ 15 else 0) + f / 2 * 2 ^ 8 + f % 2, s)
  | none => s.fresh 65536

/-- The value of a sub-index that may be read: what the module maintains, or what was written or stands as the default. -/
def State.readValue (s : State) (e : Entry) (idx sub : Nat) : State × List Byte :=
  let size := e.size.getD 0
  let stored := (s, leBytes size (s.setting idx sub))
  if e.acc = .rw ∨ e.acc = .rwq then
    if idx = 0x1400 ∧ sub = 1 then (s, leBytes 16 s.hostAddr) else stored
  else if e.acc = .const ∧ !(idx = 0x1018 ∧ sub ≠ 1) ∧ !(idx = 0x2010 ∧ sub = 5) then stored
  else if idx = 0x2011 ∧ sub ≠ 1 then
    let (v, s) := s.folioEntry (sub - 2)
    (s, leBytes 2 v)
  else if idx = 0x4100 ∧ sub = 3 ∧ s.time.offset % 1000 ≠ 0 then
    let (up, s) := s.fresh 2
    (s, leBytes 8 ((s.timeValue idx sub + up) % 2 ^ 64))
  else if idx < 0x2020 then (s, leBytes size (s.identityValue idx sub))
  else if idx < 0x3000 then (s, s.dieValue idx sub)
  else if idx < 0x4000 then (s, s.powerValue idx sub)
  else if idx < 0x4300 then (s, leBytes size (s.timeValue idx sub))
  else if idx < 0x4500 then (s, s.fabricValue idx sub size)
  else if idx < 0x5000 then (s, s.opticsValue idx sub size)
  else (s, s.faultValue idx sub)

/-! ## Checks (R394) -/

/-- Checks 1, 2 and 4: the index, the sub-index, the right. -/
def accessEntry (r : DictReq) : Except Nat Entry :=
  if !(objectTable.any (·.hasIndex r.idx)) then .error 0x50
  else if r.sub = 0 then
    if r.write then .error 0x52 else .ok (fix r.idx 0 0 1 .const (highestSub r.idx))
  else match findEntry r.idx r.sub with
    | none => .error 0x51
    | some e =>
      match e.acc, r.write with
      | .wo, false | .ro, true | .const, true => .error 0x52
      | _, _ => .ok e

/-- Check 3: a flag word of a disabled engine (R408). -/
def State.absentUnit (s : State) (r : DictReq) : Bool :=
  decide (0x2080 ≤ r.idx) && decide (r.idx ≤ 0x2093) && decide (1 ≤ r.sub) && decide (r.sub ≤ 0x20)
    && s.folioDisabled (dieOf (r.idx - 0x2080)) ((r.sub - 1) % 4 / 2)

/-- An exit of a port plan entry without its reserved fields (R12, R285). -/
def maskExit (w : Nat) : Nat := bits w 23 0 + bits w 31 30 * 2 ^ 30 + (if bits w 31 30 = 1 then bits w 29 28 * 2 ^ 28 else 0)

/-- A written value without its reserved fields, which the module neither checks nor keeps (R12). -/
def State.unreserved (s : State) (idx sub v : Nat) : Nat :=
  if idx = 0x1410 then bits v 7 6 * 64 + (if sub = 1 then 0 else bits v 1 0)
  else if idx = 0x2030 then v % 4
  else if 0x4210 ≤ idx ∧ idx ≤ 0x422F then
    (if bit v 63 then 2 ^ 63 else 0) + bits v 57 0 + bits v 83 64 * 2 ^ 64 + bits v 175 128 * 2 ^ 128
      + bits v 223 192 * 2 ^ 192
  else if idx = 0x4310 then
    maskExit (bits v 31 0) + maskExit (bits v 63 32) * 2 ^ 32 + (if bit v 71 then 2 ^ 71 else 0) + bits v 65 64 * 2 ^ 64
      + bits v 79 72 * 2 ^ 72
  else if idx = 0x4312 then
    bits v 47 16 * 2 ^ 16 + (if bits v 31 16 = s.node then bits v 55 48 * 2 ^ 48 else 0) + (if bit v 63 then 2 ^ 63 else 0)
  else v

/-- Check 6: reserved values (R13). -/
def reservedValue (idx sub v : Nat) : Bool :=
  if idx = 0x2020 then decide (4 ≤ v) && decide (v ≤ 0xFE)
  else if 0x4210 ≤ idx ∧ idx ≤ 0x422F then
    (decide (0x30 ≤ bits v 55 48) && decide (bits v 55 48 ≤ 0xFE)) || decide (2 ≤ bits v 175 172)
  else if idx = 0x4310 then bits v 31 30 == 3 || bits v 63 62 == 3 || decide (2 ≤ bits v 79 72)
  else idx == 0x4330 && decide (sub ≤ 4) && v == 0xFF

/-- Whether the reserved regions and a spread share fit in a die's capacity; a die without DRAM is left out (R232, R234). -/
def State.fits (s : State) (d : DieId) (share : Nat) : Bool :=
  (s.die d).channels == 0 || decide (sumNat s.regionSizes + share ≤ (s.die d).capacity)

def State.allFit (s : State) : Bool := allDies.all fun d => s.fits d (s.spreadShare d)

/-- A sum over sub-indices with one of them replaced. -/
def State.sumWith (s : State) (idx : Nat) (subs : List Nat) (sub v : Nat) : Nat :=
  sumNat (subs.map fun k => if k = sub then v else s.setting idx k)

/-- A port plan exit's own range: a dimension link names a port of a module (R285). -/
def exitOk (w : Nat) : Bool := bits w 31 30 != 1 || decide (bits w 23 16 ≤ 47)

/-- Check 7: ranges, and the sum and ratio rules of the entry. -/
def State.inRange (s : State) (e : Entry) (idx sub v : Nat) : Bool :=
  let set : State := s.setSetting idx sub v
  if idx = 0x4110 then
    decide (signed32 v ≤ 100000) && decide (-100000 ≤ signed32 v)
  else if v < e.lo ∨ e.hi < v then false
  else if idx = 0x1400 ∧ sub = 1 then v % 256 != 0xFF && v != 0
  else if idx = 0x2022 then decide (s.sumWith idx [1, 2, 3, 4] sub v ≤ 100)
  else if idx = 0x2101 ∨ idx = 0x2072 ∨ idx = 0x6010 ∨ idx = 0x6020 ∨ idx = 0x2100 then set.allFit
  else if idx = 0x2103 then
    let q := (sub - 1) / 10
    decide (sumNat ((List.range 5).map fun k => set.setting idx (1 + 10 * q + 2 * k)) ≤ 100)
      && (List.range 5).all fun k => decide (set.setting idx (1 + 10 * q + 2 * k) ≤ set.setting idx (2 + 10 * q + 2 * k))
  else if idx = 0x2120 ∧ sub = 3 then decide (s.setting 0x2120 2 < v)
  else if idx = 0x4120 ∧ sub = 2 then decide (v < s.setting 0x4120 1)
  else if 0x4210 ≤ idx ∧ idx ≤ 0x422F then bits v 139 128 == 0
  else if idx = 0x4300 ∧ 3 ≤ sub ∧ sub ≤ 6 then decide (1 ≤ v) && decide (v ≤ (if sub = 6 then 32 else 16))
  else if idx = 0x4310 then exitOk (bits v 31 0) && exitOk (bits v 63 32)
  else if idx = 0x4312 then
    let m := s.topo.plan.modules
    !bit v 63 || (decide (bits v 31 16 < m) && decide (m ≤ bits v 47 32) && decide (bits v 47 32 ≤ 65534)
      && (bits v 31 16 != s.node || (decide (44 ≤ bits v 55 48) && decide (bits v 55 48 ≤ 47))))
  else if idx = 0x4330 ∧ sub ≤ 4 then
    v != 0 && [1, 2, 3, 4].all fun k => k == sub || s.setting 0x4330 k != v
  else if idx = 0x4331 then
    let p := (sub - 1) / 5
    decide (s.sumWith idx ((List.range 5).map fun k => 1 + 5 * p + k) sub v ≤ 100)
  else if idx = 0x4400 ∧ sub = 1 then v == 16 || v == 32 || v == 64 || v == 128 || v == 256
  else true

/-- Checks 5 to 7 of a write whose right is checked: none for a write of length 0 (R395), or its value. -/
def State.writeValue (s : State) (e : Entry) (r : DictReq) : Except Nat (Option Nat) :=
  if r.len = 0 then .ok none
  else if some r.len ≠ e.size ∨ r.data.length ≠ r.len then .error 0x53
  else
    let v := s.unreserved r.idx r.sub (leNat r.data)
    if reservedValue r.idx r.sub v then .error 0x01
    else if !s.inRange e r.idx r.sub v then .error 0x02
    else .ok (some v)

/-- Runs a write whose checks 1 to 7 pass. -/
def State.writeWith (s : State) (r : DictReq) (run : Nat → State × Nat) : Served :=
  match accessEntry r with
  | .error st => (s, st, [])
  | .ok e => match s.writeValue e r with
    | .error st => (s, st, [])
    | .ok none => (s, 0, [])
    | .ok (some v) =>
      let (s, st) := run v
      (s, st, [])

def writeTo (r : DictReq) (idx : Nat) : Bool := r.write && r.idx == idx && r.sub != 0

/-! ## Rows of their own -/

/-- GUTTER_EFFECTIVE_FT_WRITE (R51). -/
def execGutterEffectiveFtWrite (a : Access) (s : State) : Result :=
  s.serve a (fun r => writeTo r 0x4120 && r.sub == 5) fun s r => s.writeWith r fun v =>
    let (t, st) := s.stageSchedule v
    if st = 0 then (t.setSetting 0x4120 5 v, 0) else (s, st)

/-- PLAN_EFFECTIVE_FT_WRITE (R288, R289). -/
def execPlanEffectiveFtWrite (a : Access) (s : State) : Result :=
  s.serve a (fun r => writeTo r 0x4300 && r.sub == 0x0C) fun s r => s.writeWith r fun v =>
    let (t, st) := s.stagePlan v
    if st = 0 then (t.setSetting 0x4300 0x0C v, 0) else (s, st)

/-- QUIRE_ASSIGNMENT_WRITE (R35, R37, R234): a joining die's local part must not be negative. -/
def execQuireAssignmentWrite (a : Access) (s : State) : Result :=
  s.serve a (fun r => writeTo r 0x2020) fun s r => s.writeWith r fun v =>
    let d := dieOf (r.sub - 1)
    let share := match quireOfValue v with
      | some k => s.setting 0x2100 (k.val + 1) * gib
      | none => 0
    if !s.fits d share then (s, 0x02) else s.assignQuire d v

/-- Whether the quires that an entry concerns are stopped; none is concerned by an unassigned die. -/
def State.dieQuireStopped (s : State) (d : DieId) : Bool := match (s.die d).quire with
  | some k => s.quireStopped k
  | none => true

/-- FOLIO_JOIN_WRITE (R109): joining a disabled folio or one with a removed engine is 0x03 at the place of check 7. -/
def execFolioJoinWrite (a : Access) (s : State) : Result :=
  s.serve a (fun r => writeTo r 0x2030) fun s r => s.writeWith r fun v =>
    let d := dieOf (r.sub - 1)
    let lost (f : Fin 2) : Bool := s.folioDisabled d f.val || (s.die d).mx[(⟨2 * f.val, by omega⟩ : Fin 4)].removed
      || (s.die d).mx[(⟨2 * f.val + 1, by omega⟩ : Fin 4)].removed
    if (bit v 0 && lost 0) || (bit v 1 && lost 1) then (s, 0x03)
    else if !s.dieQuireStopped d then (s, 0x06)
    else (s.setSetting 0x2030 r.sub v, 0)

/-- Invalidates the open colophon of a context, with event 0x02C1 the first time (R176). -/
def State.spoilColophon (s : State) (d : DieId) (c : CtxId) : State := match (s.getCtx d c).colophon with
  | some x =>
    if x.invalid then s
    else State.raise (s.updCtx d c fun y => { y with colophon := some { x with invalid := true } })
      { code := 0x02C1, unit := uDie d, ctx := some c.val }
  | none => s

/-- SEED_WRITE (R150, R176). -/
def execSeedWrite (a : Access) (s : State) : Result :=
  s.serve a (fun r => writeTo r 0x2070) fun s r => s.writeWith r fun v =>
    let k : Fin 4 := ⟨(r.sub - 1) % 4, by omega⟩
    if !s.quireStopped k then (s, 0x06)
    else ((s.diesOf k).foldl (fun s d => allCtx.foldl (fun s c => s.spoilColophon d c) s) (s.setSetting 0x2070 r.sub v), 0)

/-- Clears an extent of a die's stack: no byte, no error. -/
def Die.clearExtent (x : Die) (lo hi : Nat) : Die :=
  let out (w : Nat) : Bool := decide (32 * w + 32 ≤ lo) || decide (hi ≤ 32 * w)
  { x with dram := x.dram.filter fun c => decide (c.1 < lo) || decide (hi ≤ c.1), badDram := x.badDram.filter out,
           corrected := x.corrected.filter out }

/-- Clears the regions of a die whose size or position differs from what it was, and what State keeps of their contents (R232). -/
def State.clearRegions (s old : State) (d : DieId) : State :=
  if (s.die d).channels = 0 then s
  else (List.range 5).foldl (fun s k =>
    if s.region d k = old.region d k then s
    else
      let r := s.region d k
      s.updDie d fun x =>
        let x := x.clearExtent r.1 r.2
        if k = 1 then { x with cutHold := [] }
        else if k = 3 then { x with trace := { x.trace with written := 0, totals := .replicate 4 0 } }
        else x) s

/-- REGION_SIZE_WRITE (R232): the sizes are the module's, so every quire is concerned. -/
def execRegionSizeWrite (a : Access) (s : State) : Result :=
  s.serve a (fun r => writeTo r 0x2101 || writeTo r 0x2072 || writeTo r 0x6010 || writeTo r 0x6020) fun s r => s.writeWith r fun v =>
    if !s.allStopped then (s, 0x06)
    else
      let t := s.setSetting r.idx r.sub v
      let t := allDies.foldl (fun t d => t.clearRegions s d) t
      let moved := allDies.any fun d => (s.die d).channels != 0 && t.region d 4 != s.region d 4
      (if moved ∧ s.pm.any (fun m => !m.writing) then { t with pm := none } else t, 0)

/-- SPREAD_SHARE_WRITE (R234): no data moves. -/
def execSpreadShareWrite (a : Access) (s : State) : Result :=
  s.serve a (fun r => writeTo r 0x2100) fun s r => s.writeWith r fun v =>
    if !s.quireStopped ⟨(r.sub - 1) % 4, by omega⟩ then (s, 0x06) else (s.setSetting 0x2100 r.sub v, 0)

def flagRead (r : DictReq) : Bool := !r.write && decide (0x2080 ≤ r.idx) && decide (r.idx ≤ 0x2093) && r.sub != 0

/-- FLAG_WORD_READ (R156): a word of a disabled engine is 0x03, at check 3. -/
def execFlagWordRead (a : Access) (s : State) : Result :=
  s.serve a flagRead fun s r =>
    if s.absentUnit r then (s, 0x03, []) else
    match accessEntry r with
    | .error st => (s, st, [])
    | .ok _ =>
      let d := dieOf (r.idx - 0x2080)
      let i : Fin 32 := ⟨(r.sub - 1) % 32, by omega⟩
      (s.updDie d fun x => { x with flags := x.flags.set i flagsClear }, 0, leBytes 8 (s.die d).flags[i])

def logRead (r : DictReq) : Bool := !r.write && r.idx == 0x5000 && r.sub == 2

/-- EVENT_LOG_READ (R456): the oldest record, which goes; zeros when there is none. -/
def execEventLogRead (a : Access) (s : State) : Result :=
  s.serve a logRead fun s _ =>
    match s.log.recs with
    | e :: rest => ({ s with log := { s.log with recs := rest } }, 0, e.bytes)
    | [] => (s, 0, List.replicate 32 0)

/-! ## The settings store (R397) -/

def persistent : List Nat :=
  [0x1017, 0x1400, 0x1410, 0x4101, 0x4110, 0x4300, 0x4310, 0x4312, 0x4330, 0x4350, 0x7110]

/-- The values that a save writes: current ones, of the staged objects those in force. -/
def State.saved (s : State) : SMap Nat :=
  let p := s.topo.plan
  let cur := s.dict.filter fun e => decide (e.1 / 256 ∈ persistent) && e.1 / 256 != 0x4300 && e.1 / 256 != 0x4310
  let put (m : SMap Nat) (e : Nat × Nat × Nat) : SMap Nat := SMap.set (tableDefault e.1 e.2.1) m (dictKey e.1 e.2.1) e.2.2
  let plan := [(0x4300, 1, p.ident), (0x4300, 2, p.node), (0x4300, 7, if p.ring then 1 else 0)]
    ++ (List.range 4).map (fun i => (0x4300, 3 + i, p.size i)) ++ (List.range 4).map fun i => (0x4300, 8 + i, p.mins.toList.getD i 1)
  let ports := allPorts.map fun q => (0x4310, q.val + 1, (s.port q).plan.raw)
  (plan ++ ports).foldl put cur

/-- Marks an access as begun: it waits for the flash. -/
def State.waitSave (s : State) (a : Access) : State :=
  let s := { s with flash := { s.flash with saveWait := s.flash.saveWait ++ [a] } }
  match a with
  | .host seq => s.begun seq
  | .can => s

/-- SAVE_SETTINGS: the save holds the values current when it starts; one that arrives during another waits. -/
def execSaveSettings (a : Access) (s : State) : Result :=
  match s.accessOf a with
  | none => .next s
  | some r =>
    let starts : Bool := writeTo r 0x1010 && r.sub == 1 && r.len == 4 && r.data == leBytes 4 0x65766173
    let serves : Bool := !s.boot.recovery && s.governs && (a == .can || s.hostPath)
      && decide ((if a = .can then 2 else 5) ≤ s.boot.stage)
    if starts && serves then
      if s.flash.saving.isSome then .next s
      else .next (State.waitSave { s with flash := { s.flash with saving := some s.saved } } a)
    else s.serve a (fun r => writeTo r 0x1010) fun s r => s.writeWith r fun _ => (s, 0)

/-- ERASE_SETTINGS: the defaults apply from the next full boot; it waits while a save runs. -/
def execEraseSettings (a : Access) (s : State) : Result :=
  if s.flash.saving.isSome then .next s
  else s.serve a (fun r => writeTo r 0x1011) fun s r => s.writeWith r fun _ =>
    ({ s with flash := { s.flash with store := none } }, 0)

/-- SETTINGS_SAVE_COMPLETE: the copy written is in force, and the write that asked for it completes. -/
def execSettingsSaveComplete (s : State) : Result :=
  match s.flash.saving with
  | none => .next s
  | some m =>
    let waits := s.flash.saveWait
    let s := { s with flash := { s.flash with saving := none, saveWait := [], store := some { vals := m, keysOk := true } } }
    .next (waits.foldl (fun s a => s.respond a { write := true, idx := 0x1010, sub := 1, len := 4, data := [] } 0 []) s)

/-! ## DICT_WRITE and DICT_READ (R394 to R396) -/

/-- Whether a write belongs to a row of its own. -/
def ownRow (r : DictReq) : Bool :=
  r.sub != 0 && (r.idx == 0x2020 || r.idx == 0x2030 || r.idx == 0x2070 || r.idx == 0x2101 || r.idx == 0x2072 || r.idx == 0x6010
    || r.idx == 0x6020 || r.idx == 0x2100 || r.idx == 0x1010 || r.idx == 0x1011 || (r.idx == 0x4120 && r.sub == 5)
    || (r.idx == 0x4300 && r.sub == 0x0C))

/-- The quires that an RWQ write concerns (R374, R239, R266, R295). -/
def State.concerned (s : State) (r : DictReq) (v : Nat) : List (Fin 4) :=
  let q (n : Nat) : Fin 4 := ⟨n % 4, by omega⟩
  if r.idx = 0x1410 then (if r.sub = 1 then [] else [q (s.setting r.idx r.sub), q v])
  else if r.idx = 0x2103 then [q ((r.sub - 1) / 10)]
  else if r.idx = 0x4330 then [q (r.sub - 1)]
  else
    [entryQuire (s.setting r.idx r.sub), entryQuire v]

/-- A channel that a write of its 0x1410 entry finds open (R374); one that is closing still is (DEDUCED, log 67). -/
def State.chanOpen (s : State) (r : DictReq) : Bool :=
  r.idx == 0x1410 && (s.chan ⟨(r.sub - 1) % 64, by omega⟩).state != .closed

/-- DICT_WRITE: check 8, then the value on both control dies. A role or a manager node written anew ends what a manager's loss
changed (R310). -/
def execDictWrite (a : Access) (s : State) : Result :=
  s.serve a (fun r => r.write && !ownRow r) fun s r =>
    if s.absentUnit r then (s, 0x03, []) else
    match accessEntry r with
    | .error st => (s, st, [])
    | .ok e => match s.writeValue e r with
      | .error st => (s, st, [])
      | .ok none => (s, 0, [])
      | .ok (some v) =>
        if s.chanOpen r then (s, 0x0C, [])
        else if e.acc = .rwq ∧ !(s.concerned r v).all s.quireStopped then (s, 0x06, [])
        else
          let s := s.setSetting r.idx r.sub v
          let m := s.mgr
          let s : State := if r.idx = 0x4350 ∧ r.sub = 3 then { s with mgr := { m with followed := none } }
            else if r.idx = 0x4350 ∧ r.sub = 1 then { s with mgr := { m with claimed := false, yielded := false } }
            else s
          (s, 0, [])

/-- DICT_READ: one sample of the whole sub-index. -/
def execDictRead (a : Access) (s : State) : Result :=
  s.serve a (fun r => !r.write && !flagRead r && !logRead r) fun s r =>
    match accessEntry r with
    | .error st => (s, st, [])
    | .ok e =>
      if r.sub = 0 then (s, 0, leBytes 1 e.dflt)
      else
        let (s, bs) := s.readValue e r.idx r.sub
        (s, 0, bs)

end Sys2Proof.Machine
end

