-- ==== Sys2Proof/Machine/Can.lean ====
section
/-! DEFINITION. CAN FD transfers and the heartbeat (R400 to R405). -/

namespace Sys2Proof.Machine

/-- Whether a client's frame reaches the server: CAN FD, this module's request identifier, contacts connected, firmware or the ROM
loader running; during a warm restart it goes unanswered (R400 to R402, R407, R427). -/
def State.canTakes (s : State) (f : CanFrame) (cmd : Nat) : Bool :=
  f.fd && s.can.nodeId != 0 && f.ident == 0x600 + s.can.nodeId && s.canOn && leNat (f.data.take 1) == cmd
    && (s.boot.recovery || (decide (2 ≤ s.boot.stage) && s.governs))

def frameIndex (f : CanFrame) : Nat := leNat ((f.data.drop 1).take 2)
def frameSub (f : CanFrame) : Nat := leNat ((f.data.drop 3).take 1)
def frameTotal (f : CanFrame) : Nat := leNat ((f.data.drop 4).take 2)

/-- A new transfer ends an unfinished one without a response (R403). -/
def State.newTransfer (s : State) (t : CanTransfer) : State :=
  { s with can := { s.can with transfer := some t }, flash := { s.flash with saveWait := s.flash.saveWait.filter (· != Access.can) } }

/-- CAN_WRITE_INITIATE (R402, R403): a total above 4,096 bytes is no type's size, and goes to the server as it stands. -/
def execCanWriteInitiate (f : CanFrame) (s : State) : Result :=
  if !s.canTakes f 0x20 then .next s
  else
    let n := frameTotal f
    .next (s.newTransfer
      { write := true, index := frameIndex f, sub := frameSub f, total := n, data := (f.data.drop 8).take (min 56 n), nextSeg := 1,
        ready := decide (n ≤ 56) || decide (4096 < n), lastAt := s.mono })

/-- CAN_READ_INITIATE (R402). -/
def execCanReadInitiate (f : CanFrame) (s : State) : Result :=
  if !s.canTakes f 0x40 then .next s
  else
    .next (s.newTransfer
      { write := false, index := frameIndex f, sub := frameSub f, total := 0, data := [], nextSeg := 1, ready := true,
        lastAt := s.mono })

/-- CAN_SEGMENT (R403): the next segment of a write is accepted; the last goes to the server, whose response answers it. A segment
out of its turn is not taken. -/
def execCanSegment (f : CanFrame) (s : State) : Result :=
  match s.can.transfer with
  | none => .next s
  | some t =>
    let n := leNat ((f.data.drop 1).take 1)
    if !s.canTakes f 0x60 ∨ !t.write ∨ t.ready ∨ n ≠ t.nextSeg then .next s
    else
      let data := t.data ++ (f.data.drop 2).take (min 62 (t.total - t.data.length))
      let done := decide (t.total ≤ 56 + 62 * n)
      let s := { s with can := { s.can with transfer := some { t with data := data, nextSeg := n + 1, ready := done, lastAt := s.mono } } }
      .next (if done then s else s.sendCan (leBytes 1 0x61 ++ leBytes 1 n))

/-- CAN_SEGMENT_ACCEPTED (R403): the next segment of a read, or its end. -/
def execCanSegmentAccepted (f : CanFrame) (s : State) : Result :=
  match s.can.transfer with
  | none => .next s
  | some t =>
    if !s.canTakes f 0x61 ∨ t.write ∨ t.ready ∨ leNat ((f.data.drop 1).take 1) ≠ t.nextSeg then .next s
    else if t.total ≤ 56 + 62 * t.nextSeg then .next { s with can := { s.can with transfer := none } }
    else
      let s := { s with can := { s.can with transfer := some { t with nextSeg := t.nextSeg + 1, lastAt := s.mono } } }
      .next (s.sendCan (segmentFrame t.data (t.nextSeg + 1)))

/-- CAN_TRANSFER_TIMEOUT (R403): 100 ms without a frame of the client. No status stands behind the abort, so its byte is open. -/
def execCanTransferTimeout (s : State) : Result :=
  match s.can.transfer with
  | none => .next s
  | some t =>
    if t.ready ∨ s.mono < t.lastAt + 100000000 ∨ !(s.boot.recovery || s.governs) then .next s
    else
      let (b, s) := s.freshStatus
      let s := { s with can := { s.can with transfer := none } }
      .next (s.sendCan (canHead 0x80 t.index t.sub ++ leBytes 4 0x05040000 ++ leBytes 1 b))

/-- CAN_HEARTBEAT (R405): 0x7F while the module boots or the ROM loader serves (R427), 0x05 once ready; a period of 0 sends none. -/
def execCanHeartbeat (s : State) : Result :=
  let period := s.setting 0x1017 1
  if period = 0 ∨ s.mono < s.can.heartbeatAt + period * 1000000 ∨ s.power.st = .off
      ∨ !(s.boot.recovery || (s.boot.claimed && s.governs)) then .next s
  else .next (s.heartbeat (if s.boot.stage = 9 then 0x05 else 0x7F))

end Sys2Proof.Machine
end

