-- ==== Sys2Proof/Machine/Dma.lean ====
section
/-! DEFINITION. The DMA channels: COPY, ATOMIC and REDUCE (R262 to R265). -/

namespace Sys2Proof.Machine

/-- Stream of a DMA channel in its context (R256). -/
def dmaStream (q : QueueId) : Nat := 8 * q.ctx.val + ((qUnit q).val - 10)

/-- The first status present, in the order of R265. -/
def pickStatus (order sts : List Nat) : Nat := (order.find? fun o => decide (o ∈ sts)).getD 0

def dmaOrder : List Nat := [0x01, 0x10, 0x14, 0x11, 0x02]

/-- Address rules and alignment of one address of a descriptor (R257): the spaces its operation takes. -/
def addrStatus (target align : Nat) (spaces : List Nat) : Nat :=
  let g := gaddr target
  match g.place with
  | .error st => st
  | .ok _ => if g.space ∉ spaces then 0x14 else if g.off % align ≠ 0 then 0x11 else 0

/-- Whether an address lies on the issuing die in die form, SRAM or objects (R255, R262). -/
def State.onOwnDie (s : State) (d : DieId) (target : Nat) : Bool :=
  let g := gaddr target
  g.node == s.node && (match g.place with
    | .ok (.die e _ _) => e == d
    | .ok (.obj e _) => e == d
    | _ => false)

/-- Status of an extent: a die's SRAM (R251) and its objects (R83) end where every module's do; a die-form DRAM extent (R232) and a
window extent (R237) are laid out by the module itself only at its own node. -/
def State.extentStatus (s : State) (d : DieId) (target n : Nat) : Nat :=
  let g := gaddr target
  if n = 0 then 0
  else if g.space = 2 ∧ g.node ≠ 0xFFFF then (if 4096 < g.off % 0x10000 / 4 + (n + 3) / 4 then 0x10 else 0)
  else match g.place with
  | .ok (.die _ true off) => if sramSize < off + n then 0x10 else 0
  | .ok (.die e false off) =>
    if g.node ≠ s.node then 0
    else if (s.die e).channels = 0 then (if e = d then 0x10 else 0)
    else if s.reservedBase e < off + n then 0x10 else 0
  | .ok (.window x) =>
    if g.node ≠ s.node then 0
    else (match (s.die d).quire with
      | some k => if s.windowSize k < x + n then 0x10 else 0
      | none => 0)
  | _ => 0

/-- Whether the stream of a channel has operations that have not completed. -/
def State.streamBusy (s : State) (q : QueueId) : Bool :=
  (s.source (srcOf q.die)).ops.any fun o => o.stream == dmaStream q

/-- Operations of the channel's stream, for a zero-length descriptor with GC (R265). -/
def State.streamOps (s : State) (q : QueueId) : List Nat :=
  ((s.source (srcOf q.die)).ops.filter fun o => o.stream == dmaStream q).map (·.id)

/-- Ends the start of a DMA descriptor: it waits for its operations, or fails (R80, R81). -/
def GAcc.startDma (a : GAcc) (q : QueueId) (p : Pos) : State :=
  match a.fault with
  | some (_, st) => (a.k.undoSome q.die).failAt q st p
  | none => a.k.s.updStarted q p fun e => { e with ops := a.ops, done := true }

/-! ## COPY (R262) -/

def cpLen (d : List Nat) : Nat := bits (qw d 6) 63 36
def cpRows (d : List Nat) : Nat := bits (qw d 6) 35 12
def cpC (d : List Nat) : Bool := bit (qw d 6) 9
def cpGC (d : List Nat) : Bool := bit (qw d 6) 8
def cpSrcStride (d : List Nat) : Nat := bits (qw d 7) 63 32
def cpDstStride (d : List Nat) : Nat := bits (qw d 7) 31 0

/-- The pieces of a row: no packet crosses a 4 KiB boundary of either side; space 2 is read in 4-byte loads. -/
def copyPieces (src dst : Nat) (words : Bool) : Nat → Nat → Nat → List (Nat × Nat)
  | 0, _, _ => []
  | fuel + 1, off, rem =>
    if rem = 0 then [] else
    let n := if words then min rem 4 else min rem (min (4096 - (src + off) % 4096) (4096 - (dst + off) % 4096))
    (off, n) :: copyPieces src dst words fuel (off + n) (rem - n)

/-- Validation of a COPY in the order of R265: sizes off their alignment are status 0x11 (R99). -/
def State.copyStatus (s : State) (q : QueueId) (d : List Nat) : Nat :=
  let src := qw d 4
  let dst := qw d 5
  let span (stride : Nat) : Nat := (cpRows d - 1) * stride + cpLen d
  let zero := cpLen d == 0 || cpRows d == 0
  pickStatus dmaOrder
    [ addrStatus src 4 [0, 1, 2], addrStatus dst 4 [0, 1, 3],
      if zero then 0 else s.extentStatus q.die src (span (cpSrcStride d)),
      if zero then 0 else s.extentStatus q.die dst (span (cpDstStride d)),
      if !zero && cpC d && !cpGC d && (gaddr dst).space == 3 then 0x14 else 0,
      if cpLen d % 4 != 0 || cpSrcStride d % 4 != 0 || cpDstStride d % 4 != 0 then 0x11 else 0,
      if (!zero && cpC d && !cpGC d && s.onOwnDie q.die dst) || (decide (1 < cpRows d) && decide (cpDstStride d < cpLen d))
        || ((gaddr dst).space == 3 && !s.groupRoot (bits (gaddr dst).off 43 32)) then 0x02 else 0 ]

/-- Reads a piece that lies on the issuing die, memory or objects; none when it lies elsewhere. -/
def State.ownRead (s : State) (d : DieId) (a n : Nat) : Option (State × Nat × List Byte) :=
  let g := gaddr a
  match g.place with
  | .ok (.obj e o) => if g.node = s.node ∧ e = d then some (s, 0, leBytes 4 ((s.die d).obj o)) else none
  | _ => (match s.ownPlace d a n with
    | some (.ok w) => some (s.readOwn d w n)
    | some (.error st) => some (s, st, [])
    | none => none)

/-- Whether a target is of window form. -/
def isWindow (target : Nat) : Bool := match (gaddr target).place with
  | .ok (.window _) => true
  | _ => false

/-- Whether a write on the issuing die itself waits for earlier operations of its stream: a global clasp for all of them, a clasp under a
window key for those under the key; it then goes out like one to another die, held at the source (R269, R270, log 141). -/
def State.ownHeld (s : State) (q : QueueId) (da : Nat) (c gc : Bool) : Bool :=
  s.streamBusy q && (gc || (c && isWindow da))

/-- Where a piece is written on the issuing die at once; none when it goes out as a packet. -/
def State.ownSink (s : State) (q : QueueId) (da n : Nat) (c gc : Bool) : Option (Except Nat Place) :=
  if s.ownHeld q da c gc then none else s.ownPlace q.die da n

/-- Moves one piece: read here or by a load, written here or by a store; `c` and `gc` mark the descriptor's last write. -/
def GAcc.piece (a : GAcc) (q : QueueId) (p : Pos) (sa da n : Nat) (c gc : Bool) : GAcc :=
  let own : Owner := .descriptor q p
  if a.fault.isSome then a
  else match a.k.s.ownRead q.die sa n with
    | some (s, st, bs) =>
      let a := { a with k := { a.k with s := s } }
      if st ≠ 0 then a.fail st
      else (match a.k.s.ownSink q da n c gc with
        | some (.error st) => a.fail st
        | some (.ok w) =>
          let (s, st) := a.k.s.writeOwn q.die w bs
          GAcc.noted { a with k := { a.k with s := s } } st
        | none => a.issue q.die { owner := own, stream := dmaStream q, target := da, op := 0x02, payload := bs, size := n,
                                  clasp := c, gclasp := gc })
    | none =>
      let i : Issue := { owner := own, stream := dmaStream q, target := sa, op := 0x01, size := n, clasp := c, gclasp := gc }
      (match a.k.s.ownSink q da n c gc with
        | some (.error st) => a.fail st
        | some (.ok w) => a.issue q.die { i with sink := .place w, clasp := false }
        | none => a.issue q.die { i with sink := .relay da })

/-- COPY (R262). A write of GC on the issuing die itself waits for the stream's earlier operations. -/
def execCopy (q : QueueId) (s : State) : Result :=
  s.onFront q 0x80 fun s d =>
    let p := (s.queue q).next
    let st := s.copyStatus q d
    if st ≠ 0 then s.failAt q st p
    else if cpLen d = 0 ∨ cpRows d = 0 then
      s.start q d p.after { startedOf p d true with ops := if cpGC d then s.streamOps q else [] }
    else if cpGC d ∧ s.onOwnDie q.die (qw d 4) ∧ s.onOwnDie q.die (qw d 5) ∧ s.streamBusy q then s
    else
      let s := s.start q d p.after (startedOf p d false)
      let words := (gaddr (qw d 4)).space == 2
      let all := (List.range (cpRows d)).flatMap fun i =>
        let sa := qw d 4 + i * cpSrcStride d
        let da := qw d 5 + i * cpDstStride d
        (copyPieces sa da words (cpLen d + 1) 0 (cpLen d)).map fun (o, n) => (sa + o, da + o, n)
      let a := all.zipIdx.foldl (fun (a : GAcc) ((sa, da, n), i) =>
        let last := decide (i + 1 = all.length)
        a.piece q p sa da n (last && cpC d && !cpGC d) (last && cpGC d)) { k := { s := s, st := 0, wrote := [] }, ops := [], fault := none }
      a.startDma q p

/-! ## ATOMIC (R263) -/

def atOp (d : List Nat) : Nat := bits (qw d 7) 63 60
def atWide (d : List Nat) : Bool := bit (qw d 7) 59
def atSigned (d : List Nat) : Bool := bit (qw d 7) 58
def atC (d : List Nat) : Bool := bit (qw d 7) 57
def atGC (d : List Nat) : Bool := bit (qw d 7) 56

/-- Packet operation of an ATOMIC: 0x03 to 0x07 atomics, 0x08 and 0x09 signals. -/
def atPacket (d : List Nat) : Nat := atOp d + 2

def atWidth (d : List Nat) : Nat := if atWide d then 8 else 4

/-- Validation of an ATOMIC (R265). -/
def State.atomicStatus (s : State) (q : QueueId) (d : List Nat) : Nat :=
  let signal := decide (6 ≤ atOp d)
  if atOp d = 0 ∨ 7 < atOp d ∨ (!signal && decide (1 < fSpace (qw d 7))) then 0x01
  else if signal then pickStatus dmaOrder [addrStatus (qw d 4) 4 [2]]
  else
    pickStatus dmaOrder
      [ addrStatus (qw d 4) (atWidth d) [0, 1], s.extentStatus q.die (qw d 4) (atWidth d),
        s.placeStatus q.die (fSram (qw d 7)) (fOff (qw d 7)) (atWidth d) (atWidth d) ]

/-- The operand bytes of an atomic, or the four of a signal. -/
def atPayload (d : List Nat) : List Byte :=
  if 6 ≤ atOp d then leBytes 4 (qw d 5)
  else leBytes (atWidth d) (qw d 5) ++ (if atOp d = 5 then leBytes (atWidth d) (qw d 6) else [])

/-- ATOMIC (R263): local at once, else one request whose reply brings the old value. -/
def execAtomic (q : QueueId) (s : State) : Result :=
  s.onFront q 0x81 fun s d =>
    let p := (s.queue q).next
    let st := s.atomicStatus q d
    let ends (s : State) (st : Nat) : State := if st = 0 then s.start q d p.after (startedOf p d true) else s.failAt q st p
    let local_ := s.onOwnDie q.die (qw d 4) || (match s.ownSink q (qw d 4) (atWidth d) (atC d) (atGC d) with
      | some _ => decide (atOp d < 6)
      | none => false)
    if st ≠ 0 then s.failAt q st p
    else if local_ then
      if atGC d ∧ s.streamBusy q then s
      else if 6 ≤ atOp d then
        (match (gaddr (qw d 4)).place with
          | .ok (.obj e o) =>
            let (s, st) := s.signalAt e o (atOp d == 7) (qw d 5 % 2 ^ 32) 0
            ends s st
          | _ => s)
      else (match s.ownPlace q.die (qw d 4) (atWidth d) with
        | some (.ok w) =>
          (match s.atomicAt q.die w (atPacket d) (atWide d) (atSigned d) (qw d 5) (qw d 6) with
            | (s, 0, old) =>
              let (s, st) := s.writeLocal q.die (fSram (qw d 7)) (fOff (qw d 7)) old
              ends s st
            | (s, st, _) => s.failAt q st p)
        | _ => s)
    else
      let s := s.start q d p.after (startedOf p d false)
      let a : GAcc := { k := { s := s, st := 0, wrote := [] }, ops := [], fault := none }
      let pay := atPayload d
      let a := a.issue q.die
        { owner := .descriptor q p, sink := if 6 ≤ atOp d then .nowhere else .memory (fSram (qw d 7)) (fOff (qw d 7)),
          stream := dmaStream q, target := qw d 4, op := atPacket d, wide := decide (atOp d < 6) && atWide d,
          signed := (atOp d == 2 || atOp d == 3) && atSigned d, clasp := atC d && !atGC d, gclasp := atGC d,
          payload := pay, size := pay.length }
      a.startDma q p

/-! ## REDUCE (R264) -/

def rdLen (d : List Nat) : Nat := bits (qw d 6) 63 36
def rdOp (d : List Nat) : Nat := bits (qw d 6) 35 32
def rdC (d : List Nat) : Bool := bit (qw d 6) 31
def rdGC (d : List Nat) : Bool := bit (qw d 6) 30
def rdAfx (d : List Nat) : Bool := rdOp d == 3 || rdOp d == 4
def rdBlock (d : List Nat) : Nat := if rdOp d = 3 then 2112 else 3136

/-- The packets of a REDUCE: offset and size of each. -/
def rdPieces (d : List Nat) : List (Nat × Nat) :=
  if rdAfx d then (List.range (rdLen d / rdBlock d)).map fun i => (i * rdBlock d, rdBlock d)
  else (split4k (qw d 5) (rdLen d)).map fun (a, n) => (a - qw d 5, n)

/-- What an open colophon forbids (R264). -/
def Ctx.reduceOk (x : Ctx) (d : List Nat) : Bool := match x.colophon with
  | none => true
  | some c => (!(rdOp d == 1 || rdOp d == 2) || c.mode == 2)
      && (!rdAfx d || (c.mode == 0 && c.wide == decide (rdOp d = 4)))

/-- Validation of a REDUCE (R264, R265). -/
def State.reduceStatus (s : State) (q : QueueId) (d : List Nat) : Nat :=
  let crosses := rdAfx d && isWindow (qw d 5) && (rdPieces d).any fun (o, n) => decide (4096 < (qw d 5 + o) % 4096 + n)
  if 1 < fSpace (qw d 4) ∨ rdOp d = 0 ∨ 6 < rdOp d then 0x01
  else pickStatus dmaOrder
    [ addrStatus (qw d 5) 64 [0, 1], s.extentStatus q.die (qw d 5) (rdLen d),
      s.placeStatus q.die (fSram (qw d 4)) (fOff (qw d 4)) (rdLen d) 64,
      if crosses || rdLen d % (if rdAfx d then rdBlock d else 64) != 0 then 0x11 else 0,
      if (rdLen d != 0 && rdC d && !rdGC d && s.onOwnDie q.die (qw d 5))
        || !((s.getCtx q.die q.ctx).reduceOk d) then 0x02 else 0 ]

/-- A reduction at a place of the issuing die, line by line, or a whole AFX block (R221, R255, R261). -/
def GAcc.reduceOwn (a : GAcc) (d : DieId) (w : Place) (op : Nat) (bs : List Byte) (rails : RailObs) : GAcc :=
  let back (s : State) (st : Nat) : GAcc := GAcc.noted { a with k := { a.k with s := s } } st
  match a.k.s.readOwn d w bs.length with
  | (s, 0, old) =>
    let (s, ok) := s.rails d rails
    if !ok then back s 0x31
    else if isAfx op then
      (match afxMerge (op == 0x0D) old bs with
        | none => back s 0x02
        | some new =>
          let (s, st) := s.writeOwn d w new
          back s st)
    else
      let (s, st) := s.writeOwn d w (((chunksOf 64 65 old).zip (chunksOf 64 65 bs)).flatMap fun (o, n) => reduceLine op o n)
      back s st
  | (s, st, _) => back s st

/-- Number of lines of 64 bytes whose rails CB compares in a packet on its own die. -/
def railsOf (rails : List RailObs) (i : Nat) : RailObs := rails.getD i .agree

/-- REDUCE (R264). -/
def execReduce (q : QueueId) (rails : List RailObs) (s : State) : Result :=
  s.onFront q 0x82 fun s d =>
    let p := (s.queue q).next
    let st := s.reduceStatus q d
    if st ≠ 0 then s.failAt q st p
    else if rdLen d = 0 then
      s.start q d p.after { startedOf p d true with ops := if rdGC d then s.streamOps q else [] }
    else if rdGC d ∧ s.onOwnDie q.die (qw d 5) ∧ s.streamBusy q then s
    else
      let s := s.start q d p.after (startedOf p d false)
      let op := rdOp d + 9
      let all := rdPieces d
      let a := all.zipIdx.foldl (fun (a : GAcc) ((o, n), i) =>
        let last := decide (i + 1 = all.length)
        if a.fault.isSome then a
        else match a.k.s.readLocal q.die (fSram (qw d 4)) (fOff (qw d 4) + o) n with
          | (s, 0, bs) =>
            let a := { a with k := { a.k with s := s } }
            (match s.ownSink q (qw d 5 + o) n (last && rdC d && !rdGC d) (last && rdGC d) with
              | some (.error st) => a.fail st
              | some (.ok w) =>
                if isAfx op then a.reduceOwn q.die w op bs (railsOf rails i)
                else ((chunksOf 64 65 bs).zipIdx).foldl (fun (a : GAcc) (l, j) =>
                  if a.fault.isSome then a
                  else a.reduceOwn q.die { w with off := w.off + 64 * j } op l (railsOf rails (o / 64 + j))) a
              | none => a.issue q.die { owner := .descriptor q p, stream := dmaStream q, target := qw d 5 + o, op := op,
                                        payload := bs, size := n, clasp := last && rdC d && !rdGC d, gclasp := last && rdGC d })
          | (s, st, _) => GAcc.fail { a with k := { a.k with s := s } } st)
        { k := { s := s, st := 0, wrote := [] }, ops := [], fault := none }
      a.startDma q p

end Sys2Proof.Machine
end

