-- ==== Sys2Proof/Machine/Save.lean ====
section
/-! DEFINITION. Save and restore of what an engine holds of a context (R76, R95 to R98, R115, R116, R282). -/

namespace Sys2Proof.Machine

/-- The bytes of a matrix engine's banks: FP32 or INT32 little-endian, bank 0 first. -/
def Mx.bankBytes (m : Mx) : List Byte :=
  (List.range 65536).flatMap (fun i => leBytes 4 (SMap.get 0 m.banks[0] i))
    ++ (List.range 65536).flatMap (fun i => leBytes 4 (SMap.get 0 m.banks[1] i))

/-- Stops a matrix engine at a boundary inside its tile: the accumulating bank holds the sums so far. How many of the tile's boundaries
it has reached is a matter of time, and open (R115, log 129). -/
def State.holdTile (s : State) (d : DieId) (e : Fin 4) (b : CtxId) : State :=
  match (s.die d).mx[e].runs with
  | [] => s
  | r :: _ =>
    if r.q.ctx ≠ b ∨ (s.getUnit d ⟨e.val, by omega⟩).parked then s
    else
      let ns := r.k :: r.boundaries
      let (i, s) := s.fresh ns.length
      let n := ns.getD i r.k
      if n = r.k then s
      else
        let folio := s.joined d (e.val / 2)
        let (s, st, rows) := s.panelCells r (r.at_ folio) n
        if st ≠ 0 then s.failRun d e r st
        else (s.fillBank d e folio (wShape r.w7) rows).setRun d e
          (some { r with k := n, acc := rows.map fun row => row.map fun c => (c.v, c.s) })

/-- Writes a unit's state to the save area of its context: both banks of a matrix engine, of both engines of a folio (R97, R110); else
open bytes (log 12). Answers the status. -/
def State.saveUnit (s : State) (d : DieId) (u : UnitId) (b : CtxId) : State × Nat :=
  let area := (s.getCtx d b).saveArea
  if h : u.val < 4 then
    let e : Fin 4 := ⟨u.val, h⟩
    let s := s.holdTile d e b
    let (s, st) := s.writeLocal d false (area + (saveExtent u).1) (s.die d).mx[e].bankBytes
    if s.joined d (e.val / 2) then
      let (s, st2) := s.writeLocal d false (area + (saveExtent u).1 + 0x80000) (s.die d).mx[higherOf e].bankBytes
      (s, firstStatus st st2)
    else (s, st)
  else
    let (bs, s) := s.freshBytes (saveExtent u).2
    s.writeLocal d false (area + (saveExtent u).1) bs

/-- Writes the status words of a unit's queues (R76). -/
def State.writeUnitWords (s : State) (d : DieId) (c : CtxId) (u : UnitId) : State :=
  (List.finRange 4).foldl (fun s k => s.writeStatusWord ⟨d, c, slotOf u k⟩ (s.queue ⟨d, c, slotOf u k⟩).head) s

/-- Whether a DMA channel still waits for replies of the packets of a context that it has sent (R282). -/
def State.repliesDue (s : State) (d : DieId) (u : UnitId) (c : CtxId) : Bool :=
  decide (10 ≤ u.val) && (s.source (srcOf d)).ops.any fun o => o.seq.isSome && (match o.owner with
    | .descriptor q _ => q.die == d && q.ctx == c && qUnit q == u
    | _ => false)

/-- ENGINE_SAVE_COMPLETE (R96, R98): the unit's state stands in the save area; the last save of a STOP completes it. A DMA channel waits
for its replies first (R282). A freeze that came meanwhile takes the end of the save as the stop FT (R62, R98). -/
def execEngineSaveComplete (d : DieId) (u : UnitId) (memError : Bool) (s : State) : Result :=
  match (s.getUnit d u).bound with
  | none => .next s
  | some b =>
    if !(s.getUnit d u).stopping ∨ s.repliesDue d u b then .next s
    else
      let (s, st) := s.saveUnit d u b
      let frozen := s.frozenDie d
      let s := s.updUnit d u fun y =>
        { y with bound := none, stopping := false, parked := false,
                 stopFt := if frozen then some (y.stopFt.getD (s.die d).ft) else y.stopFt }
      let s := s.emit d 0x07 1 u.val b.val (2 ^ 38)
      if memError ∨ st ≠ 0 then .next (s.faultCtx d b)
      else
        let s := (s.updCtx d b fun y => { y with saved := u :: y.saved, savesLeft := y.savesLeft.filter (· ≠ u) }).writeUnitWords d b u
        let x := s.getCtx d b
        match x.stopCmd with
        | some (c, seq) => if x.savesLeft.isEmpty then .next ((s.stopped d b).finish c seq 0 []) else .next s
        | none => .next s

/-- The banks of a matrix engine from 512 KiB. -/
def banksOf (bs : List Byte) : Vector (SMap Nat) 2 :=
  let words := (chunksOf 4 131073 bs).map leNat
  let bank (ws : List Nat) : SMap Nat := (ws.zipIdx.filter fun (v, _) => decide (v ≠ 0)).map fun (v, i) => (i, v)
  #v[bank (words.take 65536), bank (words.drop 65536)]

/-- A tile that a save interrupted takes its sums from the accumulating banks again (R97, R115). -/
def MmaRun.resume (r : MmaRun) (folio : Bool) (lower higher : Mx) : MmaRun :=
  let tm := tileM (wShape r.w7)
  { r with acc := r.acc.zipIdx.map fun (row, i) => row.zipIdx.map fun (c, j) =>
      let m := if folio ∧ 65536 / tm ≤ j then higher else lower
      let col := j % (65536 / tm)
      (SMap.get 0 m.banks[m.bank] ((col / 256 * tm + i) * 256 + col % 256), c.2) }

/-- Restores a matrix engine's banks from its save area: status. -/
def State.restoreMx (s : State) (d : DieId) (e : Fin 4) (slot : Nat) (b : CtxId) : State × Nat :=
  let (s, st, bs) := s.readLocal d false ((s.getCtx d b).saveArea + 0x80000 * slot) 0x80000
  if st ≠ 0 then (s, st) else (s.updMx d e fun m => { m with banks := banksOf bs }, 0)

/-- Restores a unit from the save area of a context: status. -/
def State.restoreUnit (s : State) (d : DieId) (u : UnitId) (b : CtxId) : State × Nat :=
  if h : u.val < 4 then
    let e : Fin 4 := ⟨u.val, h⟩
    let folio := s.joined d (e.val / 2)
    let (s, st) := s.restoreMx d e e.val b
    let (s, st) := if folio ∧ st = 0 then s.restoreMx d (higherOf e) (e.val + 1) b else (s, st)
    (s.updMx d e fun m => { m with runs := m.runs.map fun r =>
      if r.q.ctx = b ∧ 0 < r.k then r.resume folio m (s.die d).mx[higherOf e] else r }, st)
  else
    let (s, st, _) := s.readLocal d false ((s.getCtx d b).saveArea + (saveExtent u).1) (saveExtent u).2
    (s, st)

/-- ENGINE_RESTORE_COMPLETE (R96): the unit takes up the context again when no other context of higher priority has an
eligible descriptor for it. -/
def execEngineRestoreComplete (d : DieId) (u : UnitId) (memError : Bool) (s : State) : Result :=
  match s.restoreNext d u with
  | none => .next s
  | some b =>
    let higher : Bool := match s.nextCtx d u with
      | some c => decide ((s.getCtx d b).priority < (s.getCtx d c).priority)
      | none => false
    if higher ∨ 0 < s.inFlight d u ∨ (s.getUnit d u).stopping ∨ s.frozenDie d then .next s
    else
      let (s, st) := s.restoreUnit d u b
      if memError ∨ st ≠ 0 then .next (s.faultCtx d b)
      else
        let s := s.updCtx d b fun y => { y with saved := y.saved.filter (· ≠ u) }
        .next ((s.updUnit d u fun y => { y with bound := some b, lastCtx := b }).emit d 0x07 1 u.val b.val (2 ^ 39))

end Sys2Proof.Machine
end

