-- ==== Sys2Proof/Machine/Observe.lean ====
section
/-! DEFINITION. Health and retire suggestions (R484, R485); occupancy, trace settings, ribbons, OBS READ, and the post-mortem image
(R490 to R503). -/

namespace Sys2Proof.Machine

/-! ## Health (R484, R485) -/

/-- A component's score: 1000 at the full point, 0 at the zero point, linear between; the rounding is open (log 55). -/
def State.linear (s : State) (x full : Nat) : Nat × State :=
  if full ≤ x then (1000, s)
  else if x * 1000 % full = 0 then (x * 1000 / full, s)
  else
    let (k, s) := s.fresh 2
    (x * 1000 / full + k, s)

/-- Spares left of a kind, and how many there were at shipment: channels of each stack, lines of each comb, reserve folios. -/
def State.spareKinds (s : State) : List (Nat × Nat) :=
  let f := s.flash.field.getD FieldPart.empty
  let bad (d : DieId) (c : Nat) : Bool := s.vendor.badChannels.contains (68 * d.val + c) || f.channels.contains (d.val, c)
  let folios (xs : List (Nat × Bool)) : Nat := (xs.filter (·.2)).length
  (allDies.map fun d =>
    (([64, 65, 66, 67].filter fun c => !bad d c && !(s.die d).chanMap.contains (some c)).length, 4))
  ++ (s.combs.toList.map fun c => (2 - (c.lines.toList.filter (·.failed)).length, 2))
  ++ (if folios s.vendor.disabled = 0 then [] else [(folios s.disabled, folios s.vendor.disabled)])

/-- The worst margin of a line that an in-service slot is bound to, in 0.1 dB; 4 dB where there is none. -/
def State.worstMargin (s : State) : Int :=
  (allPorts.flatMap fun p => allSlots.filterMap fun k =>
    if (s.slot p k).st = .inService then (s.slot p k).line.map fun l => (s.line (combOf p) l).margin else none).foldl min 40

/-- The scores of the components in the table's order (R484). -/
def State.componentScores (s : State) (m : HealthObs) : List Nat × State :=
  let (a, s) := s.linear m.slack 50
  let (b, s) := s.linear (m.spine - 50) 200
  let (c, s) := s.linear (m.dram - 50) 200
  let (d, s) := s.linear s.worstMargin.toNat 40
  let (e, s) := s.linear (6000 - m.logRate) 3000
  let (f, s) := s.spareKinds.foldl (fun (x : Nat × State) k =>
    let (v, s) := x.2.linear (2 * k.1) k.2
    (min x.1 v, s)) (1000, s)
  let serve := s.gov.gens.toList.all id && !s.ctlLost 0 && !s.ctlLost 1
  ([a, b, c, d, e, f, if serve then 1000 else 0], s)

/-- The retire dwell in ns. -/
def State.dwell (s : State) : Nat := s.setting 0x5100 3 * 60000000000

/-- HEALTH_SCORE_COMPUTE (R484, R485). -/
def execHealthScoreCompute (m : HealthObs) (s : State) : Result :=
  if s.power.st = .off ∨ s.boot.stage ≠ 9 then .next s
  else
    let (xs, s) := s.componentScores m
    let score := xs.foldl Nat.min 1000
    let th := s.setting 0x5100 2
    let h := s.health
    let below := if score < th then some (h.belowSince.getD s.mono) else none
    let above := if th + 50 ≤ score then some (h.aboveSince.getD s.mono) else none
    let back : Bool := match above with
      | some t => h.state != 0 && decide (t + s.dwell ≤ s.mono)
      | none => false
    let s := { s with health := { score := score, state := if back then 0 else h.state, belowSince := below, aboveSince := above } }
    if h.state = 0 ∧ score < th then
      .next (State.raise { s with health := { s.health with state := 1 } } { code := 0x081B, unit := uModule, detail := score })
    else .next s

/-- RETIRE_DWELL_EXPIRY (R485): event 0x081C is the suggestion, and goes to the manager as every event of its severity (R457). -/
def execRetireDwellExpiry (s : State) : Result :=
  match s.health.belowSince with
  | none => .next s
  | some t =>
    if s.health.state = 1 ∧ t + s.dwell ≤ s.mono then
      .next (State.raise { s with health := { s.health with state := 2 } }
        { code := 0x081C, unit := uModule, detail := s.health.score })
    else .next s

/-- WATCH_RECORD_RECEIVE (R486): the member suggests again after a further dwell. -/
def execWatchRecordReceive (s : State) : Result :=
  if s.health.state = 2 then
    .next { s with health := { s.health with state := 1, belowSince := s.health.belowSince.map fun _ => s.mono } }
  else .next s

/-! ## Occupancy (R492) -/

/-- The bin of an occupancy num / den (R308). -/
def occBin (num den : Nat) : Nat :=
  if num = 0 ∨ den = 0 then 0 else if 16 * num ≤ den then 1 else if 8 * num ≤ den then 2 else if 4 * num ≤ den then 3
  else if 2 * num ≤ den then 4 else if 4 * num ≤ 3 * den then 5 else if num < den then 6 else 7

/-- Whether a histogram's unit exists on a die; the others stay zero. -/
def State.histLive (s : State) (d : DieId) (h : Nat) : Bool :=
  if h < 8 then !s.engineAbsent d ⟨h % 4, by omega⟩
  else if h < 12 then !s.engineAbsent d ⟨(h - 8) % 4, by omega⟩
  else if 34 ≤ h ∧ h < 102 then (s.die d).chanMap.contains (some (h - 34))
  else if 109 ≤ h then d.val == 2 else decide (h < 109)

/-- The occupancies that State holds: command queues, DMA requests, the inbound queue, unacknowledged packets. -/
def State.ownOccupancy (s : State) (d : DieId) (h : Nat) : Option (Nat × Nat) :=
  let x := s.die d
  if hh : 8 ≤ h ∧ h < 26 then
    let u : UnitId := ⟨h - 8, by omega⟩
    match x.unit[u].bound with
    | none => some (0, 1)
    | some c =>
      let qs := ((List.finRange 4).map fun k => x.ctx[c].q[slotOf u k]).filter (·.enabled)
      some (qs.foldl (fun (b : Nat × Nat) qu =>
        if b.1 * 2 ^ qu.log2 < x.backlog qu * b.2 then (x.backlog qu, 2 ^ qu.log2) else b) (0, 1))
  else if 26 ≤ h ∧ h < 34 then
    some (((s.source (srcOf d)).ops.filter fun o => decide (o.stream < 64) && o.stream % 8 == h - 26 && o.seq.isSome).length, 256)
  else if h = 108 then some (x.inbound.length, 32768)
  else if h = 109 then some (s.buffered, 67108864)
  else if h = 110 then some (sumNat (allChans.map fun c => (s.chan c).sent.length), 65536)
  else none

/-- Histograms of a die in the order of the record. -/
def histCount : Nat := 111

/-- Adds one sample of a die. -/
def State.sampleDie (s : State) (m : List OccObs) (bins : SMap Nat) (d : DieId) : SMap Nat :=
  (List.range histCount).foldl (fun b h =>
    if !s.histLive d h then b
    else
      let v := match s.ownOccupancy d h with
        | some v => v
        | none => match m.find? fun (o : OccObs) => o.die == d && o.hist == h with
          | some o => (o.num, o.den)
          | none => (0, 1)
      let k := 1024 * d.val + 8 * h + occBin v.1 v.2
      SMap.set 0 b k (SMap.get 0 b k + 1)) bins

/-- OCCUPANCY_SAMPLE: at FT multiples of the sample period, once, in every power state but Off; after a freeze, a gutter and a power entry
of the same instant (R50). Measures 111 to 114 are the feeder stall
cycles of MX0 to MX3 since the last sample. -/
def execOccupancySample (m : List OccObs) (s : State) : Result :=
  if !s.sampleDue ∨ !s.calm 3 then .next s
  else
    let bins := allDies.foldl (s.sampleDie m) s.occ.bins
    let stalls := (m.filter fun (o : OccObs) => decide (111 ≤ o.hist) && decide (o.hist < 115)
        && !s.engineAbsent o.die ⟨(o.hist - 111) % 4, by omega⟩).foldl (fun (b : SMap Nat) (o : OccObs) =>
      let k := 4 * o.die.val + (o.hist - 111)
      SMap.set 0 b k (SMap.get 0 b k + o.num)) s.occ.stalls
    .next { s with occ := { s.occ with bins := bins, stalls := stalls, samples := s.occ.samples + 1, sampledAt := some s.now } }

/-- OCCUPANCY_WINDOW_CLOSE: at FT multiples of the window. -/
def execOccupancyWindowClose (s : State) : Result :=
  let o := s.occ
  if s.power.st = .off ∨ o.window = 0 ∨ s.now % o.window ≠ 0 ∨ o.start = s.now then .next s
  else
    let rec_ (d : DieId) : OccRecord :=
      { start := o.start, stop := s.now, period := o.period, samples := o.samples,
        bins := (o.bins.filter fun e => e.1 / 1024 == d.val).map fun e => (e.1 % 1024, e.2),
        stalls := (List.range 4).map fun e => SMap.get 0 o.stalls (4 * d.val + e) }
    .next { s with occ := { o with start := s.now, samples := 0, bins := [], stalls := [], last := Vector.ofFn rec_ } }

/-! ## Observation commands (R490) -/

/-- An observation command of channel 0 in hand. While both control dies stand stopped, only OBS READ is served (R478, R502). -/
def State.obsCommand (s : State) (seq op : Nat) (run : HostCmd → State) : Result :=
  match s.ready 0 seq op with
  | none => .next s
  | some x =>
    let stuck := s.gov.ctl.toList.all (·.stopped)
    if s.boot.recovery then .next (s.finish 0 seq 0x01 [])
    else if !s.hostPath then .next (s.finish 0 seq 0x20 [])
    else if s.boot.stage < 5 ∨ (!s.governs ∧ !(stuck ∧ op = 0x24)) then .next s
    else .next (run x)

/-- A command that names a die: 0x10 above 19, 0x03 for an unassigned or isolated die. -/
def State.obsDie (s : State) (seq : Nat) (x : HostCmd) (run : DieId → State) : State :=
  if h : bits (x.qw 2) 52 48 < 20 then
    let d : DieId := ⟨bits (x.qw 2) 52 48, h⟩
    if (s.die d).quire.isNone ∨ (s.die d).presence ≠ .inService then s.finish 0 seq 0x03 [] else run d
  else s.finish 0 seq 0x10 []

/-- Writes out the pending drop counts of every class (R491, R498); the records' unit is firmware (log 51). -/
def TraceSt.flushAll (t : TraceSt) : TraceSt := (List.finRange 4).foldl (fun t k => t.flush k 23) t

/-- OBS SET (R490, R491): a change of the sample settings starts a new window (log 56); a window of 0 ns is refused with 0x02 (log 149). -/
def execObsSet (seq : Nat) (s : State) : Result :=
  s.obsCommand seq 0x20 fun x =>
    let k := bits (x.qw 2) 63 60
    if k = 1 then
      let p := bits (x.qw 3) 31 0
      let w := x.qw 4
      if p < 100 ∨ 1000000 < p ∨ p % 100 ≠ 0 ∨ w = 0 ∨ w % p ≠ 0 ∨ 65535 < w / p then s.finish 0 seq 0x02 []
      else State.finish { s with occ := { s.occ with period := p, window := w, start := s.now, samples := 0, bins := [], stalls := [] } }
        0 seq 0 []
    else if k = 2 then
      if !bit (x.qw 3) 0 then s.finish 0 seq 0x02 []
      else
        let s := allDies.foldl (fun s d => s.updDie d fun y =>
          { y with trace := { (if s.traceOn d then y.trace.flushAll else y.trace) with
              mode := bits (x.qw 3) 4 4, classes := bits (x.qw 3) 3 0, units := bits (x.qw 4) 23 0, on := bit (x.qw 2) d.val } }) s
        let s := allDies.foldl State.putHeader s
        s.finish 0 seq 0 []
    else s.finish 0 seq 0x02 []

/-! ## Ribbons (R497, R498) -/

def State.updTrace (s : State) (d : DieId) (f : TraceSt → TraceSt) : State := s.updDie d fun x => { x with trace := f x.trace }

def State.ribbon (s : State) (d : DieId) (r : Fin 4) : Ribbon := (s.die d).trace.ribbons[r]

def State.setRibbon (s : State) (d : DieId) (r : Fin 4) (b : Ribbon) : State :=
  s.updTrace d fun t => { t with ribbons := t.ribbons.set r b }

/-- RIBBON ARM: 0x0C unless idle, 0x03 while the die's trace is off, 0x02 for a value outside its encoding. -/
def execRibbonArm (seq : Nat) (s : State) : Result :=
  s.obsCommand seq 0x21 fun x =>
    s.obsDie seq x fun d =>
      let r : Fin 4 := ⟨bits (x.qw 2) 47 46 % 4, by omega⟩
      let kind := bits (x.qw 2) 45 42
      let post := bits (x.qw 4) 23 0
      if kind = 0 ∨ 6 < kind ∨ (kind = 5 ∧ bits (x.qw 3) 1 0 = 0) then s.finish 0 seq 0x02 []
      else if !s.traceOn d ∨ !(s.die d).trace.on then s.finish 0 seq 0x03 []
      else if s.traceCapacity < 2 * post then s.finish 0 seq 0x02 []
      else if (s.ribbon d r).st ≠ .idle then s.finish 0 seq 0x0C []
      else
        let b : Ribbon := { st := .armed, kind := kind, spread := bit (x.qw 2) 41, post := post, value := x.qw 3, fireFt := 0,
                            index := 0, left := post }
        ((s.setRibbon d r b).putHeader d).finish 0 seq 0 []

/-- RIBBON CLEAR: ribbons return to idle; once none is frozen, recording resumes after the drop-count records (R498). -/
def execRibbonClear (seq : Nat) (s : State) : Result :=
  s.obsCommand seq 0x22 fun x =>
    s.obsDie seq x fun d =>
      let s := s.updTrace d fun t =>
        let t := { t with ribbons := Vector.ofFn fun (k : Fin 4) => if bit (x.qw 2) k.val then Ribbon.reset else t.ribbons[k] }
        if t.frozen && t.ribbons.toList.all (fun b => b.st != .frozen) then TraceSt.flushAll { t with frozen := false } else t
      (s.putHeader d).finish 0 seq 0 []

/-- A ribbon fires: its record is written, then it counts what follows; event 0x0820; with spread set the trigger goes to every other
die of the quire. -/
def State.fire (s : State) (d : DieId) (r : Fin 4) (spread : Bool) : State :=
  let b := s.ribbon d r
  let x := s.die d
  let rec_ := x.stamp 0x04 0 23 0 (r.val * 2 ^ 38 + (if spread then 2 ^ 37 else 0) + b.post)
  let s := s.updTrace d (·.acceptRibbon rec_)
  let s := s.setRibbon d r { b with st := .fired, fireFt := x.ft, index := x.trace.written + x.trace.buf.length, left := b.post }
  let s := (s.putHeader d).raise { code := 0x0820, unit := uDie d, detail := r.val }
  match x.quire with
  | some k => if b.spread then s.sendAll (((s.diesOf k).filter (· ≠ d)).map fun e => .spread e r.val) else s
  | none => s

/-- Whether a trigger matches a ribbon (R497). -/
def State.matches_ (s : State) (d : DieId) (b : Ribbon) (t : Trigger) : Bool := match t with
  | .event code unit => b.kind == 1 && bits b.value 15 0 == code && (bits b.value 63 32 == 0xFFFFFFFF || bits b.value 63 32 == unit)
      && unitDie unit == some d
  | .halt status => b.kind == 2 && (bits b.value 7 0 == 0 || bits b.value 7 0 == status)
  | .tagStart tag => b.kind == 3 && bits b.value 31 0 == tag
  | .instant => b.kind == 4 && decide (b.value ≤ (s.die d).ft)
  | .flag n v => b.kind == 5 && ((n && bit b.value 0) || (v && bit b.value 1))
  | .once => b.kind == 6

/-- RIBBON_FIRE (R497). -/
def execRibbonFire (d : DieId) (r : Fin 4) (t : Trigger) (s : State) : Result :=
  let b := s.ribbon d r
  if b.st = .armed ∧ (s.die d).presence = .inService ∧ s.matches_ d b t then .next (s.fire d r false) else .next s

/-- RIBBON_SPREAD_ARRIVAL (R497). -/
def execRibbonSpreadArrival (d : DieId) (r : Fin 4) (s : State) : Result :=
  if (s.ribbon d r).st = .armed ∧ (s.die d).presence = .inService then .next (s.fire d r true) else .next s

/-- Drains a buffer into its region as far as the region takes it. -/
def State.drainAll : Nat → State → DieId → State
  | 0, s, _ => s
  | fuel + 1, s, d => if s.mayDrain d && !(s.die d).trace.buf.isEmpty then State.drainAll fuel (s.drainGroup d) d else s

/-- TRACE_FREEZE (R498): the buffer freezes, the drain empties it and stops; event 0x0821 with the records written. -/
def execTraceFreeze (d : DieId) (s : State) : Result :=
  let t := (s.die d).trace
  if t.frozen ∨ !t.reached then .next s
  else
    let s := s.updTrace d fun t =>
      { t with frozen := true, ribbons := t.ribbons.map fun (b : Ribbon) =>
          if b.st = .fired ∧ b.left = 0 then { b with st := .frozen } else b }
    let s := (State.drainAll 4097 s d).putHeader d
    .next (s.raise { code := 0x0821, unit := uDie d, detail := (s.die d).trace.written })

/-! ## OBS READ (R490, R502) -/

/-- OBS READ: the bytes of a region go out as PULL's do; with clear set the post-mortem image is released. -/
def execObsRead (seq : Nat) (s : State) : Result :=
  s.obsCommand seq 0x24 fun x =>
    s.obsDie seq x fun d =>
      let k := bits (x.qw 2) 63 60
      let off := x.qw 3
      let len := bits (x.qw 4) 47 0
      let size := s.setting (if k = 1 then 0x6010 else 0x6020) 1 * mib
      if (k ≠ 1 ∧ k ≠ 2) ∨ off % 4 ≠ 0 ∨ len % 4 ≠ 0 then s.finish 0 seq 0x02 []
      else if size = 0 ∨ size < off + len ∨ (s.die d).channels = 0 then s.finish 0 seq 0x10 []
      else
        let runs : List (Place × Nat) := [(⟨d, false, (s.region d (k + 2)).1 + off⟩, len)]
        let s := s.correctRuns runs
        match badPlaces s runs with
        | p :: ps =>
          let s := (p :: ps).foldl (fun (s : State) w => (s.memError w).regionError d (k + 2)) s
          s.finish 0 seq 0x12 []
        | [] =>
          let data := (chunksOf 8192 (len / 8192 + 1) (readRuns s runs)).zipIdx.map fun (c, i) => (8192 * i, c)
          let s := s.updChan 0 (·.updCmd seq fun y => { y with started := true, data := data })
          let s := if k = 2 ∧ bit (x.qw 2) 47 ∧ !s.pm.any (·.writing) then { s with pm := none } else s
          s.commandProgress 0 seq

/-! ## The post-mortem image (R501 to R503) -/

/-- Starts an image with every quire frozen. -/
def State.startImage (s : State) (cause : Option Event) (cmd : Option Nat) : State :=
  { s with pm := some { cause := cause, ft := s.now, later := 0, writing := true, cmd := cmd },
           frz := if s.frz.cut.isSome then s.frz else { s.frz with pending := insertFt s.now s.frz.pending } }

/-- POST_MORTEM: on command, or when event 0x0812 or 0x0814 was raised. A later fatal event is counted; a command that finds an image
leaves it, and its status is open (log 57). -/
def execPostMortem (by_ : PmCause) (s : State) : Result :=
  match by_ with
  | .command seq => s.obsCommand seq 0x25 fun _ =>
      match s.pm with
      | some p =>
        if p.writing then s
        else
          let (st, s) := s.freshStatus
          s.finish 0 seq st []
      | none => (s.startImage none (some seq)).begun seq
  | .fatal code =>
    if code ≠ 0x0812 ∧ code ≠ 0x0814 then .next s
    else match s.log.recs.reverse.find? fun e => e.code == code && !e.old with
      | none => .next s
      | some e => match s.pm with
        | some p => .next { s with pm := some { p with later := p.later + 1 } }
        | none => .next (s.startImage (some e) none)

/-- Section 7 of a context: a save of its engines, the matrix engines' banks at their places in the layout of R97. -/
def State.pmSave (s : State) (d : DieId) (b : CtxId) : List Byte × State :=
  let owner (e : Fin 4) : Option CtxId :=
    let u : Nat := if s.joined d (e.val / 2) then e.val / 2 * 2 else e.val
    if h : u < 18 then (s.getUnit d ⟨u, h⟩).bound else none
  let (bs, s) := (List.finRange 4).foldl (fun (x : List Byte × State) e =>
    if owner e = some b then (x.1 ++ (x.2.die d).mx[e].bankBytes, x.2)
    else
      let (ys, s) := x.2.freshBytes 0x80000
      (x.1 ++ ys, s)) (([] : List Byte), s)
  let (rest, s) := s.freshBytes (4 * mib - 0x200000)
  (bs ++ rest, s)

/-- An image's sections in order: magic, log, trace buffer, objects and matrix banks as stated; what else a section holds is open
(log 58). -/
def State.pmSections (s : State) (d : DieId) : List Byte × State :=
  let pad (n : Nat) (bs : List Byte) : List Byte := (bs ++ List.replicate n (0 : Byte)).take n
  let x := s.die d
  let (header, s) := s.freshBytes (65536 - 4)
  let (tables, s) := s.freshBytes (65536 + 262144)
  let (saves, s) := (List.finRange 8).foldl (fun (x : List Byte × State) b =>
    let (ys, s) := x.2.pmSave d b
    (x.1 ++ ys, s)) (([] : List Byte), s)
  let (rest, s) := s.freshBytes (8 * mib)
  ([0x50#8, 0x4D#8, 0x52#8, 0x54#8] ++ header
    ++ pad 262144 (s.log.recs.flatMap Event.bytes) ++ pad 262144 (x.trace.buf.flatMap TraceRec.bytes)
    ++ (List.range 4096).flatMap (fun o => leBytes 4 (x.obj o)) ++ tables ++ saves ++ rest, s)

/-- Writes the image of a die into its region, cut at the region's end. -/
def State.writeImage (s : State) (d : DieId) : State :=
  if (s.die d).presence ≠ .inService ∨ (s.die d).channels = 0 then s
  else
    let (bs, s) := s.pmSections d
    s.updDie d fun x => x.put false (s.region d 4).1 (bs.take (s.setting 0x6020 1 * mib))

/-- POST_MORTEM_IMAGE_WRITTEN: event 0x081E; a command's image ends its freeze. -/
def execPostMortemImageWritten (s : State) : Result :=
  match s.pm, s.frz.cut with
  | some p, some c =>
    if !p.writing ∨ !c.reported then .next s
    else
      let s := allDies.foldl State.writeImage s
      let s := { s with pm := some { p with writing := false } }
      let s := s.govEvent 0x081E (match p.cause with
        | some e => e.code
        | none => 0)
      match p.cmd with
      | none => .next s
      | some seq =>
        let s := s.finish 0 seq 0 []
        .next (if p.ft ≤ c.ft ∧ !c.rollback then s.thaw c else s)
  | _, _ => .next s

end Sys2Proof.Machine
end

