-- ==== Sys2Proof/Machine/Dump.lean ====
section
/-! DEFINITION. Named tensor dumps (R499, R500). -/

namespace Sys2Proof.Machine

/-- DUMP SELECT (R490, R499, R500): an entry counts from 0 at its selection. -/
def execDumpSelect (seq : Nat) (s : State) : Result :=
  s.obsCommand seq 0x23 fun x =>
    s.obsDie seq x fun d =>
      let k : Fin 16 := ⟨bits (x.qw 2) 47 44 % 16, by omega⟩
      let tag := bits (x.qw 3) 31 0
      let space := bits (x.qw 4) 47 44
      let off := bits (x.qw 4) 43 0
      let len := x.qw 5
      let put (e : Option DumpEntry) : State :=
        (s.updTrace d fun t => { t with dumps := t.dumps.set k e }).finish 0 seq 0 []
      if tag = 0 ∨ 1 < space ∨ off % 64 ≠ 0 ∨ len % 64 ≠ 0 then s.finish 0 seq 0x02 []
      else if !bit (x.qw 2) 43 then put none
      else if (if space = 1 then sramSize else s.localSize d) < off + len then s.finish 0 seq 0x10 []
      else put (some { tag := tag, step := bits (x.qw 3) 63 32, sram := space == 1, off := off, len := len, count := 0, due := none })

/-! ## What is dumped (R500) -/

/-- What a descriptor's dump holds: nothing, a tensor whose descriptor stands at a local place, or rows read at global addresses. -/
inductive Dumped where
  | nothing
  | tensor (sram : Bool) (off : Nat)
  | rows (addrs : List Nat) (len : Nat)
  deriving DecidableEq, Repr

/-- Tensor n of a set. -/
def setTensor (w n : Nat) : Dumped := .tensor (fSram w) (fOff w + 64 * n)

/-- The dumped tensor by opcode; nothing under R94. -/
def dumpedOf (d : List Nat) : Dumped :=
  let op := dOp d
  if op = 0x10 then setTensor (qw d 6) 0
  else if op = 0x30 then (if vpOut d = 0 ∨ vpCount d = 0 then .nothing else setTensor (qw d 5) (vpIn d))
  else if op = 0x60 then (if gaCount d = 0 ∨ (!gaFlat d && gaRpp d == 0) then .nothing else setTensor (qw d 5) 1)
  else if op = 0x70 then setTensor (qw d 5) 0
  else if op = 0x50 then (if cbIn d = 0 then .nothing else setTensor (qw d 4) (cbIn d))
  else if 0x58 ≤ op ∧ op ≤ 0x5C then setTensor (qw d 5) 1
  else if op = 0x62 then (if exCount d = 0 ∨ exK d = 0 then .nothing else setTensor (qw d 5) 2)
  else if op = 0x64 then (if exCount d = 0 ∨ exK d = 0 then .nothing else setTensor (qw d 5) 3)
  else if op = 0x80 then
    (if cpLen d = 0 ∨ cpRows d = 0 then .nothing
     else .rows ((List.range (cpRows d)).map fun i => qw d 4 + i * cpSrcStride d) (cpLen d))
  else .nothing

/-- The elements of a tensor packed densely in logical order, dimension 0 innermost, row by row in its format's groups. -/
def State.dense (s : State) (d : DieId) (t : Tensor) : State × List Byte :=
  (List.range t.rowCount).foldl (fun ((s : State), (bs : List Byte)) n =>
    let (s, _, ws) := s.rowCodes d t (t.rowCoords n)
    (s, bs ++ packRow t.format ws)) (s, [])

/-- Bytes at a global address as they stand; of what lies on another module or moves in another form they are open (log 59). -/
def State.rowAt (s : State) (d : DieId) (a n : Nat) : State × List Byte :=
  match s.ownPlace d a n with
  | some (.ok w) => (s, slice ((s.die w.die).mem w.sram) w.off n)
  | _ =>
    let (bs, s) := s.freshBytes n
    (s, bs)

/-- What a completed descriptor dumps: the 64 bytes of the tensor descriptor and the data; none for an empty record. -/
def State.dumpData (s : State) (q : QueueId) (d : List Nat) : State × Option (List Byte × List Byte) :=
  if dOp d = 0x82 then
    if rdLen d = 0 then (s, none)
    else (s, some (List.replicate 64 (0 : Byte), s.peek q.die (fSram (qw d 4)) (fOff (qw d 4)) (rdLen d)))
  else match dumpedOf d with
    | .nothing => (s, none)
    | .rows addrs len =>
      let (s, bs) := addrs.foldl (fun ((s : State), (bs : List Byte)) a =>
        let (s, b) := s.rowAt q.die a len
        (s, bs ++ b)) (s, [])
      (s, some (List.replicate 64 (0 : Byte), bs))
    | .tensor sram off =>
      let raw := s.peek q.die sram off 64
      let t := (parseTensor raw).1
      let others := if dOp d = 0x10 then [qw d 4, qw d 5] else []
      let idle := others.any fun w => (parseTensor (s.peek q.die (fSram w) (fOff w) 64)).1.empty
      if t.empty || idle then (s, none)
      else
        let (s, bs) := s.dense q.die t
        (s, some (raw, bs))

/-- The 64 bytes of a dump record (R500). -/
def dumpRecord (q : QueueId) (e : DumpEntry) (op status ft written total head : Nat) (empty truncated : Bool) : List Byte :=
  let b := [0x44#8, 0x55#8, 0x4D#8, 0x50#8] ++ leBytes 4 e.tag ++ leBytes 4 e.step ++ leBytes 1 q.die.val ++
    leBytes 1 (q.ctx.val * 32 + qNum q * 8) ++ leBytes 1 op ++ leBytes 1 status ++ leBytes 8 ft ++ leBytes 8 written ++
    leBytes 8 total ++ leBytes 2 head ++ leBytes 1 ((if empty then 2 else 0) + (if truncated then 1 else 0)) ++
    List.replicate 17 (0 : Byte)
  b ++ leBytes 4 (crc32c b)

/-- Writes one dump: the record, then what fits of tensor descriptor and data; the entry is spent. A truncated record raises event
0x0822. -/
def State.putDump (s : State) (q : QueueId) (k : Fin 16) (e : DumpEntry) (p : Pos) (op status : Nat)
    (data : Option (List Byte × List Byte)) : State :=
  let body := match data with
    | some (t, bs) => t ++ bs
    | none => []
  let total := match data with
    | some (_, bs) => bs.length
    | none => 0
  let room := e.len - 64
  let truncated := decide (room < body.length) || decide (e.len = 64)
  let written := min total (room - 64)
  let head := (s.queue q).headAt p
  let r := dumpRecord q e op status (s.die q.die).ft written total head (data.isNone && status == 0) truncated
  let s := if e.len = 0 then s else (s.writeLocal q.die e.sram e.off (r ++ body.take room)).1
  let s := s.emit q.die 0x0B 1 (qUnit q).val q.ctx.val (e.tag % 2 ^ 32 * 2 ^ 8)
  let s := s.updTrace q.die fun t => { t with dumps := t.dumps.set k none }
  if e.len ≠ 0 ∧ truncated then s.raise { code := 0x0822, unit := uDie q.die, ctx := some q.ctx.val, detail := e.tag } else s

/-- Whether the oldest started descriptor has completed but for its dumps. -/
def State.dumpReady (s : State) (q : QueueId) (e : Started) : Bool :=
  e.done && e.ops.all (fun id => !((s.source (srcOf q.die)).ops.any (·.id == id))) && !e.collective
    && (e.cancelled || e.status == 0) && (s.queue q).hold.isNone

/-- TENSOR_DUMP (R499, R500): the descriptor has completed and not retired, has failed, or was cancelled. -/
def execTensorDump (q : QueueId) (entry : Fin 16) (s : State) : Result :=
  match (s.die q.die).trace.dumps[entry] with
  | none => .next s
  | some e => match e.due with
    | none => .next s
    | some (q', p) =>
      if q' ≠ q ∨ s.frozenDie q.die ∨ !s.running then .next s
      else
        let qu := s.queue q
        if qu.status ≠ 0 ∧ qu.haltPos = some p then
          let (sram, off) := qu.placeOf p
          .next (s.putDump q entry e p (dOp (quads (s.peek q.die sram off 64))) qu.status none)
        else match qu.started with
          | x :: _ =>
            if x.pos = p ∧ s.dumpReady q x then
              let (s, data) := if x.cancelled then (s, none) else s.dumpData q x.qws
              .next (s.putDump q entry e p (dOp x.qws) (if x.cancelled then 0x0B else 0) data)
            else .next s
          | [] => .next s

end Sys2Proof.Machine
end

