-- ==== Sys2Proof/Machine/Tap.lean ====
section
/-! DEFINITION. The test access port: boundary scan, die test access, the test unlock (R504 to R506). -/

namespace Sys2Proof.Machine

/-- A change of the test access port, which the input powers in every power state (R504). -/
def State.onTap (s : State) (f : TapSt → TapSt) : Result :=
  if s.power.supply = .absent then .next s else .next { s with tap := f s.tap }

/-- TAP_RESET: IDCODE is selected. -/
def execTapReset (s : State) : Result := s.onTap fun t => { t with ir := 0x03, bypass := false, chain := none }

/-- What the boundary register captures: the contacts' levels in cells 0, 3 and 4 to 11, what drives CANH and CANL in 1 and 2. -/
def TapSt.capture (t : TapSt) (levels : Nat) : Nat := (levels % 4096 / 8 * 8) + levels % 2 + t.boundary / 2 % 4 * 2

/-- EXTEST: captures the contacts, then drives from what is shifted in. CAN FD management is disconnected (R489). -/
def execExtest (pins : TapPins) (s : State) : Result :=
  s.onTap fun t => { t with ir := 0x00, captured := t.capture pins.levels, boundary := pins.shiftIn % 4096, chain := none }

/-- SAMPLE/PRELOAD. -/
def execSamplePreload (pins : TapPins) (s : State) : Result :=
  s.onTap fun t => { t with ir := 0x02, captured := t.capture pins.levels, boundary := pins.shiftIn % 4096, chain := none }

/-- The 32 bits of IDCODE: version, part number 0x2080, manufacturer 0x1D9, 1. -/
def State.idcode (s : State) : Nat := s.vendor.revision % 16 * 2 ^ 28 + 0x2080 * 2 ^ 12 + 0x1D9 * 2 + 1

/-- IDCODE: selects the identification register. -/
def execIdcode (s : State) : Result := s.onTap fun t => { t with ir := 0x03, captured := s.idcode, chain := none }

/-- CLAMP: outputs held from the boundary register, bypass selected. -/
def execClamp (s : State) : Result := s.onTap fun t => { t with ir := 0x04, bypass := false, chain := none }

/-- HIGHZ: the transceiver in standby, recessive; bypass selected. -/
def execHighz (s : State) : Result := s.onTap fun t => { t with ir := 0x05, bypass := false, chain := none }

/-- Instructions of R504 other than BYPASS; all others act as BYPASS. -/
def tapOpcodes : List Nat := [0x00, 0x02, 0x03, 0x04, 0x05, 0x10, 0x11, 0x12]

/-- BYPASS, or a reserved instruction: the bypass bit takes what is shifted in. -/
def execBypass (opcode tdi : Nat) (s : State) : Result :=
  if opcode ∈ tapOpcodes ∨ 255 < opcode then .next s
  else s.onTap fun t => { t with ir := opcode, bypass := decide (tdi % 2 = 1), chain := none }

/-- DIE_SELECT: bits 51 to 63 are 0 (R505). -/
def execDieSelect (mask : Word) (s : State) : Result :=
  s.onTap fun t => { t with ir := 0x10, select := BitVec.ofNat 64 (mask.toNat % 2 ^ 51), chain := none }

/-- The compute die that a select bit reaches: its own, or its stack's. -/
def selectDie (k : Nat) : Option DieId :=
  if 2 ≤ k ∧ k < 22 then some ⟨(k - 2) % 20, by omega⟩ else if 22 ≤ k ∧ k < 42 then some ⟨(k - 22) % 20, by omega⟩ else none

/-- DIE_ACCESS (R505): chains the selected dies, but for those held in reset; BYPASS outside Run and Idle, and until an unlock. The
configuration record's vendor part exists (log 5). -/
def execDieAccess (held : List Nat) (s : State) : Result :=
  let open_ : Bool := (s.power.st == .run || s.power.st == .idle) && s.sec.unlocked
  let dies := (List.range 51).filter fun k => s.tap.select.getLsbD k && !held.contains k && (match selectDie k with
    | some d => (s.die d).presence != .resetting
    | none => true)
  s.onTap fun t => { t with ir := 0x11, bypass := false, chain := if open_ then some dies else none }

/-- TEST_UNLOCK (R506): captures a challenge; an update verifies the signature over challenge and serial number. The unlock holds until
the next full boot, and the identity key is unavailable with it. It needs boot step 2 done and a lease holder that works (log 159). -/
def execTestUnlock (phase : UnlockPhase) (s : State) : Result :=
  if s.power.supply = .absent then .next s
  else
    let s := { s with tap := { s.tap with ir := 0x12, chain := none } }
    if s.power.st = .off ∨ s.boot.stage < 2 ∨ s.ctlLost s.holder then .next s
    else match phase with
      | .capture =>
        let (c, s) := s.freshBytes 32
        .next { s with sec := { s.sec with challenge := some c } }
      | .update r v => match s.sec.challenge with
        | none => .next s
        | some c =>
          let s := { s with sec := { s.sec with challenge := none } }
          if sm2Verify s.rom.unlockId s.vendor.vendorKey (c ++ s.vendor.serial) r v then
            .next (State.govEvent { s with sec := { s.sec with unlocked := true },
                                           flash := { s.flash with unlocks := s.flash.unlocks + 1 } } 0x0907 0)
          else .next (s.govEvent 0x0908 0)

end Sys2Proof.Machine
end

