-- ==== Sys2Proof/Machine/Thermal.lean ====
section
/-! DEFINITION. Sensors, throttling, and the temperatures of the stacks (R240 to R243, R440, R441). -/

namespace Sys2Proof.Machine

/-- Readings outside the range, or beyond 10 °C from the neighbours' median (R440), in 0.1 °C. -/
def outOfRange (r : Int) : Bool := decide (r < -200) || decide (1500 < r)

def strays (r median : Int) : Bool := decide (100 < (r - median).natAbs)

/-- The unit of a sensor's die: 0–19 compute, 20–21 control, 22–29 optical edge, 30 host edge. -/
def sensorUnit (die : Nat) : Nat :=
  if h : die < 20 then uDie ⟨die, h⟩ else if die = 20 then uCtl 0 else if die = 21 then uCtl 1
  else if die < 30 then uEdge (die - 22) else uHost

/-- One sensor's reading: excluded when out of range, or at its tenth consecutive stray reading, with event 0x070B. -/
def State.readSensor (s : State) (die site : Nat) (r median : Int) : State :=
  let k := 64 * die + site
  if k ∈ s.power.excluded then s
  else
    let n := if strays r median then SMap.get 0 s.power.strikes k + 1 else 0
    let s := { s with power := { s.power with strikes := SMap.set 0 s.power.strikes k n } }
    if outOfRange r ∨ 10 ≤ n then
      State.raise { s with power := { s.power with excluded := s.power.excluded ++ [k] } }
        { code := 0x070B, unit := sensorUnit die }
    else s

/-- The highest reading of a die's sensors that are not excluded (R440). -/
def State.hotSpot (s : State) (m : SensorObs) : Option Int :=
  (m.readings.zipIdx.filter fun e => decide (64 * m.die + e.2 ∉ s.power.excluded)).foldl (fun h e => match h with
    | none => some e.1.1
    | some x => some (max x e.1.1)) none

/-- Whether a control die reads out a die's sensors: for a compute die the one that serves it, for a control die itself, for an edge
die the one that governs (R30, log 127). -/
def State.readsOut (s : State) (die : Nat) : Bool :=
  if h : die < 20 then (s.server ⟨die, h⟩).isSome
  else if die = 20 then !s.ctlLost 0 else if die = 21 then !s.ctlLost 1 else s.governs

/-- Takes in the sensors of one die. -/
def State.readDie (s : State) (m : SensorObs) : State :=
  if !s.readsOut m.die then s else
  let s := m.readings.zipIdx.foldl (fun s (e : (Int × Int) × Nat) => s.readSensor m.die e.2 e.1.1 e.1.2) s
  if h : m.die < 20 then
    match s.hotSpot m with
    | some t => { s with power := { s.power with hot := s.power.hot.set m.die t } }
    | none => s
  else s

/-- The module's hottest compute-die hot spot, and the die (R441). -/
def State.hottest (s : State) : Int × DieId :=
  allDies.foldl (fun b d => if b.1 < s.power.hot[d] then (s.power.hot[d], d) else b) (s.power.hot[(0 : Fin 20)], 0)

/-- Throttling starts at 98.0 °C: the limit falls to the average power, rounded down to 10 W, less one step; below 95.0 °C the
restore interval runs (R441). It governs from boot step 8 onward (R442). -/
def State.thermalCheck (s : State) : State :=
  let (h, d) := s.hottest
  let s := { s with power := { s.power with coolSince := if h < 950 then some (s.power.coolSince.getD s.mono) else none } }
  if 980 ≤ h ∧ !s.power.throttling ∧ 8 ≤ s.boot.stage then
    let s := { s with power := { s.power with
      throttling := true, stepAt := s.mono, thermal := max 1920 (s.power.average / 10 * 10 - 480) } }
    s.raise { code := 0x0703, unit := uDie d }
  else s

/-- DIE_SENSOR_READING (R440 to R442): a hot spot at 105.0 °C enters the critical shutdown path. A die with fewer than 48 valid
sensors resets by its own command (R472). -/
def execDieSensorReading (m : List SensorObs) (s : State) : Result :=
  if s.power.st = .off ∨ s.boot.stage = 0 then .next s
  else
    let s := m.foldl State.readDie s
    let (h, d) := s.hottest
    .next (if 1050 ≤ h then s.critical 1 (uDie d) else s.thermalCheck)

/-- THERMAL_LIMIT_STEP (R441): every 1 ms while H stays at or above 98.0 °C, down to the floor. -/
def execThermalLimitStep (s : State) : Result :=
  if s.power.throttling ∧ 980 ≤ s.hottest.1 ∧ s.power.stepAt + 1000000 ≤ s.mono then
    .next { s with power := { s.power with stepAt := s.mono, thermal := max 1920 (s.power.thermal - 480) } }
  else .next s

/-- THERMAL_LIMIT_RESTORE (R441): after 10 ms below 95.0 °C, one step every 10 ms; at 9,600 W throttling ends. -/
def execThermalLimitRestore (s : State) : Result :=
  match s.power.coolSince with
  | none => .next s
  | some t =>
    if s.power.throttling ∧ max t s.power.stepAt + 10000000 ≤ s.mono then
      let limit := min 9600 (s.power.thermal + 480)
      let s := { s with power := { s.power with stepAt := s.mono, thermal := limit, throttling := decide (limit < 9600) } }
      .next (if limit = 9600 then s.govEvent 0x0704 0 else s)
    else .next s

/-- STACK_TEMPERATURE_READING (R240 to R243): above 95.0 °C the critical shutdown path is entered. -/
def execStackTemperatureReading (d : DieId) (tenths : Int) (s : State) : Result :=
  if s.power.st = .off then .next s else
  let x := s.die d
  let band := hysteresis [850, 900] x.band tenths
  let step := hysteresis [900, 920, 940] x.step tenths
  let s := s.updDie d fun x => { x.reside s.mono with temp := tenths, band := band, step := step }
  let s := if band ≠ x.band then s.raise { code := 0x0308, unit := uStack d } else s
  let s := if step ≠ x.step then s.raise { code := 0x0309, unit := uStack d } else s
  .next (if 950 < tenths then (s.raise { code := 0x030A, unit := uStack d }).critical 2 (uStack d) else s)

end Sys2Proof.Machine
end

