-- ==== Sys2Proof/Machine/Transport.lean ====
section
/-! DEFINITION. The host transport: the network layer, channels, sequences and acknowledgement, resynchronisation, and the commands that
move data (R370, R372 to R390). -/

namespace Sys2Proof.Machine

/-! ## The link and the network layer (R370, R372) -/

/-- HOST_LINK_UP: from step 5, and in recovery. -/
def execHostLinkUp (s : State) : Result :=
  if s.host.linkUp ∨ !(s.boot.recovery || decide (5 ≤ s.boot.stage)) then .next s
  else .next (State.raise { s with host := { s.host with linkUp := true } } { code := 0x0521, unit := uHost })

/-- HOST_LINK_DOWN: no channel closes. -/
def execHostLinkDown (s : State) : Result :=
  if !s.host.linkUp then .next s
  else .next (State.raise { s with host := { s.host with linkUp := false } } { code := 0x0522, unit := uHost })

/-- ICMPV6_REQUEST: an echo request to the module's address, or a solicitation of it. -/
def execIcmpv6Request (p : Icmp) (s : State) : Result :=
  if !s.host.linkUp ∨ !p.plain then .next s
  else if p.type = 128 ∧ p.dstAddr = s.hostAddr then .next (s.send (.icmp 129 (s.setting 0x1400 3) s.hostAddr p.srcAddr 0 p.data))
  else if p.type = 135 ∧ p.target = s.hostAddr then .next (s.send (.icmp 136 (s.setting 0x1400 3) s.hostAddr p.srcAddr s.hostAddr []))
  else .next s

/-- A datagram that reaches a row: addressed to the module, whole, of this type, its CRC right. The rest is discarded without
acknowledgement (R372, R373). -/
def State.hostIn (s : State) (k : HostPacket) (types : List Nat) : Bool :=
  s.host.linkUp && (s.boot.recovery || decide (5 ≤ s.boot.stage)) && k.plain && k.udpOk && k.dstAddr == s.hostAddr
    && k.dstPort == s.setting 0x1400 2 && k.version == 1 && types.contains k.type && decide (k.payload.length ≤ 8224)
    && k.crc == hostCrc k

/-! ## Integrity and binding (R376, R384) -/

/-- A packet whose tag is missing or wrong: notice 0x41, counted, event 0x0A04 at most once per ms. -/
def State.refuseAuth (s : State) (k : HostPacket) : State :=
  let s := (s.notice k 0x41).countHost k.channel 5
  let told : Bool := match (s.chan k.channel).authAt with
    | some t => decide (s.mono < t + 1000000)
    | none => false
  if told then s else (s.updChan k.channel fun x => { x with authAt := some s.mono }).hostEvent k.channel 0x0A04

/-- Whether a packet passes R384 under a key. -/
def State.authentic (s : State) (k : HostPacket) (key : Nat) : Bool :=
  !s.hmacOn k.channel || (k.tagged && k.hmac == hostTag key k)

/-- A packet from another address or port, or of another session. -/
def State.refuseAddr (s : State) (k : HostPacket) : State := (s.countHost k.channel 4).hostEvent k.channel 0x0A05

def Channel.bound (x : Channel) (k : HostPacket) : Bool :=
  x.addr == k.srcAddr && x.port == k.srcPort && x.session == k.session

/-! ## Acknowledgement (R375, R378) -/

/-- Whether acknowledgement fields name a sent sequence: below the cumulative one, or by the gap map. -/
def ackNames (ack gap n : Nat) : Bool :=
  decide ((n + 2 ^ 32 - ack) % 2 ^ 32 ≥ 2 ^ 31)
    || (decide (1 ≤ (n + 2 ^ 32 - ack) % 2 ^ 32) && decide ((n + 2 ^ 32 - ack) % 2 ^ 32 ≤ 64)
        && bit gap ((n + 2 ^ 32 - ack) % 2 ^ 32 - 1))

/-- A closing channel closes once every accepted command has completed and every completion has been acknowledged. -/
def State.closeIfDone (s : State) (c : ChanId) : State :=
  let x := s.chan c
  if x.state = .closing ∧ x.cmds = [] ∧ x.sent = [] then
    ((s.sendPlain c 0x08 []).hostEvent c 0x0A02).updChan c fun x => { Channel.reset with counts := x.counts }
  else s

/-- Takes the acknowledgement fields of a packet: what they name is released, and transfers go on. -/
def State.takeAck (s : State) (k : HostPacket) : State :=
  let c := k.channel
  let x := s.chan c
  if 1024 < (x.txNext + 2 ^ 32 - k.ack) % 2 ^ 32 then s
  else
    let gone := ackNames k.ack k.gap
    let s := s.updChan c fun x =>
      { x with sent := x.sent.filter fun p => !gone p.seq,
               cmds := x.cmds.map fun (y : HostCmd) => { y with bulk := y.bulk.filter fun n => !gone n } }
    let s := x.cmds.foldl (fun s y => if y.op = 0x02 ∨ y.op = 0x24 then s.commandProgress c y.seq else s) s
    s.closeIfDone c

/-- A packet of a bound session: its tag, its binding, its time and acknowledgement, then what it is for. -/
def State.checked (s : State) (k : HostPacket) (run : State → State) : State :=
  let x := s.chan k.channel
  if !s.authentic k x.key then s.refuseAuth k
  else if !x.bound k then s.refuseAddr k
  else run ((s.updChan k.channel fun x => { x with echo := k.senderTime }).takeAck k)

/-- ACK_PACKET. -/
def execAckPacket (k : HostPacket) (s : State) : Result :=
  if !s.hostIn k [0x04] ∨ (s.chan k.channel).state = .closed then .next s
  else .next (s.checked k id)

/-- ACK_DELAY_EXPIRY; acknowledgements pause in a firmware warm restart (R389, R477). -/
def execAckDelayExpiry (c : ChanId) (s : State) : Result :=
  match (s.chan c).ackSince with
  | some t =>
    if s.mono < t + s.setting 0x1420 2 * 1000 ∨ s.gov.warm.isSome ∨ (s.chan c).state = .closed then .next s
    else .next (s.sendPlain c 0x04 [])
  | none => .next s

/-- HOST_RETRANSMIT_TIMEOUT: R is set, the timeout doubles to at most 100 ms, and event 0x0A06 tells when it first does. -/
def execHostRetransmitTimeout (c : ChanId) (seq : Nat) (s : State) : Result :=
  match (s.chan c).sent.find? (·.seq == seq) with
  | none => .next s
  | some p =>
    if s.mono < p.sentAt + p.timeout ∨ s.gov.warm.isSome then .next s
    else
      let longer := min (2 * p.timeout) 100000000
      let last := decide (longer = 100000000) && !p.backedOff
      let s := (s.countHost c 0).send (.host (s.packet c p.type seq true p.payload))
      let s := s.updChan c fun x =>
        { x with ackSince := none, sent := x.sent.map fun (y : SentPacket) =>
            if y.seq = seq then { y with sentAt := s.mono, timeout := longer, backedOff := y.backedOff || last } else y }
      .next (if last then s.hostEvent c 0x0A06 else s)

/-! ## The receive buffer (R377) -/

/-! ## PUSH (R382) -/

/-- Cuts data for a target address at 4 KiB boundaries; fuel bounds the pieces. -/
def storeRuns : Nat → Nat → List Byte → List (Nat × List Byte)
  | 0, _, _ => []
  | fuel + 1, a, bs =>
    if bs = [] then []
    else
      let n := 4096 - a % 4096
      (a, bs.take n) :: storeRuns fuel (a + n) (bs.drop n)

/-- Bulk data of a PUSH that runs: stores of the channel's stream; bytes beyond the length are discarded, with status 0x02. -/
def State.pushData (s : State) (c : ChanId) (seq off : Nat) (bs : List Byte) : State :=
  match (s.chan c).cmd seq with
  | none => s
  | some x =>
    let keep := bs.take (x.length - off)
    let s := (storeRuns (keep.length / 4096 + 2) (x.qw 2 + off) keep).foldl (fun s e =>
      let i : Issue :=
        { owner := .command c seq, stream := c.val, target := e.1, op := 0x02, payload := e.2, size := e.2.length }
      match s.issue hostSrc (s.tagOf (s.chanQuire c)) i with
      | (s, .inl st) => s.updChan c (·.updCmd seq fun y => { y with status := firstStatus y.status st })
      | (s, .inr id) => s.updChan c (·.updCmd seq fun y => { y with ops := y.ops ++ [id] })) s
    let s := s.updChan c (·.updCmd seq fun y =>
      { y with off := max y.off (off + keep.length),
               status := if keep.length < bs.length then firstStatus y.status 0x02 else y.status })
    s.commandProgress c seq

/-- A bulk packet delivered: to a PUSH of the channel that has not completed; it waits for one that has not started. -/
def State.deliverBulk (s : State) (k : HostPacket) : State :=
  if k.payload.length < 24 then s
  else
    let seq := leNat (k.payload.take 4)
    let off := leNat ((k.payload.drop 8).take 8)
    match (s.chan k.channel).cmd seq with
    | some x =>
      if x.op ≠ 0x01 ∨ x.result.isSome then s
      else if x.started then s.pushData k.channel seq off (k.payload.drop 24)
      else s.updChan k.channel (·.updCmd seq fun y => { y with data := y.data ++ [(off, k.payload.drop 24)] })
    | none => s

/-! ## Delivery (R377, R379 to R381) -/

/-- Command opcodes of a channel: of channel 0, and of the quire channels; in recovery those of R427. -/
def State.opcodes (s : State) (c : ChanId) : List Nat :=
  if s.boot.recovery then [0x05, 0x30, 0x31, 0x34]
  else if c = 0 then [0x05, 0x06, 0x07, 0x10, 0x20, 0x21, 0x22, 0x23, 0x24, 0x25, 0x30, 0x31, 0x32, 0x33, 0x34]
  else [0x01, 0x02, 0x03, 0x04]

/-- A command packet delivered. A reserved opcode, or one of the wrong kind of channel, completes with 0x01; a record cut short reads
on as zeros. -/
def State.deliverCommand (s : State) (k : HostPacket) : State :=
  let payload := if k.payload.length < 64 then zeroPad 64 k.payload else k.payload
  let x : HostCmd :=
    { seq := k.seq, payload := payload, gateOpen := false, started := false, result := none, doneFt := 0, ops := [], status := 0,
      off := 0, data := [], bulk := [] }
  let s := s.updChan k.channel fun y => { y with cmds := y.cmds ++ [x] }
  if x.op ∈ s.opcodes k.channel then s else s.finish k.channel k.seq 0x01 []

/-- Delivers kept packets strictly in sequence order; fuel bounds their number. -/
def State.deliverData : Nat → State → ChanId → State
  | 0, s, _ => s
  | fuel + 1, s, c =>
    let x := s.chan c
    match x.held.find? (·.seq == x.expect) with
    | none => s
    | some k =>
      let s := s.updChan c fun y =>
        { y with expect := (y.expect + 1) % 2 ^ 32, held := y.held.filter fun h => decide (h.seq ≠ x.expect) }
      State.deliverData fuel (if k.type = 0x01 then s.deliverCommand k else s.deliverBulk k) c

/-- A duplicate: acknowledged; a repeated command that has completed is answered with 0x43 (R377, R383). -/
def State.duplicate (s : State) (k : HostPacket) : State :=
  let c := k.channel
  let s := s.countHost c 1
  let x := s.chan c
  if k.type ≠ 0x01 ∨ (x.cmd k.seq).isSome then s.sendPlain c 0x04 []
  else match x.cache.reverse.find? (·.1 == k.seq) with
    | some (_, st) =>
      if s.windowFree c then s.sendSequenced c 0x02 (completionRecord k.seq 0x43 st 0 s.now) else s.sendPlain c 0x04 []
    | none => if x.past.contains k.seq then s.notice k 0x43 else s.sendPlain c 0x04 []

/-- A sequenced packet of an open channel by its distance from the cumulative acknowledgement (R377). -/
def State.sequenced (s : State) (k : HostPacket) : State :=
  let c := k.channel
  let x := s.chan c
  let d := (k.seq + 2 ^ 32 - x.expect) % 2 ^ 32
  if 2 ^ 31 ≤ d then s.duplicate k
  else if 1024 ≤ d then ((s.notice k 0x40).countHost c 3).hostEvent c 0x0A05
  else if x.held.any (·.seq == k.seq) then (s.countHost c 1).sendPlain c 0x04 []
  else if 67108864 < s.buffered + hostBytes k then (s.countHost c 2).hostEvent c 0x0A07
  else
    let s := s.updChan c fun y => { y with held := y.held ++ [k], ackSince := some (y.ackSince.getD s.mono) }
    s.deliverData 1025 c

/-- A command or bulk packet: notice 0x42 on a closed or closing channel (R375). -/
def State.sequencedIn (s : State) (k : HostPacket) : State :=
  if (s.chan k.channel).state ≠ .opened then s.notice k 0x42
  else s.checked k fun s => s.sequenced k

/-- COMMAND_PACKET. -/
def execCommandPacket (k : HostPacket) (s : State) : Result := if s.hostIn k [0x01] then .next (s.sequencedIn k) else .next s

/-- BULK_PACKET. -/
def execBulkPacket (k : HostPacket) (s : State) : Result := if s.hostIn k [0x03] then .next (s.sequencedIn k) else .next s

/-! ## OPEN and CLOSE (R375, R376, R412, R420, R427) -/

/-- Whether OPEN of a channel is answered with notice 0x03: disabled, before its boot step, not channel 0 in recovery, or HMAC required
with no identity key. -/
def State.openRefused (s : State) (c : ChanId) : Bool :=
  !bit (s.setting 0x1410 (c.val + 1)) 7 || (c != 0 && (s.boot.recovery || decide (s.boot.stage < 9)))
    || (s.hmacOn c && !s.sec.puf.any id)

/-- OPEN: a new session and two first sequences, of the random generator; packets of an earlier session are dropped. -/
def execOpenChan (k : HostPacket) (s : State) : Result :=
  let c := k.channel
  let x := s.chan c
  let key := s.setting 0x7110 (c.val + 1)
  if !s.hostIn k [0x05] then .next s
  else if s.openRefused c then .next (s.notice k 0x03)
  else if !s.authentic k key then .next (s.refuseAuth k)
  else if x.state = .closing then .next s
  else if x.state = .opened ∧ x.addr ≠ k.srcAddr then .next (s.refuseAddr k)
  else
    let (session, s) := s.fresh (2 ^ 32)
    let (tx, s) := s.fresh (2 ^ 32)
    let (rx, s) := s.fresh (2 ^ 32)
    let s := s.updChan c fun x =>
      { x with state := .opened, addr := k.srcAddr, port := k.srcPort, session := session, key := key, expect := rx, txNext := tx,
               held := [], ackSince := none, echo := k.senderTime, sent := [] }
    .next ((s.sendPlain c 0x06 []).hostEvent c 0x0A01)

/-- CLOSE: packets ahead of a gap were never accepted. -/
def execCloseChan (k : HostPacket) (s : State) : Result :=
  let c := k.channel
  if !s.hostIn k [0x07] ∨ (s.chan c).state ≠ .opened then .next s
  else
    .next (s.checked k fun s =>
      (s.updChan c fun x => { x with state := .closing, held := [], ackSince := none }).closeIfDone c)

/-! ## RESYNC (R385 to R388) -/

/-- A part of a reply: its 20 bytes and its entries. -/
def resyncPart (c : ChanId) (isOpen last : Bool) (n session accepted completed : Nat) (es : List Nat) : List Byte :=
  leBytes 1 c.val ++ leBytes 1 (if isOpen then 1 else 0) ++ leBytes 2 ((if last then 2 ^ 15 else 0) + n) ++ leBytes 4 session
    ++ leBytes 4 accepted ++ leBytes 4 completed ++ leBytes 2 es.length ++ leBytes 2 0 ++ es.flatMap (leBytes 8)

/-- Sends the entries of a channel, 1,025 whole entries in a packet, to the sender. -/
def State.resyncReply (s : State) (k : HostPacket) (c : ChanId) (isOpen : Bool) (session accepted completed : Nat)
    (es : List Nat) : State :=
  let parts := match chunksOf 1025 (es.length / 1025 + 1) es with
    | [] => [[]]
    | ps => ps
  let s := parts.zipIdx.foldl (fun s (e : List Nat × Nat) =>
    let r := s.packet c 0x0A (s.chan c).txNext false
      (resyncPart c isOpen (e.2 + 1 == parts.length) e.2 session accepted completed e.1)
    let r := { r with dstAddr := k.srcAddr, dstPort := k.srcPort }
    s.send (.host r)) s
  s.hostEvent c 0x0A03

/-- Inserts an entry in sequence order from f. -/
def insertEntry (f : Nat) (e : Nat × Nat) : List (Nat × Nat) → List (Nat × Nat)
  | [] => [e]
  | x :: xs => if (e.1 + 2 ^ 32 - f) % 2 ^ 32 < (x.1 + 2 ^ 32 - f) % 2 ^ 32 then e :: x :: xs else x :: insertEntry f e xs

/-- Every accepted command from f to the last accepted, with its kind and status (R386). -/
def Channel.entriesFrom (x : Channel) (f : Nat) : List Nat :=
  let span := (x.expect + 2 ^ 32 - f) % 2 ^ 32
  let all := x.cmds.map (fun y => match y.result with
      | some (st, _) => (y.seq, 1 * 2 ^ 24 + st * 2 ^ 16)
      | none => (y.seq, 0))
    ++ x.cache.map (fun e => (e.1, 1 * 2 ^ 24 + e.2 * 2 ^ 16)) ++ x.past.map fun n => (n, 2 * 2 ^ 24)
  if 2 ^ 31 ≤ span then []
  else ((all.filter fun e => decide ((e.1 + 2 ^ 32 - f) % 2 ^ 32 < span)).foldr (insertEntry f) []).map fun e => e.1 * 2 ^ 32 + e.2

/-- Transfers that a resynchronisation ends with 0x0B: a PULL, an OBS READ, a PUSH whose bulk data is incomplete. -/
def HostCmd.cutShort (y : HostCmd) : Bool :=
  y.result.isNone && (y.op == 0x02 || y.op == 0x24
    || (y.op == 0x01 && decide (y.data.foldl (fun n (e : Nat × List Byte) => max n (e.1 + e.2.length)) y.off < y.length)))

/-- One named channel (R386, R388). -/
def State.resyncChan (s : State) (k : HostPacket) (c : ChanId) (f : Nat) : State :=
  let x := s.chan c
  let kc := { k with channel := c }
  match x.state with
  | .closing => s
  | .closed =>
    if s.hmacOn c ∧ !(k.tagged && k.hmac == hostTag (s.setting 0x7110 (c.val + 1)) k) then s.refuseAuth kc else
    let v := match s.boot.paper with
      | some p => match p.chans[c.val]? with
        | some e => (e.2.2.1, e.2.2.2)
        | none => (0xFFFFFFFF, 0xFFFFFFFF)
      | none => (0xFFFFFFFF, 0xFFFFFFFF)
    s.resyncReply k c false 0 v.1 v.2 []
  | .opened =>
    let tagOk := k.tagged && k.hmac == hostTag x.key k
    if s.hmacOn c ∧ !tagOk then s.refuseAuth kc
    else if x.addr ≠ k.srcAddr ∧ !tagOk then s.refuseAddr kc
    else
      let s := s.updChan c fun x =>
        { x with held := [], sent := [], ackSince := none, port := if x.addr = k.srcAddr then k.srcPort else x.port }
      let s := (x.cmds.filter HostCmd.cutShort).foldl (fun s y => s.finish c y.seq 0x0B []) s
      let (session, s) := s.fresh (2 ^ 32)
      let s := s.updChan c fun x => { x with session := session }
      let y := s.chan c
      s.resyncReply k c true session y.lastAccepted y.lastCompleted (y.entriesFrom f)

/-- RESYNC: the channels of the mask in ascending order, each with its from-sequence; a payload shorter than the mask asks names
none. -/
def execResync (k : HostPacket) (s : State) : Result :=
  if !s.hostIn k [0x09] then .next s
  else
    let mask := leNat (k.payload.take 8)
    let named := allChans.filter fun c => bit mask c.val
    if k.payload.length < 8 + 4 * named.length then .next s
    else
      .next (named.zipIdx.foldl (fun s (e : ChanId × Nat) => s.resyncChan k e.1 (leNat ((k.payload.drop (8 + 4 * e.2)).take 4))) s)

/-! ## Commands (R380 to R383) -/

/-- Where a command's address points, for a channel: none with its status. -/
def State.hostTarget (s : State) (c : ChanId) (a : Nat) (spaces : List Nat) (own : Bool) : Except Nat Where :=
  let g := gaddr a
  match g.place with
  | .error 0x01 => .error 0x01
  | p =>
    if !spaces.contains g.space then .error 0x14
    else if own ∧ g.node ≠ s.node then .error 0x10
    else match p with
      | .error st => .error st
      | .ok w =>
        let die : Option DieId := match w with
          | .die d _ _ | .obj d _ => if g.node = s.node then some d else none
          | _ => none
        match die with
        | some d => if (s.die d).quire = some (s.chanQuire c) then .ok w else .error 0x13
        | none => .ok w

/-- A quire channel's command in hand: 0x20 while CD02 is isolated; it waits in a freeze, and in Sleep and Deep sleep (R389, R437). -/
def State.dataCommand (s : State) (c : ChanId) (seq op : Nat) (run : HostCmd → State) : Result :=
  match s.ready c seq op with
  | none => .next s
  | some x =>
    if !s.hostPath then .next (s.finish c seq 0x20 [])
    else if s.frz.cut.isSome ∨ !(s.power.st = .run ∨ s.power.st = .idle) then .next s
    else .next (run x)

/-- Marks a command of a channel as started. -/
def State.startCmd (s : State) (c : ChanId) (seq : Nat) : State := s.updChan c (·.updCmd seq fun y => { y with started := true })

/-- What the checks of a PUSH or PULL answer: a length of 0 fails for a reserved value only (R94), an extent outside its space comes
before a misaligned address or length (R526). -/
def State.sizedStatus (s : State) (c : ChanId) (x : HostCmd) (spaces : List Nat) : Nat :=
  let n := x.length
  match s.hostTarget c (x.qw 2) spaces true with
  | .error st => if n = 0 ∧ st ≠ 0x01 then 0 else st
  | .ok w =>
    let fits : Bool := match w with
      | .die d sram off => s.localOk d sram off n
      | .obj _ j => decide (4 * j + n ≤ 16384)
      | _ => true
    if n = 0 ∨ ((x.qw 2) % 4 = 0 ∧ n % 4 = 0) then 0
    else if !fits then 0x10
    else 0x11

/-- PUSH: the bulk data that came before it started goes out with its start; a length of 0 completes. -/
def execPush (c : ChanId) (seq : Nat) (s : State) : Result :=
  s.dataCommand c seq 0x01 fun x =>
    let st := s.sizedStatus c x [0, 1]
    if st ≠ 0 then s.finish c seq st []
    else
      let s := (s.startCmd c seq).updChan c (·.updCmd seq fun y => { y with data := [] })
      (x.data.foldl (fun s e => s.pushData c seq e.1 e.2) s).commandProgress c seq

/-- Offsets and sizes of a PULL's loads: up to a 4 KiB boundary, or 4 bytes of space 2; fuel bounds them. -/
def loadRuns (unit : Nat) : Nat → Nat → Nat → Nat → List (Nat × Nat)
  | 0, _, _, _ => []
  | fuel + 1, a, off, len =>
    if len = 0 then []
    else
      let n := min len (unit - (a + off) % unit)
      (off, n) :: loadRuns unit fuel a (off + n) (len - n)

/-- PULL: its loads; the data goes out as it comes. -/
def execPull (c : ChanId) (seq : Nat) (s : State) : Result :=
  s.dataCommand c seq 0x02 fun x =>
    let st := s.sizedStatus c x [0, 1, 2]
    if st ≠ 0 then s.finish c seq st []
    else
        let unit := if (gaddr (x.qw 2)).space = 2 then 4 else 4096
        let s := s.startCmd c seq
        let s := (loadRuns unit (x.length / unit + 2) (x.qw 2) 0 x.length).foldl (fun s e =>
          let i : Issue :=
            { owner := .command c seq, sink := .pull e.1, stream := c.val, target := x.qw 2 + e.1, op := 0x01, size := e.2 }
          match s.issue hostSrc (s.tagOf (s.chanQuire c)) i with
          | (s, .inl st) => s.updChan c (·.updCmd seq fun y => { y with status := firstStatus y.status st })
          | (s, .inr id) => s.updChan c (·.updCmd seq fun y => { y with ops := y.ops ++ [id] })) s
        s.commandProgress c seq

/-- HOST_SIGNAL: 1 adds, 2 sets. -/
def execHostSignal (c : ChanId) (seq : Nat) (s : State) : Result :=
  s.dataCommand c seq 0x03 fun x =>
    let w := x.qw 3
    let k := bits w 63 60
    if k ≠ 1 ∧ k ≠ 2 then s.finish c seq 0x01 []
    else match s.hostTarget c (x.qw 2) [2] false with
      | .error st => s.finish c seq st []
      | .ok _ =>
        let s := s.startCmd c seq
        let i : Issue :=
          { owner := .command c seq, stream := c.val, target := x.qw 2, op := if k = 2 then 0x09 else 0x08, clasp := bit w 57,
            gclasp := bit w 56, payload := leBytes 4 (bits w 31 0), size := 4, release := x.qw 4 }
        match s.issue hostSrc (s.tagOf (s.chanQuire c)) i with
        | (s, .inl st) => s.finish c seq st []
        | (s, .inr id) => s.updChan c (·.updCmd seq fun y => { y with ops := [id] })

/-- HOST_COMMAND_COMPLETE: the completion record goes out when the window permits (R377, R383). -/
def execHostCommandComplete (c : ChanId) (seq : Nat) (s : State) : Result :=
  if s.windowFree c ∧ s.gov.warm.isNone ∧ (s.chan c).state ≠ .closed ∧ ((s.chan c).cmd seq).any (·.result.isSome) then
    .next (s.tell c seq)
  else .next s

end Sys2Proof.Machine
end

