-- ==== Sys2Proof/Machine/Dispatch.lean ====
section
/-! DEFINITION. One arm per command: a direct call of its meaning. -/

namespace Sys2Proof.Machine

/-- What a command does to everything but the queue. -/
def exec (i : Instr) (s : State) : Host.Outcome State Fault Refusal :=
  match i with
  | .ftAlignmentSymbol => Sys2Proof.Machine.execFtAlignmentSymbol s
  | .firstLock => Sys2Proof.Machine.execFirstLock s
  | .timeSymbolSend p => Sys2Proof.Machine.execTimeSymbolSend p s
  | .timeSymbolReceive p sym => Sys2Proof.Machine.execTimeSymbolReceive p sym s
  | .degradedHoldoverEntry => Sys2Proof.Machine.execDegradedHoldoverEntry s
  | .masterLossTimeout => Sys2Proof.Machine.execMasterLossTimeout s
  | .ftStep seq => Sys2Proof.Machine.execFtStep seq s
  | .gateFtReached g => Sys2Proof.Machine.execGateFtReached g s
  | .gutterEffectiveFtWrite a => Sys2Proof.Machine.execGutterEffectiveFtWrite a s
  | .gutterScheduleTakesEffect => Sys2Proof.Machine.execGutterScheduleTakesEffect s
  | .oneOffGutter t ports => Sys2Proof.Machine.execOneOffGutter t ports s
  | .gutterStart => Sys2Proof.Machine.execGutterStart s
  | .actionWindowOpen obs => Sys2Proof.Machine.execActionWindowOpen obs s
  | .actionWindowClose running => Sys2Proof.Machine.execActionWindowClose running s
  | .gutterEnd => Sys2Proof.Machine.execGutterEnd s
  | .stitch q => Sys2Proof.Machine.execStitch q s
  | .stitchReached k => Sys2Proof.Machine.execStitchReached k s
  | .stitchHoldTimeout k => Sys2Proof.Machine.execStitchHoldTimeout k s
  | .stitchRelease k identity ft => Sys2Proof.Machine.execStitchRelease k identity ft s
  | .freeze seq => Sys2Proof.Machine.execFreeze seq s
  | .freezeInstant => Sys2Proof.Machine.execFreezeInstant s
  | .engineStopAtBoundary d u => Sys2Proof.Machine.execEngineStopAtBoundary d u s
  | .moduleFrozen => Sys2Proof.Machine.execModuleFrozen s
  | .freezeSettleTimeout => Sys2Proof.Machine.execFreezeSettleTimeout s
  | .thaw seq => Sys2Proof.Machine.execThaw seq s
  | .thawInstant => Sys2Proof.Machine.execThawInstant s
  | .spineHop d pkt => Sys2Proof.Machine.execSpineHop d pkt s
  | .quireAssignmentWrite a => Sys2Proof.Machine.execQuireAssignmentWrite a s
  | .quireZeroingComplete => Sys2Proof.Machine.execQuireZeroingComplete s
  | .folioJoinWrite a => Sys2Proof.Machine.execFolioJoinWrite a s
  | .seedWrite a => Sys2Proof.Machine.execSeedWrite a s
  | .regionSizeWrite a => Sys2Proof.Machine.execRegionSizeWrite a s
  | .spreadShareWrite a => Sys2Proof.Machine.execSpreadShareWrite a s
  | .flagWordRead a => Sys2Proof.Machine.execFlagWordRead a s
  | .eventLogRead a => Sys2Proof.Machine.execEventLogRead a s
  | .saveSettings a => Sys2Proof.Machine.execSaveSettings a s
  | .eraseSettings a => Sys2Proof.Machine.execEraseSettings a s
  | .settingsSaveComplete => Sys2Proof.Machine.execSettingsSaveComplete s
  | .dictWrite a => Sys2Proof.Machine.execDictWrite a s
  | .dictRead a => Sys2Proof.Machine.execDictRead a s
  | .nop q => Sys2Proof.Machine.execNop q s
  | .wait q => Sys2Proof.Machine.execWait q s
  | .signal q => Sys2Proof.Machine.execSignal q s
  | .heldReleaseApply d => Sys2Proof.Machine.execHeldReleaseApply d s
  | .cond q => Sys2Proof.Machine.execCond q s
  | .ret q => Sys2Proof.Machine.execRet q s
  | .descriptorComplete q => Sys2Proof.Machine.execDescriptorComplete q s
  | .load c seq => Sys2Proof.Machine.execLoad c seq s
  | .start c seq => Sys2Proof.Machine.execStart c seq s
  | .stop c seq => Sys2Proof.Machine.execStop c seq s
  | .unload c seq => Sys2Proof.Machine.execUnload c seq s
  | .clear c seq => Sys2Proof.Machine.execClear c seq s
  | .preemption d u x => Sys2Proof.Machine.execPreemption d u x s
  | .engineSaveComplete d u memError => Sys2Proof.Machine.execEngineSaveComplete d u memError s
  | .engineRestoreComplete d u memError => Sys2Proof.Machine.execEngineRestoreComplete d u memError s
  | .mma q => Sys2Proof.Machine.execMma q s
  | .tileDrain d e obs => Sys2Proof.Machine.execTileDrain d e obs s
  | .mxtest q found => Sys2Proof.Machine.execMxtest q found s
  | .matrixSpareTipIn d e => Sys2Proof.Machine.execMatrixSpareTipIn d e s
  | .vprog q => Sys2Proof.Machine.execVprog q s
  | .gather q => Sys2Proof.Machine.execGather q s
  | .routeCount q => Sys2Proof.Machine.execRouteCount q s
  | .dispatch q => Sys2Proof.Machine.execDispatch q s
  | .setSize q => Sys2Proof.Machine.execSetSize q s
  | .gtCombine q rails => Sys2Proof.Machine.execGtCombine q rails s
  | .convert q => Sys2Proof.Machine.execConvert q s
  | .cbCombine q rails => Sys2Proof.Machine.execCbCombine q rails s
  | .copy q => Sys2Proof.Machine.execCopy q s
  | .atomic q => Sys2Proof.Machine.execAtomic q s
  | .reduce q rails => Sys2Proof.Machine.execReduce q rails s
  | .hashLeaves q => Sys2Proof.Machine.execHashLeaves q s
  | .hashRoot q => Sys2Proof.Machine.execHashRoot q s
  | .colophonOpen q => Sys2Proof.Machine.execColophonOpen q s
  | .colophonSeal q => Sys2Proof.Machine.execColophonSeal q s
  | .signatureComplete => Sys2Proof.Machine.execSignatureComplete s
  | .allReduce q => Sys2Proof.Machine.execAllReduce q s
  | .reduceScatter q => Sys2Proof.Machine.execReduceScatter q s
  | .allGather q => Sys2Proof.Machine.execAllGather q s
  | .broadcast q => Sys2Proof.Machine.execBroadcast q s
  | .allToAll q => Sys2Proof.Machine.execAllToAll q s
  | .barrier q => Sys2Proof.Machine.execBarrier q s
  | .streamOpen q => Sys2Proof.Machine.execStreamOpen q s
  | .chunkSend d x dst => Sys2Proof.Machine.execChunkSend d x dst s
  | .streamChunkRelease d x => Sys2Proof.Machine.execStreamChunkRelease d x s
  | .chunkArrival d x k => Sys2Proof.Machine.execChunkArrival d x k s
  | .grantArrival d x t => Sys2Proof.Machine.execGrantArrival d x t s
  | .acknowledgementArrival d x t => Sys2Proof.Machine.execAcknowledgementArrival d x t s
  | .retransmitRequestArrival d x t => Sys2Proof.Machine.execRetransmitRequestArrival d x t s
  | .abortNoticeArrival d x t => Sys2Proof.Machine.execAbortNoticeArrival d x t s
  | .barrierTokenArrival d x t => Sys2Proof.Machine.execBarrierTokenArrival d x t s
  | .partnerProgressTimeout d x rank => Sys2Proof.Machine.execPartnerProgressTimeout d x rank s
  | .requestInject d id => Sys2Proof.Machine.execRequestInject d id s
  | .claspSend d id => Sys2Proof.Machine.execClaspSend d id s
  | .remoteRequestArrival d r => Sys2Proof.Machine.execRemoteRequestArrival d r s
  | .laneApply d lane rails => Sys2Proof.Machine.execLaneApply d lane rails s
  | .claspApply d id => Sys2Proof.Machine.execClaspApply d id s
  | .remoteReplyArrival d r => Sys2Proof.Machine.execRemoteReplyArrival d r s
  | .retryTimeout d id => Sys2Proof.Machine.execRetryTimeout d id s
  | .nkBackoffExpiry d id => Sys2Proof.Machine.execNkBackoffExpiry d id s
  | .hotHoldExpiry d key => Sys2Proof.Machine.execHotHoldExpiry d key s
  | .settleSend d key => Sys2Proof.Machine.execSettleSend d key s
  | .sequenceStateDiscard d key => Sys2Proof.Machine.execSequenceStateDiscard d key s
  | .recordReclaim d rec => Sys2Proof.Machine.execRecordReclaim d rec s
  | .discoveryWordSend p => Sys2Proof.Machine.execDiscoveryWordSend p s
  | .discoveryWordReceive p w => Sys2Proof.Machine.execDiscoveryWordReceive p w s
  | .portTrained p => Sys2Proof.Machine.execPortTrained p s
  | .portTrainingTimeout p => Sys2Proof.Machine.execPortTrainingTimeout p s
  | .portTrainingRetry p => Sys2Proof.Machine.execPortTrainingRetry p s
  | .portDown p why => Sys2Proof.Machine.execPortDown p why s
  | .planEffectiveFtWrite a => Sys2Proof.Machine.execPlanEffectiveFtWrite a s
  | .planCommit => Sys2Proof.Machine.execPlanCommit s
  | .fabricPacketRoute arrival pkt => Sys2Proof.Machine.execFabricPacketRoute arrival pkt s
  | .dimensionStateWordSend => Sys2Proof.Machine.execDimensionStateWordSend s
  | .dimensionStateWordReceive p dim mask => Sys2Proof.Machine.execDimensionStateWordReceive p dim mask s
  | .ringLinkMapReceive p origin map => Sys2Proof.Machine.execRingLinkMapReceive p origin map s
  | .congestionSample => Sys2Proof.Machine.execCongestionSample s
  | .congestionRecordClose => Sys2Proof.Machine.execCongestionRecordClose s
  | .managerHeartbeat heard => Sys2Proof.Machine.execManagerHeartbeat heard s
  | .managerLossTimeout => Sys2Proof.Machine.execManagerLossTimeout s
  | .heaterUpdate p ring reading => Sys2Proof.Machine.execHeaterUpdate p ring reading s
  | .calibrationOffsetSave => Sys2Proof.Machine.execCalibrationOffsetSave s
  | .calibrationRequest p => Sys2Proof.Machine.execCalibrationRequest p s
  | .calibrationSweepComplete p slot offsets markersOk farOk => Sys2Proof.Machine.execCalibrationSweepComplete p slot offsets markersOk farOk s
  | .calibrationStale p slot => Sys2Proof.Machine.execCalibrationStale p slot s
  | .identityMarkerReceive p slot marker => Sys2Proof.Machine.execIdentityMarkerReceive p slot marker s
  | .dataFrameReceive p slot f => Sys2Proof.Machine.execDataFrameReceive p slot f s
  | .retirementReportReceive p slot => Sys2Proof.Machine.execRetirementReportReceive p slot s
  | .slotLossOfSignal p slot => Sys2Proof.Machine.execSlotLossOfSignal p slot s
  | .guidedSweepComplete p slot locked offsets => Sys2Proof.Machine.execGuidedSweepComplete p slot locked offsets s
  | .lineMarginAverage comb line power => Sys2Proof.Machine.execLineMarginAverage comb line power s
  | .moveRequest p fromSlot toSlot gutter => Sys2Proof.Machine.execMoveRequest p fromSlot toSlot gutter s
  | .fibreLossOfLight p => Sys2Proof.Machine.execFibreLossOfLight p s
  | .probeStart p neighbourProbe => Sys2Proof.Machine.execProbeStart p neighbourProbe s
  | .probeAnswered p => Sys2Proof.Machine.execProbeAnswered p s
  | .outputPowerTrip p => Sys2Proof.Machine.execOutputPowerTrip p s
  | .hostLinkUp => Sys2Proof.Machine.execHostLinkUp s
  | .hostLinkDown => Sys2Proof.Machine.execHostLinkDown s
  | .commandPacket k => Sys2Proof.Machine.execCommandPacket k s
  | .bulkPacket k => Sys2Proof.Machine.execBulkPacket k s
  | .ackPacket k => Sys2Proof.Machine.execAckPacket k s
  | .ackDelayExpiry c => Sys2Proof.Machine.execAckDelayExpiry c s
  | .hostRetransmitTimeout c seq => Sys2Proof.Machine.execHostRetransmitTimeout c seq s
  | .openChan k => Sys2Proof.Machine.execOpenChan k s
  | .closeChan k => Sys2Proof.Machine.execCloseChan k s
  | .resync k => Sys2Proof.Machine.execResync k s
  | .push c seq => Sys2Proof.Machine.execPush c seq s
  | .pull c seq => Sys2Proof.Machine.execPull c seq s
  | .hostSignal c seq => Sys2Proof.Machine.execHostSignal c seq s
  | .hostCommandComplete c seq => Sys2Proof.Machine.execHostCommandComplete c seq s
  | .canWriteInitiate f => Sys2Proof.Machine.execCanWriteInitiate f s
  | .canReadInitiate f => Sys2Proof.Machine.execCanReadInitiate f s
  | .canSegment f => Sys2Proof.Machine.execCanSegment f s
  | .canSegmentAccepted f => Sys2Proof.Machine.execCanSegmentAccepted f s
  | .canTransferTimeout => Sys2Proof.Machine.execCanTransferTimeout s
  | .canHeartbeat => Sys2Proof.Machine.execCanHeartbeat s
  | .inputPowerApplied straps => Sys2Proof.Machine.execInputPowerApplied straps s
  | .wakePin => Sys2Proof.Machine.execWakePin s
  | .canWakeFrame f => Sys2Proof.Machine.execCanWakeFrame f s
  | .wakeConditionsMet input bank => Sys2Proof.Machine.execWakeConditionsMet input bank s
  | .bootStepComplete obs => Sys2Proof.Machine.execBootStepComplete obs s
  | .bootStepLimit unfinished => Sys2Proof.Machine.execBootStepLimit unfinished s
  | .ctlBBootClaim => Sys2Proof.Machine.execCtlBBootClaim s
  | .leaseRenewal => Sys2Proof.Machine.execLeaseRenewal s
  | .leaseRenewalReceive at_ epoch holder => Sys2Proof.Machine.execLeaseRenewalReceive at_ epoch holder s
  | .leaseExpiry d => Sys2Proof.Machine.execLeaseExpiry d s
  | .leaseClaimRequest who => Sys2Proof.Machine.execLeaseClaimRequest who s
  | .leaseConfirmReceive r => Sys2Proof.Machine.execLeaseConfirmReceive r s
  | .leaseAnswerReceive confirmed viaCan epoch => Sys2Proof.Machine.execLeaseAnswerReceive confirmed viaCan epoch s
  | .leaseConfirmTimeout => Sys2Proof.Machine.execLeaseConfirmTimeout s
  | .leaseClaimReceive d who epoch => Sys2Proof.Machine.execLeaseClaimReceive d who epoch s
  | .fwWrite seq => Sys2Proof.Machine.execFwWrite seq s
  | .fwCommit seq => Sys2Proof.Machine.execFwCommit seq s
  | .fwCommitCopyComplete => Sys2Proof.Machine.execFwCommitCopyComplete s
  | .attest seq => Sys2Proof.Machine.execAttest seq s
  | .restart seq => Sys2Proof.Machine.execRestart seq s
  | .configWrite seq part => Sys2Proof.Machine.execConfigWrite seq part s
  | .powerSample m => Sys2Proof.Machine.execPowerSample m s
  | .inputOvervoltage millivolts => Sys2Proof.Machine.execInputOvervoltage millivolts s
  | .overcurrentTrip => Sys2Proof.Machine.execOvercurrentTrip s
  | .sag millivolts => Sys2Proof.Machine.execSag millivolts s
  | .endpaperWriteComplete => Sys2Proof.Machine.execEndpaperWriteComplete s
  | .powerStateEntry seq => Sys2Proof.Machine.execPowerStateEntry seq s
  | .powerStateExit seq => Sys2Proof.Machine.execPowerStateExit seq s
  | .powerStateReached => Sys2Proof.Machine.execPowerStateReached s
  | .dieSensorReading m => Sys2Proof.Machine.execDieSensorReading m s
  | .thermalLimitStep => Sys2Proof.Machine.execThermalLimitStep s
  | .thermalLimitRestore => Sys2Proof.Machine.execThermalLimitRestore s
  | .stackTemperatureReading d tenths => Sys2Proof.Machine.execStackTemperatureReading d tenths s
  | .unscheduledRetrain d chan drift corrected => Sys2Proof.Machine.execUnscheduledRetrain d chan drift corrected s
  | .retrainComplete d restored => Sys2Proof.Machine.execRetrainComplete d restored s
  | .eccWriteBack d => Sys2Proof.Machine.execEccWriteBack d s
  | .scrubRead d cw found => Sys2Proof.Machine.execScrubRead d cw found s
  | .preCopyGranule d => Sys2Proof.Machine.execPreCopyGranule d s
  | .reachedReceive r => Sys2Proof.Machine.execReachedReceive r s
  | .prepareReceive r => Sys2Proof.Machine.execPrepareReceive r s
  | .stitchCopyComplete k => Sys2Proof.Machine.execStitchCopyComplete k s
  | .voteReceive r => Sys2Proof.Machine.execVoteReceive r s
  | .decideReceive r => Sys2Proof.Machine.execDecideReceive r s
  | .invalidReceive r => Sys2Proof.Machine.execInvalidReceive r s
  | .rollbackReceive r => Sys2Proof.Machine.execRollbackReceive r s
  | .rollbackRestoreComplete k images => Sys2Proof.Machine.execRollbackRestoreComplete k images s
  | .restoredReceive r => Sys2Proof.Machine.execRestoredReceive r s
  | .dieReset d cause => Sys2Proof.Machine.execDieReset d cause s
  | .dieWatchdogExpiry d => Sys2Proof.Machine.execDieWatchdogExpiry d s
  | .dieRejoin d => Sys2Proof.Machine.execDieRejoin d s
  | .clockGeneratorFailure => Sys2Proof.Machine.execClockGeneratorFailure s
  | .switchoverPauseEnd ftError => Sys2Proof.Machine.execSwitchoverPauseEnd ftError s
  | .firmwareWarmRestart cause => Sys2Proof.Machine.execFirmwareWarmRestart cause s
  | .controlWatchdogExpiry who => Sys2Proof.Machine.execControlWatchdogExpiry who s
  | .warmRestartThaw => Sys2Proof.Machine.execWarmRestartThaw s
  | .reserveFolioTipIn => Sys2Proof.Machine.execReserveFolioTipIn s
  | .healthScoreCompute m => Sys2Proof.Machine.execHealthScoreCompute m s
  | .retireDwellExpiry => Sys2Proof.Machine.execRetireDwellExpiry s
  | .retireSuggestionReceive node score => Sys2Proof.Machine.execRetireSuggestionReceive node score s
  | .occupancySample m => Sys2Proof.Machine.execOccupancySample m s
  | .occupancyWindowClose => Sys2Proof.Machine.execOccupancyWindowClose s
  | .obsSet seq => Sys2Proof.Machine.execObsSet seq s
  | .traceTimeRecord d => Sys2Proof.Machine.execTraceTimeRecord d s
  | .traceDrain d => Sys2Proof.Machine.execTraceDrain d s
  | .traceGroupTimeout d => Sys2Proof.Machine.execTraceGroupTimeout d s
  | .ribbonArm seq => Sys2Proof.Machine.execRibbonArm seq s
  | .ribbonClear seq => Sys2Proof.Machine.execRibbonClear seq s
  | .ribbonFire d r t => Sys2Proof.Machine.execRibbonFire d r t s
  | .ribbonSpreadArrival d r => Sys2Proof.Machine.execRibbonSpreadArrival d r s
  | .traceFreeze d => Sys2Proof.Machine.execTraceFreeze d s
  | .dumpSelect seq => Sys2Proof.Machine.execDumpSelect seq s
  | .tensorDump q entry => Sys2Proof.Machine.execTensorDump q entry s
  | .obsRead seq => Sys2Proof.Machine.execObsRead seq s
  | .postMortem by_ => Sys2Proof.Machine.execPostMortem by_ s
  | .tapReset => Sys2Proof.Machine.execTapReset s
  | .extest pins => Sys2Proof.Machine.execExtest pins s
  | .samplePreload pins => Sys2Proof.Machine.execSamplePreload pins s
  | .idcode => Sys2Proof.Machine.execIdcode s
  | .clamp => Sys2Proof.Machine.execClamp s
  | .highz => Sys2Proof.Machine.execHighz s
  | .bypass opcode tdi => Sys2Proof.Machine.execBypass opcode tdi s
  | .dieSelect mask => Sys2Proof.Machine.execDieSelect mask s
  | .dieAccess held => Sys2Proof.Machine.execDieAccess held s
  | .testUnlock phase => Sys2Proof.Machine.execTestUnlock phase s
  | .standbyGeneratorFailure => Sys2Proof.Machine.execStandbyGeneratorFailure s
  | .controlDieFailure who => Sys2Proof.Machine.execControlDieFailure who s
  | .inputPowerRemoved millis => Sys2Proof.Machine.execInputPowerRemoved millis s
  | .icmpv6Request m => Sys2Proof.Machine.execIcmpv6Request m s
  | .memberReportReceive node m => Sys2Proof.Machine.execMemberReportReceive node m s
  | .suggestionHourEnd => Sys2Proof.Machine.execSuggestionHourEnd s
  | .watchRecordReceive => Sys2Proof.Machine.execWatchRecordReceive s
  | .spareSlotCalibration p slot offsets => Sys2Proof.Machine.execSpareSlotCalibration p slot offsets s
  | .postMortemImageWritten => Sys2Proof.Machine.execPostMortemImageWritten s

end Sys2Proof.Machine
end

