-- ==== Sys2Proof/Machine/Tick.lean ====
section
/-! DEFINITION. One nanosecond of time, which passes when no command waits (log 2). -/

namespace Sys2Proof.Machine

/-- One step of a correction towards nothing left. -/
def slewOne (left : Int) : Int := if 0 < left then 1 else if left < 0 then -1 else 0

/-- The corrections that this tick applies, by counter: 1 ns in every 50,000 ticks (20 ppm) while some remains (R39). The module's
own correction, of all counters, comes before those of single counters. -/
def TimeSt.slewStep (t : TimeSt) : TimeSt × (Fin 31 → Int) :=
  if t.slew = 0 ∧ t.devs.toList.all (· == 0) then ({ t with slewPhase := 0 }, fun _ => 0)
  else if t.slewPhase + 1 < 50000 then ({ t with slewPhase := t.slewPhase + 1 }, fun _ => 0)
  else if t.slew ≠ 0 then ({ t with slew := t.slew - slewOne t.slew, slewPhase := 0 }, fun _ => slewOne t.slew)
  else ({ t with devs := t.devs.map fun (d : Int) => d - slewOne d, slewPhase := 0 }, fun i => slewOne t.devs[i])

/-- Core cycles of a die in this tick at a clock in MHz (R40). -/
def Die.clockTick (x : Die) (mhz : Nat) : Die :=
  let p := x.cyclePhase + mhz
  { x with cycles := (x.cycles + p / 1000) % 2 ^ 48, cyclePhase := p % 1000 }

/-- Upsets strike a die's memories: a correctable one waits for a read, an uncorrectable one spoils its word (R225, R252). -/
def Die.struck (x : Die) (us : List (Bool × Nat × Bool)) : Die :=
  let of_ (sram bad : Bool) : List Nat := (us.filter fun u => u.1 == sram && u.2.2 == bad).map fun u => u.2.1
  { x with latent := x.latent ++ (of_ true false).map (fun w => (true, w)) ++ (of_ false false).map (fun w => (false, w)),
           badSram := (of_ true true).foldl insertNew x.badSram, badDram := (of_ false true).foldl insertNew x.badDram }

/-- Whether a port may send: up, and no gutter of it or switchover pause holds its injection (R54, R306). -/
def State.portSends (s : State) (p : PortId) : Bool :=
  (s.port p).state == .up && s.pause.isNone && match s.gut.now with
    | some g => !bit g.ports p.val
    | none => true

/-- A port sends its next packet (R297, R300); one per tick, the rate being left out (log 2). -/
def State.sendNext (s : State) (p : PortId) : State :=
  match (s.port p).egress with
  | [] => s
  | _ :: _ =>
    if s.portSends p then match s.nextPacket p with
      | some k => (s.updPort p fun x => x.sent s.mono (s.tagClass k.tag) k).send (.fabric p k)
      | none => s
    else s

/-- The engines of a die whose tiles wait for room in canonical staging. -/
def State.heldEngines (s : State) (d : DieId) : Nat :=
  ((List.finRange 4).filter fun e => ((s.die d).mx[e].runs.head?).any fun r => s.streamHeld d e r).length

/-- Each held cycle of an engine is counted in 0x5150 (R332). -/
def State.countHeld (s : State) (before : Vector Nat 20) : State :=
  allDies.foldl (fun s d =>
    let n := s.heldEngines d
    if n = 0 then s
    else s.updDie d fun x =>
      { x with collCounts := x.collCounts.set 4 (x.collCounts[4] + n * ((x.cycles + 2 ^ 48 - before[d]) % 2 ^ 48)) }) s

/-- Every FT counter, of 64 bits, advances by 1, and by the correction in force (R10, R38, R39); upsets strike; every port sends (R300). -/
def State.tick (s : State) : State :=
  let (t, d) := s.time.slewStep
  let adv (i : Fin 31) (ft : Nat) : Nat := addInt (ft + 1) (d i) % 2 ^ 64
  let mhz := s.coreClock
  let hits (d : Nat) : List (Bool × Nat × Bool) := ((Config.upsets s.mono).filter (·.1 == d)).map (·.2)
  let before := s.dies.map fun (x : Die) => x.cycles
  let s := { s with mono := s.mono + 1, time := t,
                    dies := Vector.ofFn fun (i : Fin 20) =>
                      { (s.dies[i].clockTick mhz).struck (hits i.val) with ft := adv ⟨i.val, by omega⟩ s.dies[i].ft },
                    ctlFt := Vector.ofFn fun (i : Fin 2) => adv ⟨20 + i.val, by omega⟩ s.ctlFt[i],
                    edgeFt := Vector.ofFn fun (i : Fin 9) => adv ⟨22 + i.val, by omega⟩ s.edgeFt[i] }
  allPorts.foldl State.sendNext (s.countHeld before)

end Sys2Proof.Machine
end

