-- ==== Sys2Proof/Safety.lean ====
section
/-! DEFINITION. What counts as a safe step: it answers a next state. -/

namespace Sys2Proof.Machine

/-- The outcome is a next state. -/
def Result.completes : Result → Prop
  | .next _ => True
  | .fault _ => False
  | .refused _ => False

/-- The dictionary server takes up an access of a path: the access is in hand, and R389, R406 and R412 let the path be served, and the length it
names is one that R380 allows. -/
def State.serves (s : State) (a : Access) (r : DictReq) : Prop :=
  s.accessOf a = some r ∧ s.boot.recovery = false ∧ (a = .can ∨ s.hostPath = true)
    ∧ (if a = .can then 2 else 5) ≤ s.boot.stage ∧ s.governs = true ∧ (a = .can ∨ r.len ≤ 4096)

/-- A write passes checks 1 to 7 of R394 with this value. -/
def State.passes (s : State) (r : DictReq) (v : Nat) : Prop :=
  ∃ e, accessEntry r = .ok e ∧ s.writeValue e r = .ok (some v)

/-- A CONTEXT command with operation k for context x of die d is in hand on channel c, and R381, R389, R437 and R474 let it run. -/
def State.contextReady (s : State) (c : ChanId) (seq k : Nat) (d : DieId) (x : CtxId) : Prop :=
  ∃ y, s.ready c seq 0x04 = some y ∧ bits (y.qw 2) 63 60 = k ∧ bits (y.qw 2) 52 48 = d.val ∧ bits (y.qw 2) 42 40 = x.val
    ∧ (k = 5 → bits (y.qw 2) 38 32 ≤ 71) ∧ (s.die d).quire = some (s.chanQuire c) ∧ s.hostPath = true
    ∧ (k ≤ 2 → s.quireHeld (s.chanQuire c) = false) ∧ (s.die d).presence = .inService ∧ s.frz.cut = none ∧ (s.die d).governed = true ∧ s.running = true

/-- A descriptor with this opcode stands eligible at the front of a queue that skips nothing. -/
def State.atFront (s : State) (q : QueueId) (op : Nat) (d : List Nat) : Prop :=
  (s.queue q).skip = 0 ∧ s.front q = .ready d ∧ dOp d = op

/-- Both memories and the objects of every die are in the canonical form, and no key stands twice in the dictionary's store, in the
settings store of the flash, or in what a save in progress writes. -/
def State.canonical (s : State) : Prop :=
  (∀ d, SMap.wf 0 (s.die d).dram = true ∧ SMap.wf 0 (s.die d).sram = true ∧ SMap.wf 0 (s.die d).so = true)
    ∧ SMap.sorted s.dict 0 = true ∧ (∀ x, s.flash.store = some x → SMap.sorted x.vals 0 = true)
    ∧ ∀ m, s.flash.saving = some m → SMap.sorted m 0 = true

/-- What a started descriptor leaves of its queue: it stands last among the started ones and the queue is past it. -/
def State.took (s t : State) (q : QueueId) (d : List Nat) (done : Bool) : Prop :=
  (t.queue q).next = (s.queue q).next.after ∧ (t.queue q).head = (s.queue q).head ∧ (t.queue q).status = (s.queue q).status
    ∧ ∃ e, (t.queue q).started = (s.queue q).started ++ [e] ∧ e.pos = (s.queue q).next ∧ e.qws = d ∧ e.done = done

/-- A descriptor that started as done, with a summary for its slot or none, in a step that leaves every byte, object and other
queue as it was. -/
def State.tookIdle (s t : State) (q : QueueId) (d : List Nat) (v : Option (Nat × Summary)) : Prop :=
  s.took t q d true ∧ (∃ e, (t.queue q).started = (s.queue q).started ++ [e] ∧ e.summary = v) ∧ t = { s with dies := t.dies }
    ∧ (∀ r, r ≠ q → t.queue r = s.queue r) ∧ (∀ a : Place, t.byteAt a = s.byteAt a) ∧ ∀ e o, (t.die e).obj o = (s.die e).obj o

/-- A descriptor that started as done: its summary stands with it, the memory is that of w, and no object and no other queue changed. -/
def State.tookAs (s t : State) (q : QueueId) (d : List Nat) (v : Option (Nat × Summary)) (w : State) : Prop :=
  s.took t q d true ∧ (∃ e, (t.queue q).started = (s.queue q).started ++ [e] ∧ e.summary = v)
    ∧ (∀ r, r ≠ q → t.queue r = s.queue r) ∧ (∀ a : Place, t.byteAt a = w.byteAt a) ∧ ∀ e o, (t.die e).obj o = (s.die e).obj o

/-- A descriptor that started and awaits these operations, if any: it stands last, and the ones before it stand as they were
unless one of them has its position. -/
def State.tookOps (s t : State) (q : QueueId) (d : List Nat) (done : Bool) (ops : List Nat) : Prop :=
  let p := (s.queue q).next
  (t.queue q).next = p.after ∧ (t.queue q).head = (s.queue q).head ∧ (t.queue q).status = (s.queue q).status
    ∧ ∃ xs e, (t.queue q).started = xs ++ [e] ∧ xs.map (·.pos) = (s.queue q).started.map (·.pos)
      ∧ ((∀ y ∈ (s.queue q).started, y.pos ≠ p) → xs = (s.queue q).started)
      ∧ e.pos = p ∧ e.qws = d ∧ e.done = done ∧ e.ops = ops

/-- A descriptor that started and awaits no operation: it stands between two element blocks with job j, or with none it is done with a
summary for its slot or none; the memory is that of w, and no object and no other queue changed. -/
def State.tookTo (s t : State) (q : QueueId) (d : List Nat) (j : Option Job) (v : Option (Nat × Summary)) (w : State) : Prop :=
  s.tookOps t q d j.isNone []
    ∧ (∀ y ∈ (t.queue q).started, y.pos = (s.queue q).next → y.job = j ∧ (j = none → y.summary = v))
    ∧ (∀ r, r ≠ q → t.queue r = s.queue r) ∧ (∀ a : Place, t.byteAt a = w.byteAt a) ∧ ∀ e o, (t.die e).obj o = (s.die e).obj o

/-- A started descriptor that went on: it stands between two element blocks with job j, or with none it is done with a summary for its
slot or none; its queue has not moved, the memory is that of w, and no object and no other queue changed. -/
def State.wentTo (s t : State) (q : QueueId) (p : Pos) (j : Option Job) (v : Option (Nat × Summary)) (w : State) : Prop :=
  (t.queue q).next = (s.queue q).next ∧ (t.queue q).head = (s.queue q).head ∧ (t.queue q).status = (s.queue q).status
    ∧ (t.queue q).started.map (·.pos) = (s.queue q).started.map (·.pos)
    ∧ (∀ y ∈ (t.queue q).started, y.pos = p → y.job = j ∧ (j = none → y.done = true ∧ y.summary = v))
    ∧ (∀ r, r ≠ q → t.queue r = s.queue r) ∧ (∀ a : Place, t.byteAt a = w.byteAt a) ∧ ∀ e o, (t.die e).obj o = (s.die e).obj o

/-- A descriptor whose blocks failed while it ran: its queue halts there, unless an earlier descriptor halted it before (R81). -/
def State.blockFails (s : State) (r : Result) (q : QueueId) (p : Pos) (st : Nat) : Prop :=
  ∃ u : State, r = .next (State.blockBoundary (u.failJob q p st) q) ∧ (u.queue q).head = (s.queue q).head
    ∧ (u.queue q).cancels p = (s.queue q).cancels p

/-- The command halts its queue in front of the descriptor it would have started, with this status. -/
def State.halts (s : State) (r : Result) (q : QueueId) (st : Nat) : Prop :=
  ∃ u : State, r = .next (u.failAt q st (s.queue q).next) ∧ (u.queue q).head = (s.queue q).head

/-- A packet of this type reaches its row, is authentic and comes from the bound host; w is the machine once it has taken the
packet's time and acknowledgement fields. -/
def State.takes (s : State) (k : HostPacket) (type : Nat) (w : State) : Prop :=
  s.hostIn k [type] = true ∧ s.authentic k (s.chan k.channel).key = true ∧ (s.chan k.channel).bound k = true
    ∧ w = (s.updChan k.channel fun x => { x with echo := k.senderTime }).takeAck k

/-- A quire channel's command with this opcode is in hand, and R381, R389 and R437 let it run. -/
def State.dataReady (s : State) (c : ChanId) (seq op : Nat) (x : HostCmd) : Prop :=
  s.ready c seq op = some x ∧ s.hostPath = true ∧ s.frz.cut = none ∧ (s.power.st = .run ∨ s.power.st = .idle)

/-- A critical shutdown of a module that is on (R442): dark and Off, the cause latched, and from step 7 on an endpaper of this
instant with cause 3 being written. -/
def State.shutDown (s t : State) (cause : Nat) : Prop :=
  t.power.st = .off ∧ t.power.supply = .off ∧ t.power.cause = cause ∧ (∀ d, (t.die d).presence = .isolated)
    ∧ (7 ≤ s.boot.stage → ∃ p, t.flash.writing = some (p, .off) ∧ p.cause = 3 ∧ p.ft = s.now)
    ∧ (s.boot.stage < 7 → t.flash.writing = none)

/-- A firmware command with this opcode is in hand, outside recovery, and R389 and R412 let it run. -/
def State.firmwareReady (s : State) (seq op : Nat) (x : HostCmd) : Prop :=
  s.ready 0 seq op = some x ∧ s.boot.recovery = false ∧ s.hostPath = true ∧ 5 ≤ s.boot.stage ∧ s.governs = true

/-- A state from which the step goes on. -/
def Safe (s : State) : Prop := Result.completes (step s)

end Sys2Proof.Machine
end

