-- ==== Sys2Proof/Certificates/Slice0/Obligations.lean ====
section
/-! DEFINITION. The statements for the provers: what the commands of the module do, by family. -/

open Sys2Proof Sys2Proof.Machine

/-- A step with a command at the front of the queue is exec of that command on the machine with the queue's rest.
Rests on opcode_table.json. -/
def Obligations.StepRunsFrontCommand : Prop :=
  ∀ (c : Instr) (rest : List Instr) (s : State),
    step { s with pending := c :: rest } = exec c { s with pending := rest }

/-- With nothing waiting a step lets one nanosecond pass, and no word of the table spells a command. Rests on R10,
R38, R39, R40, R54, R225, R300, R306, notes/assumptions/2.md, opcode_table.json. -/
def Obligations.IdleStepsAndSpelling : Prop :=
  (∀ s : State, s.pending = [] → ∃ (t : State) (x : Fin 31 → Int), step s = .next t ∧ t.mono = s.mono + 1
     ∧ (∀ i, (x i = -1 ∨ x i = 0 ∨ x i = 1) ∧ (x i ≠ 0 → 49999 ≤ s.time.slewPhase ∧ t.time.slewPhase = 0))
     ∧ (s.time.slew ≠ 0 → ∀ i, t.time.slew = s.time.slew - x i)
     ∧ (∀ d : DieId, (t.die d).ft = addInt ((s.die d).ft + 1) (x ⟨d.val, by omega⟩) % 2 ^ 64)
     ∧ (∀ c : CtlId, t.ctlFt[c] = addInt (s.ctlFt[c] + 1) (x ⟨20 + c.val, by omega⟩) % 2 ^ 64)
     ∧ (∀ e : Fin 9, t.edgeFt[e] = addInt (s.edgeFt[e] + 1) (x ⟨22 + e.val, by omega⟩) % 2 ^ 64)
     ∧ (∀ d, t.die d = { s.die d with ft := (t.die d).ft, cycles := (t.die d).cycles, cyclePhase := (t.die d).cyclePhase,
                                      latent := (t.die d).latent, badSram := (t.die d).badSram, badDram := (t.die d).badDram,
                                      collCounts := (t.die d).collCounts })
     ∧ (∀ p, t.port p = { s.port p with egress := (t.port p).egress, backlog := (t.port p).backlog, reg := (t.port p).reg })
     ∧ (∀ p, s.portSends p = false → t.port p = s.port p) ∧ s.wire <+: t.wire
     ∧ t = { s with mono := t.mono, time := { s.time with slew := t.time.slew, slewPhase := t.time.slewPhase, devs := t.time.devs },
                    dies := t.dies, ctlFt := t.ctlFt, edgeFt := t.edgeFt, ports := t.ports, wire := t.wire })
  ∧ (∀ (nbits w : Nat), decodeTableWord nbits w = none ∧ ∀ s : State, s.withFetchWord nbits w = s)

/-- No command ends in a fault or a refusal: exec answers a next state for every command and every state. Rests on
opcode_table.json. -/
def Obligations.EveryCommandAnswersANextState : Prop :=
  ∀ (c : Instr) (s : State), ∃ t, exec c s = .next t

/-- Alignment and time symbols: what is sent, what a port learns, and which parent the module takes. Rests on R10,
R38, R39, R41, R42, R43, R47. -/
def Obligations.TimeSymbolsCarryAndTeachExchanges : Prop :=
  (∀ s : State, let k := s.now
    let near (ft : Nat) : Prop := ft ≤ k + 1 ∧ k ≤ ft + 1
    (s.time.firstLocked = false → ∃ f : Nat → Nat,
      exec .ftAlignmentSymbol s = .next { s with dies := s.dies.map (fun x => { x with ft := f x.ft }), ctlFt := s.ctlFt.map f,
                                                 edgeFt := s.edgeFt.map f, wire := s.wire ++ [.align k] }
      ∧ ∀ ft, ft < 2 ^ 64 → k < 2 ^ 64 → (near ft → f ft = ft) ∧ (¬ near ft → f ft = k))
    ∧ (s.time.firstLocked = true → ∃ v : Vector Int 31,
      exec .ftAlignmentSymbol s = .next { s with time := { s.time with devs := v }, wire := s.wire ++ [.align k] }
      ∧ (let lack (ft : Nat) (x : Int) : Prop := (near ft → x = 0) ∧ (¬ near ft → x = (k : Int) - ft)
         (∀ d : DieId, lack (s.die d).ft v[d.val]) ∧ (∀ c : CtlId, lack s.ctlFt[c] v[20 + c.val])
         ∧ (∀ e : Fin 9, lack s.edgeFt[e] v[22 + e.val]))))
  ∧ (∀ (p : PortId) (s : State), p.val < 44 → (s.port p).state = .up →
      ∃ sym : TimeSymbol, exec (.timeSymbolSend p) s = .next
          { s with ports := s.ports.set p { s.port p with time := { (s.port p).time with sent := some s.now } },
                   wire := s.wire ++ [.timeSymbol p sym] }
        ∧ sym.depart = s.now ∧ sym.rxDepart = (s.port p).time.rxDepart ∧ sym.rxArrive = (s.port p).time.rxArrive
        ∧ sym.epoch = s.time.epoch ∧ sym.schedule = s.gut.sched.ident)
  ∧ (∀ (p : PortId) (sym : TimeSymbol) (s : State), p.val < 44 → (s.port p).state = .up →
      ∃ t : State, exec (.timeSymbolReceive p sym) s = .next t
        ∧ (let y := (t.port p).time
           y.rxDepart = sym.depart ∧ y.rxArrive = s.now ∧ y.locked = sym.locked ∧ y.node = sym.node ∧ y.hops = sym.hops
           ∧ y.schedule = sym.schedule
           ∧ ((s.port p).time.sent ≠ none →
               let d : Int := (((s.now : Int) - sym.rxDepart) - ((sym.depart : Int) - sym.rxArrive)) * 500 - s.asym p
               y.delay = some d ∧ y.theta = some (((sym.rxArrive : Int) - sym.rxDepart) * 1000 - d)))
        ∧ (s.time.epoch < sym.epoch → t.time.epoch = sym.epoch ∧ t.time.master = false)
        ∧ (∀ q, t.time.parent = some q → t.time.master = false → t.candidate q = true ∧ ∀ r, t.candidate r = true →
            (t.port r).time.node = (t.port q).time.node →
            (t.port q).time.hops < (t.port r).time.hops ∨ ((t.port q).time.hops = (t.port r).time.hops ∧ q ≤ r))
        ∧ (∀ a : Place, t.byteAt a = s.byteAt a) ∧ t.now = s.now)

/-- The first lock starts fabric time, and the timing state and clock step commands. Rests on R10, R38, R40, R48,
R280, R39, R45, R46, R47, R49, R278. -/
def Obligations.FabricTimeStartsAndSteps : Prop :=
  (∀ s : State, s.time.firstLocked = false →
     let after (f : Nat → Nat) (m : Bool) : Prop := ∃ u : State,
       exec .firstLock s = .next (u.raise { code := 0x0601, unit := uCtl s.holder })
       ∧ (∀ d, u.die d = { s.die d with ft := f (s.die d).ft, startPair := ((s.die d).cycles, f (s.die d).ft),
                                        boundary := (f (s.die d).ft : Int), trace := (u.die d).trace })
       ∧ u = { s with dies := u.dies, ctlFt := s.ctlFt.map f, edgeFt := s.edgeFt.map f,
                      time := { s.time with lock := .locked, firstLocked := true, master := m, offset := 0, slew := 0,
                                            masterNode := if m then s.node else s.time.masterNode } }
     (s.setting 0x4101 1 = 1 →
       after (fun _ => max (if s.endValid then s.endFt + 1000000000 else 0) (s.setting 0x4101 3) % 2 ^ 64) true)
     ∧ (∀ p th, s.setting 0x4101 1 ≠ 1 → s.time.parent = some p → (s.port p).time.theta = some th →
         after (fun ft => addInt ft (th / 1000) % 2 ^ 64) false))
  ∧ ((∀ s : State, s.time.lock = .holdover →
       s.gut.sched.guard < 2 * (20 + (s.mono - s.time.lostAt + 999999) / 1000000) →
       exec .degradedHoldoverEntry s = .next (State.raise { s with time := { s.time with lock := .degraded } }
         { code := 0x0603, unit := uCtl s.holder }))
     ∧ (∀ (s : State) (t : Nat), s.time.noPathSince = some t → s.setting 0x4101 1 = 2 → s.time.master = false →
         s.time.firstLocked = true → t + s.setting 0x4101 2 * 1000000 ≤ s.mono →
         exec .masterLossTimeout s = .next (State.raise { s with time := { s.time with
             master := true, epoch := s.time.epoch + 1, masterNode := s.node, lock := .locked, parent := none,
             noPathSince := none, slew := 0 } } { code := 0x0606, unit := uCtl s.holder }))
     ∧ (∀ (s : State) (seq : Nat) (x : HostCmd), s.ready 0 seq 0x07 = some x → bits (x.qw 2) 63 60 = 3 →
         s.hostPath = true →
         (s.allStopped = true → ∃ u : State, exec (.ftStep seq) s = .next (u.finish 0 seq 0 [])
           ∧ (let δ : Int := (x.qw 3 : Int) - s.now
              (∀ d, let a := s.die d
                (u.die d).ft = addInt a.ft δ % 2 ^ 64 ∧ (u.die d).boundary = a.boundary + δ ∧ (u.die d).horizon = a.horizon + δ
                ∧ (u.die d).recs = a.recs.map (fun r => { r with last := r.last + δ })
                ∧ (u.die d).results = a.results.map (fun r => { r with ft := r.ft + δ })
                ∧ (u.die d).rel = a.rel.map (fun r => { r with ft := r.ft + δ })
                ∧ (u.die d).startPair = (a.cycles, addInt a.ft δ % 2 ^ 64))
              ∧ (∀ c : CtlId, u.ctlFt[c] = addInt s.ctlFt[c] δ % 2 ^ 64)
              ∧ (∀ e : Fin 9, u.edgeFt[e] = addInt s.edgeFt[e] δ % 2 ^ 64)
              ∧ u.gut.sched = { s.gut.sched with phase := s.gut.sched.phase + δ }
              ∧ u.gut.staged = s.gut.staged.map (fun c => ({ c.1 with phase := c.1.phase + δ }, c.2 + δ))
              ∧ u.gut.now = s.gut.now.map (fun g => { g with start := addInt g.start δ })
              ∧ u.topo.commit = s.topo.commit.map (fun c => (addInt c.1 δ, c.2)))
           ∧ (∀ a : Place, u.byteAt a = s.byteAt a) ∧ u.log = s.log ∧ u.host = s.host)
         ∧ (s.allStopped = false → exec (.ftStep seq) s = .next (s.finish 0 seq 0x06 []))))

/-- Gutters follow their schedule, and the window runs the waiting actions by priority. Rests on R49, R50, R51, R54,
R58, R433, R45, R55, R56. -/
def Obligations.GuttersRunTheirActions : Prop :=
  ((∀ (s : State) (c : Schedule) (t : Int), s.gut.staged = some (c, t) → t ≤ (s.now : Int) →
     exec .gutterScheduleTakesEffect s = .next { s with gut := { s.gut with sched := c, staged := none } })
   ∧ (∀ (s : State) (t ports : Nat),
       (t < s.now + 50000 → exec (.oneOffGutter t ports) s = .next (s.sendMgmt s.holder (.answer s.manager 0x05)))
       ∧ (s.now + 50000 ≤ t → ports = 0 → exec (.oneOffGutter t ports) s = .next s)
       ∧ (s.now + 50000 ≤ t → ports ≠ 0 →
           exec (.oneOffGutter t ports) s = .next { s with gut := { s.gut with oneOffs := s.gut.oneOffs ++ [(t, ports)] } }))
   ∧ (∀ (s : State) (g : Nat) (n : Int), let c := s.gut.sched
       s.gut.now = none → s.power.st = .run ∨ s.power.st = .idle → s.freezeDue = false →
       0 < c.period → (g : Int) = c.phase + n * c.period → g ≤ s.now → s.now < g + c.period →
       s.now < g + c.guard → s.gut.lastStart ≠ some g →
       exec .gutterStart s = .next { s with gut := { s.gut with
         now := some { start := g, length := c.length, guard := c.guard, ports := 2 ^ 48 - 1, once := false, opened := false,
                       closed := false, running := [] },
         lastStart := some g, oneOffs := s.gut.oneOffs.filter fun o => decide (s.now < o.1 + c.guard) } })
   ∧ (∀ (s : State) (g ports : Nat) (m : Nat), let c := s.gut.sched
       s.gut.now = none → s.power.st = .run ∨ s.power.st = .idle → s.freezeDue = false →
       0 < c.period → s.gut.lastStart = some m → s.now < m + c.period → m ≤ s.now →
       (∃ n : Int, (m : Int) = c.phase + n * c.period) →
       s.gut.oneOffs.find? (fun o => decide (o.1 ≤ s.now) && decide (s.now < o.1 + c.guard)) = some (g, ports) →
       exec .gutterStart s = .next { s with gut := { s.gut with
         now := some { start := g, length := c.length, guard := c.guard, ports := ports, once := true, opened := false,
                       closed := false, running := [] },
         oneOffs := s.gut.oneOffs.filter fun o => decide (s.now < o.1 + c.guard) && o.1 != g } }))
  ∧ ((∀ (s : State) (obs : WindowObs) (g : Gutter), s.gut.now = some g → g.opened = false → g.start + g.guard ≤ s.now →
       ∃ (t : State) (h : Gutter) (new : List Action), exec (.actionWindowOpen obs) s = .next t ∧ t.gut.now = some h
         ∧ h = { g with opened := true, running := h.running }
         ∧ h.running.Sublist (g.running ++ new) ∧ (obs.unsettled = [] → h.running = g.running ++ new)
         ∧ new.Pairwise (fun a b => priority a.kind ≤ priority b.kind ∧ clash b a = false)
         ∧ (∀ a ∈ new, (∀ b ∈ g.running, clash a b = false) ∧ g.includes a = true ∧ s.time.lock ≠ .unlocked
             ∧ (s.time.lock = .degraded → twoEnded a.kind = false))
         ∧ (∀ a : Place, t.byteAt a = s.byteAt a))
     ∧ (∀ (s : State) (running : List GutterRes) (g : Gutter), s.gut.now = some g → g.opened = true → g.closed = false →
         g.start + g.length ≤ s.now + g.guard →
         ∃ t : State, exec (.actionWindowClose running) s = .next t ∧ t.gut.now = some { g with closed := true }
           ∧ t.gut.overruns = s.gut.overruns + (g.running.filter fun a => decide (a.res ∈ running)).length
           ∧ (∀ a : Place, t.byteAt a = s.byteAt a))
     ∧ (∀ (s : State) (g : Gutter), s.gut.now = some g → g.closed = true → g.start + g.length ≤ s.now →
         ∃ t : State, exec .gutterEnd s = .next t ∧ t.gut = { s.gut with now := none }
           ∧ (∀ a : Place, t.byteAt a = s.byteAt a)))

/-- Stitches: a queue holds, the quire reports the stitch reached, the hold times out, a release lets the queues go
on. Rests on R59, R60, R87, R49, R460, R467. -/
def Obligations.StitchHoldsReportsAndReleases : Prop :=
  (∀ (q : QueueId) (s : State) (d : List Nat), (s.queue q).skip = 0 → s.front q = .ready d → dOp d = 6 →
    ((s.queue q).started = [] → ∃ t : State, exec (.stitch q) s = .next t
      ∧ (t.queue q).hold = some (qw d 4) ∧ (t.queue q).holdAt = s.mono
      ∧ (t.queue q).started = [{ startedOf (s.queue q).next d true with stack := (s.queue q).stack }] ∧ (t.queue q).next = (s.queue q).next.after
      ∧ (t.queue q).head = (s.queue q).head
      ∧ (∀ k, (s.die q.die).quire = some k → (t.quire k).heldSince = some ((s.quire k).heldSince.getD s.mono))
      ∧ (∀ a : Place, t.byteAt a = s.byteAt a) ∧ (∀ e o, (t.die e).obj o = (s.die e).obj o))
    ∧ ((s.queue q).started ≠ [] → exec (.stitch q) s = .next s))
  ∧ (∀ (k : QuireId) (s : State) (i : Nat), s.stitchIdentity k = some i → (s.quire k).reached = none → s.opsDone k = true →
      ∃ t : State, exec (.stitchReached k) s = .next t ∧ (t.quire k).reached = some (i, s.now)
        ∧ (t.quire k).stitch = (i, s.now) ∧ (∀ q, (t.queue q).hold = (s.queue q).hold)
        ∧ ∀ e o, (t.die e).obj o = (s.die e).obj o)
  ∧ (∀ (k : QuireId) (s : State) (m : Nat), (s.quire k).heldSince = some m → (s.quire k).timedOut = false →
      m + s.setting 0x4130 2 * 1000000 ≤ s.mono →
      exec (.stitchHoldTimeout k) s = .next (State.raise
        { s with quires := s.quires.set k { s.quire k with timedOut := true } } { code := 0x060C, unit := uQuire k }))
  ∧ (∀ (k : QuireId) (i ft : Nat) (s : State),
      (ft ≤ s.now → ∃ t : State, exec (.stitchRelease k i ft) s = .next t
        ∧ (∀ q ∈ s.stitchQueues k, (t.queue q).hold ≠ some i)
        ∧ (∀ q, (s.queue q).hold ≠ some i → (t.queue q).hold = (s.queue q).hold))
      ∧ (s.now < ft → exec (.stitchRelease k i ft) s = .next s))

/-- A freeze forms a cut by its rules, and a thaw ends it. Rests on R49, R61, R62, R64, R65, R66, R380, R282. -/
def Obligations.FreezeAndThaw : Prop :=
  ((∀ (s : State) (seq : Nat) (x : HostCmd), s.ready 0 seq 0x07 = some x → bits (x.qw 2) 63 60 = 1 →
     s.hostPath = true →
     (s.time.lock ≠ .unlocked → s.now + 50000 ≤ x.qw 3 →
       (s.frz.cut = none ∨ s.frz.thaws = [] ∨ ∃ w ws, s.frz.thaws = w :: ws ∧ w ≤ x.qw 3) →
       exec (.freeze seq) s = .next (State.finish
         { s with frz := { s.frz with pending := insertFt (x.qw 3) s.frz.pending } } 0 seq 0 []))
     ∧ (x.qw 3 < s.now + 50000 → exec (.freeze seq) s = .next (s.finish 0 seq 0x05 [])))
   ∧ (∀ (s : State) (t : Nat) (rest : List Nat), s.frz.pending = t :: rest → t ≤ s.now → (∀ k, (s.quire k).rollback = none) →
       (s.frz.cut ≠ none → exec .freezeInstant s = .next { s with frz := { s.frz with pending := rest } })
       ∧ (s.frz.cut = none → ∃ u : State, exec .freezeInstant s = .next u
           ∧ u.frz = { s.frz with pending := rest, cut := some {
               ft := t, since := s.mono, absent := allDies.filter fun d => (s.die d).presence != .inService, reported := false,
               named := false, unusable := false, paused := s.pause.isSome, rollback := false } }
           ∧ (∀ d v, (s.die d).presence = .inService → s.pause = none → s.inFlight d v = 0 → (s.getUnit d v).stopping = false →
               (u.getUnit d v).stopFt = some (s.die d).ft)
           ∧ (∀ d v, s.pause ≠ none → (u.getUnit d v) = (s.getUnit d v))
           ∧ (∀ a : Place, u.byteAt a = s.byteAt a)
           ∧ ∀ d, (u.die d).so = (s.die d).so ∧ (u.die d).cutHold = (s.die d).cutHold))
   ∧ (∀ (s : State) (d : DieId) (v : UnitId) (c : Cut), s.frz.cut = some c → (s.getUnit d v).stopFt = none →
       (s.getUnit d v).stopping = false → d ∉ c.absent → c.ft ≤ (s.die d).ft → s.pause = none →
       ∃ u : State, exec (.engineStopAtBoundary d v) s = .next (if c.ft + 2000 < (s.die d).ft ∨ c.paused = true
           then u.raise { code := 0x060A, unit := uUnit d v, detail := (s.die d).ft } else u)
         ∧ (u.getUnit d v).stopFt = some (s.die d).ft ∧ (∀ e w, (e, w) ≠ (d, v) → u.getUnit e w = s.getUnit e w)
         ∧ u = { s with dies := u.dies } ∧ ∀ a : Place, u.byteAt a = s.byteAt a)
   ∧ (∀ (s : State) (c : Cut), s.frz.cut = some c → c.reported = false →
       (∀ d v, d ∉ c.absent → ((s.getUnit d v).stopFt).isSome = true) →
       (∀ p, ∀ k ∈ (s.port p).egress ++ (s.port p).backlog, c.ft ≤ Body.stamp k.body) →
       ∃ stop : Nat, exec .moduleFrozen s = .next { s with
           frz := { s.frz with cut := some { c with reported := true } },
           wire := s.wire ++ [.frozen (sumNat ((allDies.filter fun d => decide (d ∉ c.absent)).map fun d => (s.die d).cutHold.length))
             stop c.absent] }
         ∧ (∀ d v ft, d ∉ c.absent → (s.getUnit d v).stopFt = some ft → ft ≤ stop)
         ∧ (stop = 0 ∨ ∃ d v, d ∉ c.absent ∧ (s.getUnit d v).stopFt = some stop))
   ∧ (∀ (s : State) (c : Cut), s.frz.cut = some c → c.reported = false → c.named = false →
       c.since + s.setting 0x4130 3 * 1000 ≤ s.mono →
       exec .freezeSettleTimeout s = .next { s with frz := { s.frz with cut := some { c with named := true } },
                                                    wire := s.wire ++ [.notQuiescent c.ft] }))
  ∧ ((∀ (s : State) (seq : Nat) (x : HostCmd), s.ready 0 seq 0x07 = some x → bits (x.qw 2) 63 60 = 2 →
       s.hostPath = true →
       (s.now + 50000 ≤ x.qw 3 → exec (.thaw seq) s = .next (State.finish
           { s with frz := { s.frz with thaws := insertFt (x.qw 3) s.frz.thaws } } 0 seq 0 []))
       ∧ (x.qw 3 < s.now + 50000 → exec (.thaw seq) s = .next (s.finish 0 seq 0x05 [])))
     ∧ (∀ (s : State) (t : Nat) (rest : List Nat), s.frz.thaws = t :: rest → t ≤ s.now →
         (s.frz.cut = none → exec .thawInstant s = .next { s with frz := { s.frz with thaws := rest } })
         ∧ (∀ c, s.frz.cut = some c → c.reported = true → c.rollback = false → s.heldFrozen c = false →
             ∃ u : State, exec .thawInstant s = .next u ∧ u.frz = { s.frz with thaws := rest, cut := none }
               ∧ (∀ d v, (u.getUnit d v).stopFt = none) ∧ (∀ d, (s.die d).presence = .inService → (u.die d).cutHold = [])
               ∧ ((∀ d, (s.die d).cutHold = [] ∧ (s.die d).inbound = []) → ∀ a : Place, u.byteAt a = s.byteAt a))))

/-- A member's commit exchange: pre-copy, PREPARE, VOTE, DECIDE, and the start and end of a rollback. Rests on R462,
R463, R464, R467, R468, R470. -/
def Obligations.CommitExchangeOfAMember : Prop :=
  (∀ (d : DieId) (s : State) (p : StitchPlan) (k : Fin 4) (g : Nat) (gs : List Nat), (s.die d).splan = some p → p.preCopy = true →
    (s.die d).quire = some k → (s.die d).pendingGranules = g :: gs → (s.die d).copy = none → (s.quire k).reached = none →
    (s.die d).presence = .inService →
    ∃ (t : State) (r : CopyRun), exec (.preCopyGranule d) s = .next t ∧ (t.die d).copy = some r ∧ r.early = true
      ∧ r.seq = (s.quire k).prepared + 1 ∧ r.left = [] ∧ r.bytes = 0
      ∧ ((s.readLocal d false ((s.die d).tracked.1 + g * 2097152) 2097152).2.1 = 0 → r.granule = g ∧ r.tagSent = false)
      ∧ ∀ a : Place, t.byteAt a = s.byteAt a)
  ∧ (∀ (r : MgmtRecord) (s : State) (k : Fin 4), s.acceptMgmt r 0x12 = some k → (s.quire k).reached ≠ none →
      (s.quire k).rollback = none →
      ∃ t : State, exec (.prepareReceive r) s = .next t ∧ (t.quire k).prep = some r.seq
        ∧ (t.quire k).prepared = max (s.quire k).prepared r.seq ∧ ∀ a : Place, t.byteAt a = s.byteAt a)
  ∧ (∀ (k : QuireId) (s : State) (n : Nat), (s.quire k).prep = some n →
      (∀ d ∈ s.diesOf k, ∀ c, (s.die d).copy = some c → c.ended = true) →
      ∃ (t : State) (v : MgmtRecord), exec (.stitchCopyComplete k) s = .next (t.sendMgr v) ∧ v.type = 0x13 ∧ v.seq = n
        ∧ v.count = sumNat ((s.diesOf k).filterMap fun d => (s.die d).copy.map (·.bytes))
        ∧ (∀ d ∈ s.diesOf k, t.die d = { s.die d with copy := none }) ∧ (∀ d ∉ s.diesOf k, t.die d = s.die d)
        ∧ t = { s with dies := t.dies })
  ∧ (∀ (r : MgmtRecord) (s : State) (k : Fin 4), s.acceptMgmt r 0x14 = some k → (s.quire k).rollback = none →
      (s.quire k).prep = some r.seq →
      ∃ t : State, t = { s.relayDown r with dies := t.dies, quires := t.quires } ∧ (t.quire k).release = some (r.identity, r.ft)
        ∧ (t.quire k).prep = none ∧ (∀ d ∉ s.diesOf k, t.die d = s.die d)
        ∧ (r.result = 0 → exec (.decideReceive r) s = .next (t.raise { code := 0x0816, unit := uQuire k, detail := r.seq })
            ∧ (t.quire k).lastCommitted = r.seq ∧ (t.quire k).invalid = false
            ∧ ∀ d ∈ s.diesOf k, (t.die d).copied = []
                ∧ (t.die d).dirty = (s.die d).dirty.filter fun g => decide (g ∉ (s.die d).copied))
        ∧ (r.result ≠ 0 → exec (.decideReceive r) s = .next
              (t.raise { code := 0x0817, unit := uQuire k, detail := r.result * 2 ^ 32 + r.seq })
            ∧ (t.quire k).lastCommitted = (s.quire k).lastCommitted
            ∧ ∀ d ∈ s.diesOf k, t.die d = { s.die d with copied := [] }))
  ∧ (∀ (r : MgmtRecord) (s : State) (k : Fin 4), s.acceptMgmt r 0x15 = some k → (s.quire k).rollback = none →
      exec (.rollbackReceive r) s = .next { s.relayDown r with
        quires := s.quires.set k { s.quire k with rollback := some (r.seq, r.ft), restoring := true, prep := none },
        frz := { s.frz with pending := insertFt r.ft s.frz.pending } })
  ∧ (∀ (k : QuireId) (images : List RestoreObs) (s : State) (c ft : Nat) (cut : Cut), (s.quire k).rollback = some (c, ft) →
      s.frz.cut = some cut → cut.rollback = true → (s.quire k).restoring = true →
      (∀ d ∈ s.diesOf k, (s.die d).presence ≠ .resetting) →
      ∃ t : State, exec (.rollbackRestoreComplete k images) s = .next t ∧ (t.quire k).lastCommitted = c
        ∧ (t.quire k).restoring = false ∧ (t.quire k).invalid = false ∧ (t.quire k).rollback = some (c, ft)
        ∧ ((∀ j, j ≠ k → (s.quire j).restoring = false) → t.frz.cut = none))

/-- Dictionary accesses are checked in order, and what is stored reads back. Rests on R380, R391, R394, R395, R396,
R406, R408. -/
def Obligations.DictionaryAccesses : Prop :=
  ((∀ (seq : Nat) (s : State) (r : DictReq), s.accessOf (.host seq) = some r → s.boot.recovery = false →
     s.hostPath = true → 5 ≤ s.boot.stage → s.governs = true → r.write = true → ownRow r = false → 4096 < r.len →
     exec (.dictWrite (.host seq)) s = .next (s.respond (.host seq) r 0x02 []))
   ∧ ∀ (a : Access) (s : State) (r : DictReq), s.serves a r →
     (r.write = true → ownRow r = false →
       let ends (st : Nat) : Prop := exec (.dictWrite a) s = .next (s.respond a r st [])
       ((∀ e ∈ objectTable, e.hasIndex r.idx = false) → ends 0x50)
       ∧ ((∃ e ∈ objectTable, e.hasIndex r.idx = true) → r.sub ≠ 0 → (∀ e ∈ objectTable, e.covers r.idx r.sub = false) → ends 0x51)
       ∧ (s.absentUnit r = true → ends 0x03)
       ∧ (∀ e, findEntry r.idx r.sub = some e → r.sub ≠ 0 → s.absentUnit r = false → e.acc = .ro ∨ e.acc = .const → ends 0x52)
       ∧ ∀ e, accessEntry r = .ok e →
           (r.len = 0 → ends 0)
           ∧ (r.len ≠ 0 → some r.len ≠ e.size → ends 0x53)
           ∧ (r.len ≠ 0 → some r.len = e.size → r.data.length = r.len →
               let v := s.unreserved r.idx r.sub (leNat r.data)
               (reservedValue r.idx r.sub v = true → ends 0x01)
               ∧ (reservedValue r.idx r.sub v = false → s.inRange e r.idx r.sub v = false → ends 0x02)
               ∧ (reservedValue r.idx r.sub v = false → s.inRange e r.idx r.sub v = true →
                   (s.chanOpen r = true → ends 0x0C)
                   ∧ (s.chanOpen r = false → e.acc = .rwq → (∃ k ∈ s.concerned r v, s.quireStopped k = false) → ends 0x06)
                   ∧ (s.chanOpen r = false → (e.acc = .rwq → ∀ k ∈ s.concerned r v, s.quireStopped k = true) →
                       ∃ t : State, exec (.dictWrite a) s = .next (t.respond a r 0 [])
                         ∧ t = { s.setSetting r.idx r.sub v with mgr := t.mgr } ∧ (r.idx ≠ 0x4350 → t.mgr = s.mgr)))))
     ∧ (r.write = false → flagRead r = false → logRead r = false →
         (r.sub = 0 → (∃ e ∈ objectTable, e.hasIndex r.idx = true) →
           exec (.dictRead a) s = .next (s.respond a r 0 (leBytes 1 (highestSub r.idx))))
         ∧ (∀ e, findEntry r.idx r.sub = some e → r.sub ≠ 0 →
             (e.acc = .wo → exec (.dictRead a) s = .next (s.respond a r 0x52 []))
             ∧ (e.acc ≠ .wo → exec (.dictRead a) s
                 = .next ((s.readValue e r.idx r.sub).1.respond a r 0 (s.readValue e r.idx r.sub).2)))))
  ∧ (∀ (s : State) (idx sub v : Nat), SMap.sorted s.dict 0 = true →
       (s.setSetting idx sub v).setting idx sub = v
       ∧ (∀ i j, dictKey i j ≠ dictKey idx sub → (s.setSetting idx sub v).setting i j = s.setting i j)
       ∧ SMap.sorted (s.setSetting idx sub v).dict 0 = true
       ∧ s.setSetting idx sub v = { s with dict := (s.setSetting idx sub v).dict })

/-- Writes with rows of their own: gutter schedule, quire assignment, folio join, seed, region sizes, spread share.
Rests on R35, R37, R51, R109, R150, R176, R232, R234, R280, R309. -/
def Obligations.DictionaryRowsOfTheirOwn : Prop :=
  ∀ (a : Access) (s : State) (r : DictReq) (v : Nat), s.serves a r → s.passes r v → r.write = true → r.sub ≠ 0 →
    (r.idx = 0x4120 → r.sub = 5 →
      (s.stagedSchedule.ok = false → exec (.gutterEffectiveFtWrite a) s = .next (s.respond a r 0x02 []))
      ∧ (s.stagedSchedule.ok = true → v < s.now + 1000000 → exec (.gutterEffectiveFtWrite a) s = .next (s.respond a r 0x05 []))
      ∧ (s.stagedSchedule.ok = true → s.now + 1000000 ≤ v →
          let u : State := { s with gut := { s.gut with staged := some (s.stagedSchedule, (v : Int)) } }
          let sent := (s.members.filter (· ≠ s.node)).map fun n => Out.schedule n s.stagedSchedule v
          exec (.gutterEffectiveFtWrite a) s = .next
            (((if s.isManager then u.sendMgmtAll s.holder sent else u).setSetting 0x4120 5 v).respond a r 0 [])))
    ∧ (∀ d : DieId, r.idx = 0x2020 → r.sub = d.val + 1 →
        let new := quireOfValue v
        let room := s.fits d (match new with
          | some k => s.setting 0x2100 (k.val + 1) * gib
          | none => 0)
        let old := (s.die d).quire.or (s.die d).joining
        (room = false → exec (.quireAssignmentWrite a) s = .next (s.respond a r 0x02 []))
        ∧ (room = true → old = new → exec (.quireAssignmentWrite a) s = .next (s.respond a r 0 []))
        ∧ (room = true → old ≠ new → (∃ k, (old = some k ∨ new = some k) ∧ s.quireStopped k = false) →
            exec (.quireAssignmentWrite a) s = .next (s.respond a r 0x06 []))
        ∧ (room = true → old ≠ new → (∀ k, old = some k ∨ new = some k → s.quireStopped k = true) →
            (s.die d).zeroing = false →
            ∃ t : State, exec (.quireAssignmentWrite a) s = .next (t.respond a r 0 [])
              ∧ ((t.die d).zeroing = false → (t.die d).quire = new ∧ (t.die d).joining = none)
              ∧ ((t.die d).zeroing = true → (t.die d).quire = none ∧ (t.die d).joining = new)
              ∧ (t.die d).epoch = ((s.die d).epoch + 1) % 65536 ∧ (t.die d).boundary = (s.die d).ft + 1000
              ∧ ((s.die d).quire ≠ none → (∀ c : CtxId, (t.die d).ctx[c] = Ctx.reset) ∧ (t.die d).rel = []
                  ∧ ∀ i : Fin 32, (t.die d).flags[i] = flagsClear)
              ∧ ((t.die d).zeroing = true ↔ ∃ k, new = some k ∧ k ≠ (s.die d).lastQuire)
              ∧ t.dict = (s.setSetting 0x2020 r.sub v).dict ∧ ∀ e, e ≠ d → (t.die e).quire = (s.die e).quire ∧ (t.die e).ctx = (s.die e).ctx))
    ∧ (∀ d : DieId, r.idx = 0x2030 → r.sub = d.val + 1 →
        let lost (f : Fin 2) : Prop := bit v f.val = true ∧ (s.folioDisabled d f.val = true
          ∨ ∃ e : Fin 4, e.val / 2 = f.val ∧ (s.die d).mx[e].removed = true)
        ((∃ f, lost f) → exec (.folioJoinWrite a) s = .next (s.respond a r 0x03 []))
        ∧ ((¬ ∃ f, lost f) → s.dieQuireStopped d = false → exec (.folioJoinWrite a) s = .next (s.respond a r 0x06 []))
        ∧ ((¬ ∃ f, lost f) → s.dieQuireStopped d = true →
            exec (.folioJoinWrite a) s = .next ((s.setSetting 0x2030 r.sub v).respond a r 0 [])))
    ∧ (∀ k : Fin 4, r.idx = 0x2070 → r.sub = k.val + 1 →
        (s.quireStopped k = false → exec (.seedWrite a) s = .next (s.respond a r 0x06 []))
        ∧ (s.quireStopped k = true → ∃ t : State, exec (.seedWrite a) s = .next (t.respond a r 0 [])
            ∧ t.dict = (s.setSetting 0x2070 r.sub v).dict
            ∧ (∀ d ∈ s.diesOf k, ∀ c x, (t.getCtx d c).colophon = some x → x.invalid = true)
            ∧ (∀ p : Place, t.byteAt p = s.byteAt p)))
    ∧ (r.idx = 0x2101 ∨ r.idx = 0x2072 ∨ r.idx = 0x6010 ∨ r.idx = 0x6020 →
        (s.allStopped = false → exec (.regionSizeWrite a) s = .next (s.respond a r 0x06 []))
        ∧ (s.allStopped = true → ∃ t : State, exec (.regionSizeWrite a) s = .next (t.respond a r 0 [])
            ∧ t.dict = (s.setSetting r.idx r.sub v).dict ∧ ∀ d, (t.die d).sram = (s.die d).sram ∧ (t.die d).so = (s.die d).so))
    ∧ (∀ k : Fin 4, r.idx = 0x2100 → r.sub = k.val + 1 →
        (s.quireStopped k = false → exec (.spreadShareWrite a) s = .next (s.respond a r 0x06 []))
        ∧ (s.quireStopped k = true → exec (.spreadShareWrite a) s = .next ((s.setSetting 0x2100 r.sub v).respond a r 0 [])))

/-- Reads that change what they read, the settings store, and zeroing. Rests on R154, R156, R456, R37, R397. -/
def Obligations.ReadEffectsAndTheSettingsStore : Prop :=
  (∀ (a : Access) (s : State) (r : DictReq), s.serves a r → r.write = false →
     (∀ (d : DieId) (c : CtxId) (e : Fin 4), r.idx = 0x2080 + d.val → r.sub = 1 + 4 * c.val + e.val →
       (s.folioDisabled d (e.val / 2) = false → exec (.flagWordRead a) s = .next
         ((s.updDie d fun x => { x with flags := x.flags.set (flagIndex e c) flagsClear }).respond a r 0
           (leBytes 8 (s.die d).flags[flagIndex e c])))
       ∧ (s.folioDisabled d (e.val / 2) = true → exec (.flagWordRead a) s = .next (s.respond a r 0x03 [])))
     ∧ (r.idx = 0x5000 → r.sub = 2 →
         (∀ e rest, s.log.recs = e :: rest →
           exec (.eventLogRead a) s = .next (State.respond { s with log := { s.log with recs := rest } } a r 0 e.bytes))
         ∧ (s.log.recs = [] → exec (.eventLogRead a) s = .next (s.respond a r 0 (List.replicate 32 0)))))
  ∧ ((∀ (a : Access) (s : State) (r : DictReq), s.serves a r → r.write = true → r.sub = 1 → r.len = 4 →
       (r.idx = 0x1010 → r.data = leBytes 4 0x65766173 →
         (s.flash.saving = none → exec (.saveSettings a) s
           = .next (State.waitSave { s with flash := { s.flash with saving := some s.saved } } a))
         ∧ (s.flash.saving ≠ none → exec (.saveSettings a) s = .next s))
       ∧ (r.idx = 0x1011 → r.data = leBytes 4 0x64616F6C → s.flash.saving = none →
           exec (.eraseSettings a) s = .next (State.respond { s with flash := { s.flash with store := none } } a r 0 [])))
     ∧ (∀ (s : State) (m : SMap Nat), s.flash.saving = some m →
         ∃ t : State, exec .settingsSaveComplete s = .next t ∧ t.flash.store = some { vals := m, keysOk := true }
           ∧ t.flash.saving = none ∧ t.flash.saveWait = [] ∧ t.dict = s.dict ∧ t.dies = s.dies)
     ∧ (∀ s : State, ∃ t : State, exec .quireZeroingComplete s = .next t ∧ ∀ d,
         ((s.die d).zeroing = true → (t.die d).zeroing = false ∧ (t.die d).quire = (s.die d).joining ∧ (t.die d).dram = [] ∧ (t.die d).sram = []
           ∧ (∀ o, (t.die d).obj o = 0) ∧ (t.die d).recs = [] ∧ (t.source (srcOf d)).ops = [] ∧ (t.source (srcOf d)).keys = [])
         ∧ ((s.die d).zeroing = false → t.die d = s.die d ∧ t.source (srcOf d) = s.source (srcOf d))))

/-- What stands at the front of a queue, and what a failed descriptor does to it. Rests on R50, R70, R72, R79, R81,
R82. -/
def Obligations.QueueFrontsAndFailures : Prop :=
  (∀ (s s1 : State) (q : QueueId) (bs : List Byte), s.queueLive q = true → s.frozenDie q.die = false →
     (s.die q.die).intakeFrozen = false → s.running = true →
     (let p := (s.queue q).placeOf (s.queue q).next
      s.readLocal q.die p.1 p.2 64 = (s1, 0, bs)) →
     let d := quads bs
     (1 ≤ dOp d → dOp d ≤ 6 →
       let met : Prop := (bit (qw d 0) 52 = true → (s.queue q).started = [])
         ∧ (bit (qw d 0) 55 = true → bits (qw d 1) 63 32 ≤ (s.die q.die).obj (bits (qw d 0) 43 32))
         ∧ (bit (qw d 0) 53 = true → (s.queue q).gateOpen = true ∨ (qw d 3 ≤ (s.die q.die).ft ∧ s.calm 4 = true))
       (met → s.front q = .ready d) ∧ (¬ met → s.front q = .idle))
     ∧ ((dOp d = 0 ∨ (7 ≤ dOp d ∧ dOp d ≤ 0x0F)) → s.front q = .fails s1 0x01))
  ∧ (∀ (s : State) (q : QueueId) (st : Nat) (p : Pos), s.canonical → st ≠ 0 →
       let x := s.getCtx q.die q.ctx
       let t := s.failAt q st p
       (s.queue q).cancels p = false → (x.errOn = true → (s.die q.die).isDoorbell x.errSo = false) →
       (t.queue q).status = st ∧ (t.queue q).haltPos = some p ∧ (t.queue q).next = p ∧ (t.queue q).head = (s.queue q).head
       ∧ (t.queue q).started = ((s.queue q).started.takeWhile fun e => decide (e.pos ≠ p))
           ++ (((s.queue q).started.dropWhile fun e => decide (e.pos ≠ p)).drop 1).map (fun e => { e with cancelled := true })
       ∧ (∀ r, r ≠ q → t.queue r = s.queue r)
       ∧ (∀ e o, (t.die e).obj o = if x.errOn = true ∧ e = q.die ∧ o = x.errSo then ((s.die e).obj o + 1) % 2 ^ 32 else (s.die e).obj o))

/-- The common descriptors, retirement, gates and held releases. Rests on R79, R84, R85, R86, R89, R91, R92, R49, R50,
R76, R80, R88. -/
def Obligations.DescriptorsStartAndRetire : Prop :=
  (∀ (q : QueueId) (s : State) (d : List Nat), s.canonical →
     let p := (s.queue q).next
     let moved (t : State) (next : Pos) : Prop := (t.queue q).next = next
       ∧ (t.queue q).started = (s.queue q).started ++ [{ startedOf p d true with stack := (s.queue q).stack }] ∧ (t.queue q).head = (s.queue q).head
       ∧ (t.queue q).status = (s.queue q).status ∧ (∀ r, r ≠ q → t.queue r = s.queue r) ∧ ∀ a : Place, t.byteAt a = s.byteAt a
     (s.atFront q 1 d → ∃ t : State, exec (.nop q) s = .next t ∧ moved t p.after ∧ t = { s with dies := t.dies }
       ∧ ∀ e o, (t.die e).obj o = (s.die e).obj o)
     ∧ (s.atFront q 2 d → ∃ t : State, exec (.wait q) s = .next t ∧ moved t p.after ∧ t = { s with dies := t.dies }
       ∧ ∀ e o, (t.die e).obj o = (s.die e).obj o)
     ∧ (s.atFront q 3 d →
         (bits (qw d 4) 63 60 ≠ 1 → bits (qw d 4) 63 60 ≠ 2 → exec (.signal q) s = .next (s.failAt q 0x01 p))
         ∧ ∀ o, (gaddr (qw d 5)).place = .ok (.obj q.die o) → (gaddr (qw d 5)).node = s.node → (s.die q.die).isDoorbell o = false →
             let v := bits (qw d 4) 31 0
             let old := (s.die q.die).obj o
             (∀ add : Bool, bits (qw d 4) 63 60 = (if add then 1 else 2) → qw d 6 ≤ (s.die q.die).ft →
               ∃ t : State, exec (.signal q) s = .next t ∧ moved t p.after
                 ∧ ∀ e k, (t.die e).obj k = if e = q.die ∧ k = o then (if add then (old + v) % 2 ^ 32 else v) else (s.die e).obj k)
             ∧ ((bits (qw d 4) 63 60 = 1 ∨ bits (qw d 4) 63 60 = 2) → (s.die q.die).ft < qw d 6 → (s.die q.die).rel.length < 256 →
                 ∃ t : State, exec (.signal q) s = .next t ∧ moved t p.after
                   ∧ (t.die q.die).rel = (s.die q.die).rel
                       ++ [{ ft := qw d 6, obj := o, set := decide (bits (qw d 4) 63 60 = 2), val := v }]
                   ∧ ∀ e k, (t.die e).obj k = (s.die e).obj k))
     ∧ (s.atFront q 4 d →
         (s.condStatus q d ≠ 0 → exec (.cond q) s = .next (s.failAt q (s.condStatus q d) p))
         ∧ (s.condStatus q d = 0 →
             let holds := ((s.getCtx q.die q.ctx).su.getD (bits (qw d 4) 51 48) Summary.zero).test (bits (qw d 4) 55 53)
               (bits (qw d 4) 59 56) (bits (qw d 4) 31 0)
             (holds = false → ∃ t : State, exec (.cond q) s = .next t ∧ moved t p.after ∧ (t.queue q).skip = 0)
             ∧ (holds = true → bits (qw d 4) 63 60 = 1 → ∃ u : State, exec (.cond q) s
                 = .next (State.settleSkip (bits (qw d 4) 47 32) u q) ∧ moved u p.after ∧ (u.queue q).skip = bits (qw d 4) 47 32
                 ∧ (u.queue q).skipK = bit (qw d 4) 52)
             ∧ (holds = true → bits (qw d 4) 63 60 = 2 → (s.queue q).stack.length < 4 → ∃ t : State, exec (.cond q) s = .next t
                 ∧ moved t (.list (bits (qw d 5) 47 44 == 1) (bits (qw d 5) 43 0) ((s.queue q).visits + 1)) ∧ (t.queue q).stack = p.after :: (s.queue q).stack)
             ∧ (holds = true → bits (qw d 4) 63 60 = 2 → 4 ≤ (s.queue q).stack.length →
                 ∃ u : State, exec (.cond q) s = .next (u.failAt q 0x07 p) ∧ u.queue q = s.queue q)))
     ∧ (s.atFront q 5 d →
         (∀ back rest, (s.queue q).stack = back :: rest →
           ∃ t : State, exec (.ret q) s = .next t ∧ moved t back ∧ (t.queue q).stack = rest)
         ∧ ((s.queue q).stack = [] → exec (.ret q) s = .next (s.failAt q 0x08 p))))
  ∧ ((∀ (q : QueueId) (s : State) (e : Started) (rest : List Started), s.canonical → (s.getCtx q.die q.ctx).state = .running →
       s.frozenDie q.die = false → s.running = true → s.headDone q = true → (s.queue q).started = e :: rest → e.summary = none → e.cancelled = false →
       ((dSignal e.qws = false ∨ e.signalled = true) → ∃ t : State, exec (.descriptorComplete q) s = .next t
         ∧ t.queue q = { s.queue q with started := rest, head := match e.pos with
             | .ring n => (n + 1) % 2 ^ 32
             | .list .. => (s.queue q).head }
         ∧ (∀ r, r ≠ q → t.queue r = s.queue r) ∧ (∀ d o, (t.die d).obj o = (s.die d).obj o) ∧ t = { s with dies := t.dies }
         ∧ ∀ a : Place, t.byteAt a = s.byteAt a)
       ∧ (∀ o, dSignal e.qws = true → e.signalled = false → (gaddr (qw e.qws 2)).place = .ok (.obj q.die o) →
           (gaddr (qw e.qws 2)).node = s.node → (s.die q.die).isDoorbell o = false →
           ∃ t : State, exec (.descriptorComplete q) s = .next t ∧ (t.queue q).started = rest
             ∧ (∀ d k, (t.die d).obj k = if d = q.die ∧ k = o then ((s.die d).obj k + bits (qw e.qws 1) 31 0) % 2 ^ 32
                 else (s.die d).obj k)
             ∧ ∀ a : Place, t.byteAt a = s.byteAt a))
     ∧ (∀ (q : QueueId) (s : State), s.queueLive q = true → dGate (s.peekNext q) = true → dGateFt (s.peekNext q) ≤ (s.die q.die).ft →
         s.calm 4 = true →
         exec (.gateFtReached (.queue q)) s = .next (s.updQueue q fun x => { x with gateOpen := true }))
     ∧ (∀ (c : ChanId) (seq : Nat) (s : State) (x : HostCmd), (s.chan c).cmd seq = some x → bit (x.qw 0) 54 = true →
         x.qw 1 ≤ s.now → x.started = false → s.calm (if x.op = 0x10 then 2 else 4) = true →
         exec (.gateFtReached (.command c seq)) s
           = .next (s.updChan c fun y => y.updCmd seq fun z => { z with gateOpen := true }))
     ∧ (∀ (d : DieId) (s : State) (r : Release), s.canonical → (s.die d).dueRelease = some r →
         s.calm 4 = true → (∀ n, n < d → (s.die n).dueRelease = none) →
         r ∈ (s.die d).rel ∧ r.ft ≤ ((s.die d).ft : Int)
         ∧ (∀ y ∈ (s.die d).rel, y.ft ≤ ((s.die d).ft : Int) → r.ft < y.ft ∨ (r.ft = y.ft ∧ r.obj ≤ y.obj))
         ∧ (r.set = true → (s.die d).isDoorbell r.obj = true → ∃ u : State,
             exec (.heldReleaseApply d) s = .next (u.raise { code := 0x081F, unit := uSo d r.obj })
             ∧ u = s.updDie d fun x => { x with rel := x.rel.erase r })
         ∧ ((s.die d).isDoorbell r.obj = false → ∃ t : State, exec (.heldReleaseApply d) s = .next t
             ∧ (t.die d).rel = (s.die d).rel.erase r
             ∧ ∀ e k, (t.die e).obj k = if e = d ∧ k = r.obj then
                 (if r.set then r.val else ((s.die d).obj k + r.val) % 2 ^ 32) else (s.die e).obj k)))

/-- Context operations, preemption, save and restore. Rests on R74, R75, R76, R77, R82, R97, R98, R526, R62, R95, R96,
R282. -/
def Obligations.ContextsAndPreemption : Prop :=
  (∀ (c : ChanId) (seq : Nat) (s : State) (d : DieId) (x : CtxId),
     let st := (s.getCtx d x).state
     (s.contextReady c seq 1 d x →
       (st ≠ .empty → exec (.load c seq) s = .next (s.finish c seq 0x0C []))
       ∧ (st = .empty → ∀ y, s.ready c seq 0x04 = some y → s.localOk d false (y.qw 3) 2048 = true → y.qw 3 % 4096 = 0 →
           ∀ b, (s.readLocal d false (y.qw 3) 2048).2 = (0, b) →
             let r := parseCtx b
             (s.loadStatus d r ≠ 0 → exec (.load c seq) s = .next ((s.readLocal d false (y.qw 3) 2048).1.finish c seq (s.loadStatus d r) []))
             ∧ (s.loadStatus d r = 0 → ∃ u : State, exec (.load c seq) s = .next (u.finish c seq 0 [])
                 ∧ u.getCtx d x = { Ctx.reset with state := .loaded, priority := r.priority, saveArea := r.saveArea, errOn := r.errOn,
                                                   errSo := r.errSo, preempt := r.preempt, recOff := y.qw 3, q := r.queues }
                 ∧ (∀ k : Fin 72, r.queues[k].status = 0 ∧ r.queues[k].head = 0)
                 ∧ (∀ e : Fin 4, (u.die d).flags[flagIndex e x] = flagsClear)
                 ∧ ∀ e o, (u.die e).obj o = (s.die e).obj o)))
     ∧ (s.contextReady c seq 2 d x →
         ((st = .loaded ∨ st = .stopped) → ∃ u : State, exec (.start c seq) s = .next (u.finish c seq 0 [])
           ∧ (u.getCtx d x).state = .running
           ∧ ((∀ r : Fin 72, (s.getCtx d x).q[r].enabled = true → (s.die d).backlog (s.getCtx d x).q[r] ≤ 2 ^ (s.getCtx d x).q[r].log2) →
               u = s.updCtx d x fun z => { z with state := .running }))
         ∧ (st ≠ .loaded → st ≠ .stopped → exec (.start c seq) s = .next (s.finish c seq 0x0C [])))
     ∧ (s.contextReady c seq 3 d x →
         (st = .running → s.busyUnits d x = [] → ∃ u : State, exec (.stop c seq) s = .next (u.finish c seq 0 [])
           ∧ (u.getCtx d x).state = .stopped ∧ (u.getCtx d x).q = (s.getCtx d x).q ∧ ∀ e o, (u.die e).obj o = (s.die e).obj o)
         ∧ (st = .running → s.busyUnits d x ≠ [] → ∃ u : State, exec (.stop c seq) s = .next u
             ∧ (u.getCtx d x).state = .stopping ∧ (u.getCtx d x).stopCmd = some (c, seq)
             ∧ (∀ v ∈ s.busyUnits d x, (u.getUnit d v).stopping = true) ∧ ∀ a : Place, u.byteAt a = s.byteAt a)
         ∧ (st ≠ .running → exec (.stop c seq) s = .next (s.finish c seq 0x0C [])))
     ∧ (s.contextReady c seq 4 d x →
         ((st = .loaded ∨ st = .stopped ∨ st = .faulted) → ∃ u : State, exec (.unload c seq) s = .next (u.finish c seq 0 [])
           ∧ u.getCtx d x = Ctx.reset ∧ (∀ e : Fin 4, ∀ r ∈ (u.die d).mx[e].runs, r.q.ctx ≠ x)
           ∧ ∀ e o, (u.die e).obj o = (s.die e).obj o)
         ∧ ((st = .empty ∨ st = .running ∨ st = .stopping) → exec (.unload c seq) s = .next (s.finish c seq 0x0C [])))
     ∧ (s.contextReady c seq 5 d x →
         (st = .stopped → ∀ y, s.ready c seq 0x04 = some y → ∀ r : Fin 72, bits (y.qw 2) 38 32 = r.val →
           ∃ u : State, exec (.clear c seq) s = .next (u.finish c seq 0 [])
             ∧ u.queue ⟨d, x, r⟩ = { s.queue ⟨d, x, r⟩ with status := 0, haltPos := none,
                                                              started := (s.queue ⟨d, x, r⟩).started.filter fun e => !e.cancelled }
             ∧ ∀ o, o ≠ ⟨d, x, r⟩ → u.queue o = s.queue o)
         ∧ (st ≠ .stopped → exec (.clear c seq) s = .next (s.finish c seq 0x0C []))))
  ∧ ((∀ (d : DieId) (v : UnitId) (x b : CtxId) (s : State), (s.getUnit d v).bound = some b → b ≠ x → (s.getUnit d v).stopping = false →
       (s.getCtx d b).preempt = true → (s.getCtx d b).state = .running → 0 < s.inFlight d v →
       (s.getCtx d b).priority < (s.getCtx d x).priority → s.wants d v x = true → s.frozenDie d = false →
       ∃ u : State, exec (.preemption d v x) s = .next (u.raise { code := 0x0802, unit := uUnit d v, ctx := some b.val })
         ∧ u.getUnit d v = { s.getUnit d v with stopping := true } ∧ u = { s with dies := u.dies }
         ∧ (∀ e, (u.die e).ctx = (s.die e).ctx) ∧ ∀ a : Place, u.byteAt a = s.byteAt a)
     ∧ (∀ (d : DieId) (v : UnitId) (b : CtxId) (s : State), (s.getUnit d v).bound = some b → (s.getUnit d v).stopping = true →
         s.repliesDue d v b = false →
         (∃ t : State, exec (.engineSaveComplete d v true) s = .next t ∧ (t.getCtx d b).state = .faulted)
         ∧ ((s.getCtx d b).saveArea + saveSize ≤ s.localSize d → s.localSize d ≤ windowBase → (s.die d).badDram = [] →
             ∃ t : State, exec (.engineSaveComplete d v false) s = .next t ∧ (t.getUnit d v).bound = none
               ∧ (t.getUnit d v).stopping = false ∧ v ∈ (t.getCtx d b).saved
               ∧ (∀ cmd, (s.getCtx d b).stopCmd = some cmd →
                   ((t.getCtx d b).state = .stopped ↔ (∀ w ∈ (s.getCtx d b).savesLeft, w = v) ∨ (s.getCtx d b).state = .stopped))))
     ∧ (∀ (d : DieId) (v : UnitId) (b : CtxId) (s : State), s.restoreNext d v = some b →
         (∀ c, s.nextCtx d v = some c → (s.getCtx d c).priority ≤ (s.getCtx d b).priority) → s.inFlight d v = 0 →
         (s.getUnit d v).stopping = false → s.frozenDie d = false →
         (∃ t : State, exec (.engineRestoreComplete d v true) s = .next t ∧ (t.getCtx d b).state = .faulted)
         ∧ ∀ (u : State) (bs : List Byte),
             s.readLocal d false ((s.getCtx d b).saveArea + (saveExtent v).1) (saveExtent v).2 = (u, 0, bs) →
             (v.val < 4 → s.joined d (v.val / 2) = true →
               (s.readLocal d false ((s.getCtx d b).saveArea + 0x80000 * (v.val + 1)) 0x80000).2.1 = 0) →
             ∃ t : State, exec (.engineRestoreComplete d v false) s = .next t ∧ (t.getUnit d v).bound = some b
               ∧ v ∉ (t.getCtx d b).saved ∧ (∀ h : v.val < 4, (t.die d).mx[v.val].banks = banksOf bs)
               ∧ ∀ a : Place, t.byteAt a = s.byteAt a))

/-- A canonical combination gives one result whatever the order and grouping of its terms. Rests on R164, R165, R168,
R169. -/
def Obligations.CanonicalCombinationIgnoresOrder : Prop :=
  (∀ (ts us : List F32) (a : Int) (wide : Bool), ts.Perm us →
    anchorOf ts = anchorOf us ∧ afxSum ts a (afxW wide) = afxSum us a (afxW wide) ∧ canonCombine ts a wide = canonCombine us a wide)
  ∧ ∀ (ts us : List F32) (a : Int) (w : Nat),
      afxSum (ts ++ us) a w = afxAdd (afxSum ts a w) (afxSum us a w) ∧ anchorOf (ts ++ us) = max (anchorOf ts) (anchorOf us)

/-- A matrix multiply starts, the matrix self test, and spare rows. Rests on R111, R119, R120, R121, R122, R150, R101,
R109, R126, R127, R128, R482. -/
def Obligations.MatrixWorkAndSelfTest : Prop :=
  (∀ (q : QueueId) (s : State) (d : List Nat), s.atFront q 0x10 d →
     let p := (s.queue q).next
     let e := engineOf q
     (reservedMma d = true → exec (.mma q) s = .next (s.failAt q 0x01 p))
     ∧ (reservedMma d = false → s.engineAbsent q.die e = true → exec (.mma q) s = .next (s.failAt q 0x03 p))
     ∧ (reservedMma d = false → s.engineAbsent q.die e = false → ∀ a b c, (s.mmaTensors q d).2 = (0, a, b, c) →
         let u := (s.mmaTensors q d).1
         let st := u.mmaStatus q (qw d 7) a b c
         (st ≠ 0 → exec (.mma q) s = .next (u.failAt q st p))
         ∧ (st = 0 →
             (a.1.size 0 = b.1.size 0 ∧ a.1.size 1 = c.1.size 1 ∧ b.1.size 1 = c.1.size 0
               ∧ formatsOk a.1.format b.1.format c.1.format (wDest (qw d 7)) = true
               ∧ (wMode (qw d 7) = 0 → a.1.org 0 = b.1.org 0 ∧ a.1.org 0 % panelLen (wPanel (qw d 7)) = 0 ∧ c.1.org 0 % 256 = 0))
             ∧ ((a.1.empty || b.1.empty || c.1.empty) = true → ∃ t : State, exec (.mma q) s = .next t ∧ s.tookIdle t q d none
                 ∧ ∀ k : Fin 4, (t.die q.die).mx[k] = (s.die q.die).mx[k])
             ∧ ((a.1.empty || b.1.empty || c.1.empty) = false → ∃ t : State, exec (.mma q) s = .next t ∧ s.took t q d false
                 ∧ (∃ r : MmaRun, (t.die q.die).mx[e].runs = (s.die q.die).mx[e].runs ++ [r] ∧ r.q = q ∧ r.pos = p ∧ r.a = a.1
                     ∧ r.b = b.1 ∧ r.c = c.1 ∧ r.w7 = qw d 7 ∧ r.tag = dTag d ∧ r.tile = 0 ∧ r.panel = 0 ∧ r.panels = [] ∧ r.k = 0
                     ∧ ∀ k, (s.die q.die).quire = some k → r.seed = s.setting 0x2070 (k.val + 1))
                 ∧ (∀ k : Fin 4, k ≠ e → (t.die q.die).mx[k] = (s.die q.die).mx[k]) ∧ t = { s with dies := t.dies }
                 ∧ (∀ r, r ≠ q → t.queue r = s.queue r) ∧ (∀ x : Place, t.byteAt x = s.byteAt x)
                 ∧ ∀ k o, (t.die k).obj o = (s.die k).obj o))))
  ∧ ((∀ (q : QueueId) (found : List (Bool × CellFault)) (s : State) (d : List Nat), s.atFront q 0x11 d →
       s.engineAbsent q.die (engineOf q) = false →
       let p := (s.queue q).next
       let e := engineOf q
       let folio := s.joined q.die (e.val / 2)
       (found = [] → ∃ t : State, exec (.mxtest q found) s = .next t ∧ s.tookAs t q d none s
         ∧ t = { s with dies := t.dies, free := t.free }
         ∧ ∀ k : Fin 4, (t.die q.die).mx[k] = if k = e ∨ (folio = true ∧ k.val = (e.val + 1) % 4)
             then { (s.die q.die).mx[k] with passFt := s.now, slices := 0, failedRound := false,
                                             test := (t.die q.die).mx[k].test, checks := (t.die q.die).mx[k].checks }
             else (s.die q.die).mx[k])
       ∧ (∀ f, found = [(false, f)] → folio = false → (s.die q.die).mx[e].removed = false → (s.die q.die).mx[e].unchecked = 0 →
           (s.die q.die).mx[e].covers f = false → (∀ x ∈ (s.queue q).started, x.pos ≠ p) →
           ∃ u t : State, exec (.mxtest q found) s = .next (t.raise { code := 0x0104, unit := uEngine q.die e })
             ∧ t = u.updMx q.die e (·.tipIn f) ∧ (u.queue q).status = 0x30 ∧ (u.queue q).haltPos = some p
             ∧ (∀ k : Fin 4, (u.die q.die).mx[k] = { (s.die q.die).mx[k] with
                 test := (u.die q.die).mx[k].test, checks := (u.die q.die).mx[k].checks })))
     ∧ (∀ (d : DieId) (e : Fin 4) (s : State),
         ((s.die d).mx[e].found = [] → exec (.matrixSpareTipIn d e) s = .next s)
         ∧ ∀ f, (s.die d).mx[e].found = [f] → (s.die d).mx[e].removed = false → (s.die d).mx[e].covers f = false →
             ((s.die d).mx[e].unchecked = 0 → exec (.matrixSpareTipIn d e) s
               = .next ((s.updMx d e fun m => { m.tipIn f with found := [] }).raise { code := 0x0104, unit := uEngine d e }))
             ∧ ((s.die d).mx[e].unchecked ≠ 0 → ∃ t : State, exec (.matrixSpareTipIn d e) s = .next t
                 ∧ (t.die d).mx[e].removed = true ∧ (t.die d).mx[e].found = []
                 ∧ (s.joined d (e.val / 2) = false → ∀ k : Fin 4, k ≠ e → (t.die d).mx[k] = (s.die d).mx[k])
                 ∧ ∀ r ∈ (s.die d).mx[e].runs, e.val % 2 = 0 ∨ s.joined d (e.val / 2) = false →
                     (s.queue r.q).cancels r.pos = false →
                     ∀ x ∈ (s.queue r.q).started, x.pos = r.pos → (t.queue r.q).status ≠ 0)))

/-- TILE_DRAIN: the next panel, a finished tile with its output and flags, a recomputation, and a failed check. Rests
on R57, R111, R113, R117, R123, R124, R125, R153, R154, R155, R332. -/
def Obligations.TileDrainAdvancesTheLoop : Prop :=
  ∀ (d : DieId) (e : Fin 4) (obs : TileObs) (s : State) (r : MmaRun) (rs : List MmaRun) (exact : List (List Cell)), s.canonical →
    (s.die d).mx[e].runs = r :: rs → r.q.die = d → ((s.getCtx d r.q.ctx).state = .running ∨ (s.getCtx d r.q.ctx).state = .stopping) →
    (∀ v ∈ (s.getCtx d r.q.ctx).saved, v.val ≠ e.val) →
    (∀ v : UnitId, v.val = e.val → (s.getUnit d v).stopFt = none ∧ (s.getUnit d v).parked = false ∧ s.stalled d v = false) →
    s.running = true → s.streamHeld d e r = false → (s.die d).presence = .inService → s.engineAbsent d e = false →
    let folio := s.joined d (e.val / 2)
    let t := r.at_ folio
    (s.panelTile r t).2 = (0, exact) →
    let s1 := (s.panelTile r t).1
    let rows := withCells (wShape r.w7) obs.cells exact
    let vals := rows.map fun row => row.map (·.v)
    let flags := (flagsOf r.flags).or (cellFlags rows)
    (s1.tilePasses r e obs exact rows = true → r.panel + 1 < r.panelTotal → ∃ u : State, exec (.tileDrain d e obs) s = .next u
      ∧ (u.die d).mx[e].runs
          = { r with panel := r.panel + 1, retry := false, panels := r.panels ++ [vals], flags := flags.code, k := 0, acc := [] } :: rs
      ∧ (u.die d).mx[e].bank.val = ((s.die d).mx[e].bank.val + 1) % 2 ∧ (∀ q, u.queue q = s.queue q)
      ∧ (∀ a : Place, u.byteAt a = s.byteAt a) ∧ ∀ k o, (u.die k).obj o = (s.die k).obj o)
    ∧ (s1.tilePasses r e obs exact rows = true → r.panelTotal ≤ r.panel + 1 →
        let wide := (s.getCtx d r.q.ctx).matrixWide
        let all := r.panels ++ [vals]
        let out := if r.panels = [] then rows
          else (List.range t.rows).map fun i => combineRow r.isInt wide (all.map fun p => p.getD i []) t.cols
        let ws := (tileWrites r t out).1
        let s2 := (if r.retry then s1.raise { code := 0x0102, unit := uEngine d e } else s1).drained d e folio (wShape r.w7) rows
        let k0 : Work := { s := s2, st := 0, wrote := [] }
        let k := if r.panels = [] then k0.writeAll d ws else if wDest r.w7 = 2 then k0 else k0.writeGroups d (groupsOf ws) obs.rails
        (∀ a : Place, s2.byteAt a = s.byteAt a)
        ∧ (k.st = 0 → ∃ u : State, exec (.tileDrain d e obs) s = .next u ∧ (∀ a : Place, u.byteAt a = k.s.byteAt a)
          ∧ (r.tile + 1 < r.tiles folio → (∀ q, u.queue q = s.queue q)
              ∧ (u.die d).mx[e].runs
                  = { r with tile := r.tile + 1, panel := 0, retry := false, panels := [], flags := 0, k := 0, acc := [] } :: rs)
          ∧ (r.tiles folio ≤ r.tile + 1 → (u.die d).mx[e].runs = rs
              ∧ ∀ x ∈ (u.queue r.q).started, x.pos = r.pos → x.done = true)
          ∧ (r.panels = [] → (u.die d).flags[flagIndex e r.q.ctx] = orFlags (s.die d).flags[flagIndex e r.q.ctx]
              (flags.or (tileWrites r t out).2) (r.head s) r.tile)
          ∧ (wDest r.w7 = 2 → (u.getCtx d r.q.ctx).streams = (s.getCtx d r.q.ctx).streams.map fun y =>
              if y.handle = wHandle r.w7 then y.takeTile r t flags.s all else y)
          ∧ ∀ i o, (u.die i).obj o = (s.die i).obj o))
    ∧ (s1.tilePasses r e obs exact rows = false →
        let again := s.setting 0x2060 2 = 1 ∧ r.retry = false ∧ ¬ (wInit r.w7 = 1 ∧ r.panel = 0)
        (again → ∃ u : State, exec (.tileDrain d e obs) s = .next u
          ∧ (u.die d).mx[e].runs = { r with retry := true, k := 0, acc := [] } :: rs
          ∧ (u.die d).mx[e].recomputed = (s.die d).mx[e].recomputed + 1 ∧ (∀ q, u.queue q = s.queue q)
          ∧ ∀ a : Place, u.byteAt a = s.byteAt a)
        ∧ (¬ again → ∃ u : State,
            exec (.tileDrain d e obs) s = .next ((u.raise { code := 0x0101, unit := uEngine d e }).tileBoundary d e)
          ∧ (u.die d).mx[e].runs = rs ∧ (u.die d).mx[e].failures = (s.die d).mx[e].failures + 1
          ∧ ((∃ x ∈ (s.queue r.q).started, x.pos = r.pos) → (s.queue r.q).cancels r.pos = false →
              (u.queue r.q).status = 0x30 ∧ (u.queue r.q).haltPos = some r.pos)))

/-- A vector program runs over its rows; a conversion reads and encodes each element once. Rests on R96, R195, R196,
R199, R200, R202, R203, R137, R152, R215, R216, R218. -/
def Obligations.VectorProgramsAndConversions : Prop :=
  ((∀ (q : QueueId) (blocks : Option Nat) (s : State) (d : List Nat), s.atFront q 0x30 d →
     let sum (v : Summary) : Option (Nat × Summary) := if vpY d then some (vpSlot d, v) else none
     (vpReserved d = true → exec (.vprog ⟨q, blocks⟩) s = .next (s.failAt q 0x01 (s.queue q).next))
     ∧ (vpReserved d = false → ∀ s1 st0 g, s.readProg q.die d = (s1, st0, g) →
         (st0 ≠ 0 → exec (.vprog ⟨q, blocks⟩) s = .next (s1.failAt q st0 (s.queue q).next))
         ∧ (st0 = 0 →
         let st := s1.vprogStatus q d g
         (st ≠ 0 → exec (.vprog ⟨q, blocks⟩) s = .next (s1.failAt q st (s.queue q).next))
         ∧ (s1.importAbsent q.die d = true → st ≠ 0)
         ∧ (st = 0 →
             (vpCount d = 0 ∨ g.iter = none ∨ (∃ it, g.iter = some it ∧ it.empty = true) →
               ∃ t : State, exec (.vprog ⟨q, blocks⟩) s = .next t ∧ s.tookIdle t q d (sum Summary.empty))
             ∧ ∀ it, g.iter = some it → it.empty = false → vpCount d ≠ 0 →
                 let s2 := s1.start q d (s.queue q).next.after (startedOf (s.queue q).next d false)
                 let e := vEnv q.die d g it (s2.seedOf q.die)
                 let x := (VRun.start s2).go e 0 blocks
                 let k := (x.1.finish e).1
                 (x.2 < e.steps.length → x.1.a.k.st = 0 →
                   ∃ t : State, exec (.vprog ⟨q, blocks⟩) s = .next t ∧ s.tookTo t q d (some (x.1.job e x.2)) none x.1.a.k.s)
                 ∧ (e.steps.length ≤ x.2 → k.st = 0 →
                     ∃ t : State, exec (.vprog ⟨q, blocks⟩) s = .next t ∧ s.tookTo t q d none (sum (x.1.finish e).2) k.s)
                 ∧ ((e.steps.length ≤ x.2 ∨ x.1.a.k.st ≠ 0) → k.st ≠ 0 → s.halts (exec (.vprog ⟨q, blocks⟩) s) q k.st)))))
   ∧ (∀ (q : QueueId) (blocks : Option Nat) (s : State) (y : Started) (j : Job) (g : VProg) (done : Nat) (rows : List VRow)
       (loads : List (Nat × List (Option Ex))) (z : VSum) (it : Tensor),
       s.inHand q = some (y, j) → j.work = .vector g done rows loads z → g.iter = some it →
       let e := vEnv q.die y.qws g it j.seed
       let x := VRun.go e { a := { k := { s := s, st := 0, wrote := j.wrote }, nan := j.nan, sat := j.sat }, rows := rows, loads := loads, sum := z }
         done (s.blocksNow q.die blocks)
       let k := (x.1.finish e).1
       let sum := if vpY y.qws then some (vpSlot y.qws, (x.1.finish e).2) else none
       (x.2 < e.steps.length → x.1.a.k.st = 0 →
         ∃ t : State, exec (.vprog ⟨q, blocks⟩) s = .next t ∧ s.wentTo t q y.pos (some (x.1.job e x.2)) none x.1.a.k.s)
       ∧ (e.steps.length ≤ x.2 → k.st = 0 → ∃ t : State, exec (.vprog ⟨q, blocks⟩) s = .next t ∧ s.wentTo t q y.pos none sum k.s)
       ∧ ((e.steps.length ≤ x.2 ∨ x.1.a.k.st ≠ 0) → k.st ≠ 0 → s.blockFails (exec (.vprog ⟨q, blocks⟩) s) q y.pos k.st)))
  ∧ ((∀ (q : QueueId) (blocks : Option Nat) (s : State) (d : List Nat), s.atFront q 0x70 d →
       let sum (v : Summary) : Option (Nat × Summary) := if bit (qw d 6) 61 then some (bits (qw d 6) 60 57, v) else none
       ((1 < fSpace (qw d 4) ∨ 1 < fSpace (qw d 5)) → exec (.convert ⟨q, blocks⟩) s = .next (s.failAt q 0x01 (s.queue q).next))
       ∧ (fSpace (qw d 4) ≤ 1 → fSpace (qw d 5) ≤ 1 → ∀ s1 a b, s.readPair q.die (qw d 4) (qw d 5) = (s1, 0, a, b) →
           let st := s1.convertStatus q.die (bit (qw d 6) 63) a b
           (st ≠ 0 → exec (.convert ⟨q, blocks⟩) s = .next (s1.failAt q st (s.queue q).next))
           ∧ (st = 0 → b.1.sizes = swapped (bit (qw d 6) 63) a.1.sizes
               ∧ (b.1.empty = true → ∃ t : State, exec (.convert ⟨q, blocks⟩) s = .next t ∧ s.tookIdle t q d (sum (flagSummary 0 false false)))
               ∧ (b.1.empty = false →
                   let s2 := s1.start q d (s.queue q).next.after (startedOf (s.queue q).next d false)
                   let n := convertCount (convertRuns b.1) blocks
                   let left := (convertRuns b.1).drop n
                   let c := ((convertRuns b.1).take n).foldl (CAcc.run q.die d (s2.seedOf q.die) a.1 b.1)
                     { k := { s := s2, st := 0, wrote := [] }, nan := false, sat := false }
                   (c.k.st = 0 → left = [] → ∃ t : State, exec (.convert ⟨q, blocks⟩) s = .next t
                     ∧ s.tookTo t q d none (sum (flagSummary b.1.count c.nan c.sat)) c.k.s)
                   ∧ (c.k.st = 0 → left ≠ [] → ∃ t : State, exec (.convert ⟨q, blocks⟩) s = .next t
                     ∧ s.tookTo t q d (some { seed := s2.seedOf q.die, wrote := c.k.wrote, nan := c.nan, sat := c.sat,
                                              work := .convert a.1 b.1 left }) none c.k.s)
                   ∧ (c.k.st ≠ 0 → s.halts (exec (.convert ⟨q, blocks⟩) s) q c.k.st)))))
     ∧ (∀ (q : QueueId) (blocks : Option Nat) (s : State) (y : Started) (j : Job) (src dst : Tensor) (runs : List (Nat × Nat × Nat)),
         s.inHand q = some (y, j) → j.work = .convert src dst runs →
         let n := convertCount runs (s.blocksNow q.die blocks)
         let c := (runs.take n).foldl (CAcc.run q.die y.qws j.seed src dst)
           { k := { s := s, st := 0, wrote := j.wrote }, nan := j.nan, sat := j.sat }
         let v := if bit (qw y.qws 6) 61 then some (bits (qw y.qws 6) 60 57, flagSummary dst.count c.nan c.sat) else none
         (c.k.st = 0 → runs.drop n = [] → ∃ t : State, exec (.convert ⟨q, blocks⟩) s = .next t ∧ s.wentTo t q y.pos none v c.k.s)
         ∧ (c.k.st = 0 → runs.drop n ≠ [] → ∃ t : State, exec (.convert ⟨q, blocks⟩) s = .next t
             ∧ s.wentTo t q y.pos (some { j with wrote := c.k.wrote, nan := c.nan, sat := c.sat, work := .convert src dst (runs.drop n) })
                 none c.k.s)
         ∧ (c.k.st ≠ 0 → s.blockFails (exec (.convert ⟨q, blocks⟩) s) q y.pos c.k.st)))

/-- Combination adds its inputs into rows, and REDUCE adds lines. Rests on R168, R173, R174, R217, R219, R220, R221,
R255, R261, R264, R265. -/
def Obligations.CombineAndReduce : Prop :=
  ((∀ (q : QueueId) (rails : List RailObs) (blocks : Option Nat) (s : State) (d : List Nat), s.atFront q 0x50 d →
     let n := cbIn d
     let reserved := 1 < fSpace (qw d 4) ∨ 16 < n ∨ 1 < bits (qw d 5) 58 57 ∨ (cbMax d = false ∧ cbMode d = 3)
     let sum (v : Summary) : Option (Nat × Summary) := if bit (qw d 5) 52 then some (bits (qw d 5) 51 48, v) else none
     (reserved → exec (.cbCombine ⟨q, blocks⟩ rails) s = .next (s.failAt q 0x01 (s.queue q).next))
     ∧ (¬ reserved → n = 0 → ∃ t : State, exec (.cbCombine ⟨q, blocks⟩ rails) s = .next t ∧ s.tookIdle t q d (sum (flagSummary 0 false false)))
     ∧ (¬ reserved → n ≠ 0 → s.placeStatus q.die (fSram (qw d 4)) (fOff (qw d 4)) (64 * (n + 1)) 64 = 0 →
         ∀ s1 ts, s.readTensors q.die (fSram (qw d 4)) (fOff (qw d 4)) (n + 1) = (s1, 0, ts) →
         let st := s1.cbStatus q d ts
         let out := tensorOf ts n
         (st ≠ 0 → exec (.cbCombine ⟨q, blocks⟩ rails) s = .next (s1.failAt q st (s.queue q).next))
         ∧ (st = 0 → out.empty = true → ∃ t : State, exec (.cbCombine ⟨q, blocks⟩ rails) s = .next t
             ∧ s.tookIdle t q d (sum (flagSummary 0 false false)))
         ∧ (st = 0 → out.empty = false → ∀ s2 vals, s1.cbValues q.die ((ts.take n).map (·.1)) = (s2, 0, vals) →
             let rows := (s2.cbRows d out vals).2
             let s3 := (s2.cbRows d out vals).1.start q d (s.queue q).next.after (startedOf (s.queue q).next d false)
             let groups := cbGroups out rows
             let m := (blocks.map (64 * ·)).getD groups.length
             let k := Work.writeGroups { s := s3, st := 0, wrote := [] } q.die (groups.take m) rails
             let nan := rows.any (·.2.1)
             let sat := rows.any (·.2.2)
             (k.st = 0 → groups.drop m = [] → ∃ t : State, exec (.cbCombine ⟨q, blocks⟩ rails) s = .next t
               ∧ s.tookTo t q d none (sum (flagSummary out.count nan sat)) k.s)
             ∧ (k.st = 0 → groups.drop m ≠ [] → ∃ t : State, exec (.cbCombine ⟨q, blocks⟩ rails) s = .next t
               ∧ s.tookTo t q d (some { seed := 0, wrote := [], nan := nan, sat := sat, work := .combine out (groups.drop m) }) none k.s)
             ∧ (k.st ≠ 0 → s.halts (exec (.cbCombine ⟨q, blocks⟩ rails) s) q k.st))))
   ∧ (∀ (q : QueueId) (rails : List RailObs) (blocks : Option Nat) (s : State) (y : Started) (j : Job) (out : Tensor)
       (groups : List (List (Bool × Nat × List Byte))), s.inHand q = some (y, j) → j.work = .combine out groups →
       let m := ((s.blocksNow q.die blocks).map (64 * ·)).getD groups.length
       let k := Work.writeGroups { s := s, st := 0, wrote := [] } q.die (groups.take m) rails
       let v := if bit (qw y.qws 5) 52 then some (bits (qw y.qws 5) 51 48, flagSummary out.count j.nan j.sat) else none
       (k.st = 0 → groups.drop m = [] → ∃ t : State, exec (.cbCombine ⟨q, blocks⟩ rails) s = .next t ∧ s.wentTo t q y.pos none v k.s)
       ∧ (k.st = 0 → groups.drop m ≠ [] → ∃ t : State, exec (.cbCombine ⟨q, blocks⟩ rails) s = .next t
           ∧ s.wentTo t q y.pos (some { seed := 0, wrote := [], nan := j.nan, sat := j.sat, work := .combine out (groups.drop m) }) none k.s)
       ∧ (k.st ≠ 0 → s.blockFails (exec (.cbCombine ⟨q, blocks⟩ rails) s) q y.pos k.st)))
  ∧ (∀ (q : QueueId) (rails : List RailObs) (s : State) (d : List Nat), s.atFront q 0x82 d → s.canonical →
       let p := (s.queue q).next
       let st := s.reduceStatus q d
       let busy := rdGC d = true ∧ s.onOwnDie q.die (qw d 5) = true ∧ s.streamBusy q = true
       (st ≠ 0 → exec (.reduce q rails) s = .next (s.failAt q st p))
       ∧ (st = 0 → rdLen d = 0 → ∃ t : State, exec (.reduce q rails) s = .next t ∧ s.tookIdle t q d none
           ∧ ∃ e, (t.queue q).started = (s.queue q).started ++ [e] ∧ e.ops = if rdGC d then s.streamOps q else [])
       ∧ (st = 0 → rdLen d ≠ 0 →
           (busy → exec (.reduce q rails) s = .next s)
           ∧ (¬ busy → (s.queue q).cancels p = false → ∃ t : State, exec (.reduce q rails) s = .next t
               ∧ ((∃ ops, s.tookOps t q d true ops) ∨ (t.queue q).status ≠ 0))
           ∧ (¬ busy → ∀ (w : Place) (bs old : List Byte), rdLen d = 64 → rdAfx d = false →
               (s.readLocal q.die (fSram (qw d 4)) (fOff (qw d 4)) 64).2 = (0, bs) →
               s.ownPlace q.die (qw d 5) 64 = some (.ok w) → (s.readOwn q.die w 64).2 = (0, old) →
               s.ownHeld q (qw d 5) (rdC d && !rdGC d) (rdGC d) = false →
               (railsOf rails 0 = .twice → s.halts (exec (.reduce q rails) s) q 0x31)
               ∧ (railsOf rails 0 ≠ .twice → ∃ t : State, exec (.reduce q rails) s = .next t ∧ s.tookOps t q d true []
                   ∧ (∀ r, r ≠ q → t.queue r = s.queue r) ∧ (∀ e o, (t.die e).obj o = (s.die e).obj o)
                   ∧ ∀ x : Place, t.byteAt x = if x.die = w.die ∧ x.sram = w.sram ∧ w.off ≤ x.off ∧ x.off < w.off + 64
                       then (reduceLine (rdOp d + 9) old bs).getD (x.off - w.off) 0 else s.byteAt x))))

/-- Gathers, their tables, dispatch and gather combine. Rests on R207, R208, R209, R210, R211, R212, R213, R164, R214.
-/
def Obligations.GathersAndDispatches : Prop :=
  (∀ (q : QueueId) (s : State) (d : List Nat),
     let p := (s.queue q).next
     (∀ blocks, s.atFront q 0x60 d →
       let reserved := 1 < fSpace (qw d 4) ∨ 1 < fSpace (qw d 5) ∨ 1 < bits (qw d 6) 23 22
       let none_ := gaCount d = 0 ∨ (gaFlat d = false ∧ gaRpp d = 0)
       (reserved → exec (.gather ⟨q, blocks⟩) s = .next (s.failAt q 0x01 p))
       ∧ (¬ reserved → none_ → ∃ t : State, exec (.gather ⟨q, blocks⟩) s = .next t ∧ s.tookIdle t q d none)
       ∧ (¬ reserved → ¬ none_ →
           (gaFlat d = false → s.placeStatus q.die (fSram (qw d 4)) (fOff (qw d 4)) (8 * gaCount d) 8 = 0) →
           ∀ s1 ts, s.readSet q.die (qw d 5) (2 + if gaMask d then 1 else 0) = (s1, 0, ts) →
           let st := s1.gatherStatus q.die d ts
           let idx := tensorOf ts 0
           let dst := tensorOf ts 1
           (st ≠ 0 → exec (.gather ⟨q, blocks⟩) s = .next (s1.failAt q st p))
           ∧ (st = 0 → (idx.empty || dst.empty) = true → ∃ t : State, exec (.gather ⟨q, blocks⟩) s = .next t ∧ s.tookIdle t q d none)
           ∧ (st = 0 → (idx.empty || dst.empty) = false → ∀ s2 s3 is ms, s1.allCodes q.die idx = (s2, 0, is) →
               (if gaMask d then s2.allValues q.die (tensorOf ts 2) else (s2, 0, [])) = (s3, 0, ms) →
               let plan := gatherPlan is ms.flatten
               let n := blocks.getD plan.length
               let a := (s3.start q d p.after (startedOf p d false)).gatherLanes q d p dst [] (plan.take n)
               (a.fault = none → ∃ t : State, exec (.gather ⟨q, blocks⟩) s = .next t
                 ∧ s.tookOps t q d ((plan.drop n).isEmpty && a.ops.isEmpty) a.ops
                 ∧ (plan.drop n ≠ [] → ∀ y ∈ (t.queue q).started, y.pos = p → y.job = some
                     { seed := 0, wrote := a.k.wrote, nan := false, sat := false, work := .gather dst (plan.drop n) })
                 ∧ (∀ x : Place, t.byteAt x = a.k.s.byteAt x) ∧ (∀ r, r ≠ q → t.queue r = s.queue r))
               ∧ (∀ i st, a.fault = some (i, st) →
                   (a.ops = [] → ∃ u : State, exec (.gather ⟨q, blocks⟩) s = .next (u.gatherFault q p 0x60 st))
                   ∧ (a.ops ≠ [] → ∃ t : State, exec (.gather ⟨q, blocks⟩) s = .next t ∧ s.tookOps t q d false a.ops
                       ∧ ∀ e ∈ (t.queue q).started, e.pos = p → e.fault = some (i, st))))))
     ∧ (∀ blocks y j dst lanes, s.inHand q = some (y, j) → j.work = .gather dst lanes →
         let n := (s.blocksNow q.die blocks).getD lanes.length
         let a := s.gatherLanes q y.qws y.pos dst j.wrote (lanes.take n)
         let ops := y.ops ++ a.ops
         (y.fault = none → a.fault = none → ∃ t : State, exec (.gather ⟨q, blocks⟩) s = .next t
           ∧ (∀ z ∈ (t.queue q).started, z.pos = y.pos → z.ops = ops ∧ (lanes.drop n = [] → z.job = none ∧ z.done = ops.isEmpty)
               ∧ (lanes.drop n ≠ [] → z.job = some
                   { seed := 0, wrote := a.k.wrote, nan := false, sat := false, work := .gather dst (lanes.drop n) }))
           ∧ (∀ x : Place, t.byteAt x = a.k.s.byteAt x) ∧ (∀ r, r ≠ q → t.queue r = s.queue r))
         ∧ (∀ i st, y.fault = none → a.fault = some (i, st) → ops = [] →
             ∃ u : State, exec (.gather ⟨q, blocks⟩) s = .next (State.blockBoundary (u.gatherFault q y.pos 0x60 st) q))
         ∧ (∀ i st, y.fault = some (i, st) → y.ops = [] →
             ∃ u : State, exec (.gather ⟨q, blocks⟩) s = .next (State.blockBoundary (u.gatherFault q y.pos 0x60 st) q)))
     ∧ (s.atFront q 0x61 d →
         (exReserved d false = true → exec (.routeCount q) s = .next (s.failAt q 0x01 p))
         ∧ (exReserved d false = false → exCount d = 0 ∨ exK d = 0 →
             ∃ t : State, exec (.routeCount q) s = .next t ∧ s.tookIdle t q d none)
         ∧ (exReserved d false = false → exCount d ≠ 0 → exK d ≠ 0 →
             ∀ s1 es ts, s.readExperts q.die d 2 = (s1, 0, es, ts) →
             let list := tensorOf ts 1
             let st := s1.expertStatus q.die d ts [false, true] (list.format == .int32 && (list.empty || list.count == exCount d))
             (st ≠ 0 → exec (.routeCount q) s = .next (s1.failAt q st p))
             ∧ (st = 0 → ((tensorOf ts 0).empty || list.empty) = true → ∃ t : State, exec (.routeCount q) s = .next t ∧ s.tookIdle t q d none)
             ∧ (st = 0 → ((tensorOf ts 0).empty || list.empty) = false → ∀ s2 ws, s1.allCodes q.die (tensorOf ts 0) = (s2, 0, ws) →
                 let rs := routesOf (exCount d) (exK d) ws
                 let k := s2.writeList q.die list (routeCounts (exCount d) rs.2)
                 (rs.1 ≠ 0 → exec (.routeCount q) s = .next (s2.failAt q 0x10 p))
                 ∧ (rs.1 = 0 → k.st ≠ 0 → s.halts (exec (.routeCount q) s) q k.st)
                 ∧ (rs.1 = 0 → k.st = 0 → ∃ t : State, exec (.routeCount q) s = .next t ∧ s.tookAs t q d none k.s))))
     ∧ (s.atFront q 0x63 d →
         let n := bits (qw d 6) 63 48
         let dim := bits (qw d 6) 47 45
         let reserved := 1 < fSpace (qw d 4) ∨ 1 < fSpace (qw d 5) ∨ 4 < dim
         (reserved → exec (.setSize q) s = .next (s.failAt q 0x01 p))
         ∧ (¬ reserved → n = 0 → ∃ t : State, exec (.setSize q) s = .next t ∧ s.tookIdle t q d none)
         ∧ (¬ reserved → n ≠ 0 → s.placeStatus q.die (fSram (qw d 4)) (fOff (qw d 4)) (4 * n) 4 = 0 →
             s.placeStatus q.die (fSram (qw d 5)) (fOff (qw d 5)) 64 64 = 0 →
             ∀ s1 b, s.readLocal q.die (fSram (qw d 4)) (fOff (qw d 4)) (4 * n) = (s1, 0, b) →
             let vs := (chunksOf 4 (n + 1) b).map fun c => int32Of (leNat c)
             let sum : Int := vs.sum
             let w := s1.writeLocal q.die (fSram (qw d 5)) (fOff (qw d 5) + 0x10 + 3 * dim) (leBytes 3 sum.toNat)
             ((∃ v ∈ vs, v < 0) ∨ 16777215 < sum → exec (.setSize q) s = .next (s1.failAt q 0x02 p))
             ∧ ((∀ v ∈ vs, 0 ≤ v) → sum ≤ 16777215 → w.2 = 0 →
                 ∃ t : State, exec (.setSize q) s = .next t ∧ s.tookAs t q d none w.1))))
  ∧ ((∀ (es : List Expert) (used : SMap Nat) (t j : Nat) (rs : List (Nat × Nat × Option Nat)),
       slotsOf es used ((t, j, none) :: rs) = (none, false) :: slotsOf es used rs
       ∧ ∀ e, let x := es.getD e (parseExpert [])
           let n := SMap.get 0 used e
           ∃ used', slotsOf es used ((t, j, some e) :: rs)
             = (if x.first + n < x.capacity then (some (x.first + n), false) else (none, true)) :: slotsOf es used' rs
             ∧ SMap.get 0 used' e = n + 1 ∧ ∀ f, f ≠ e → SMap.get 0 used' f = SMap.get 0 used f)
     ∧ ∀ (q : QueueId) (s : State) (d : List Nat),
       let p := (s.queue q).next
       (s.atFront q 0x62 d →
         (exReserved d false = true → exec (.dispatch q) s = .next (s.failAt q 0x01 p))
         ∧ (exReserved d false = false → exCount d = 0 ∨ exK d = 0 →
             ∃ t : State, exec (.dispatch q) s = .next t ∧ s.tookIdle t q d none)
         ∧ (exReserved d false = false → exCount d ≠ 0 → exK d ≠ 0 →
             ∀ s1 es ts, s.readExperts q.die d 3 = (s1, 0, es, ts) →
             let routing := tensorOf ts 0
             let rows := tensorOf ts 1
             let map := tensorOf ts 2
             ((∃ e ∈ es, reservedSpace e.dest = true) → exec (.dispatch q) s = .next (s1.failAt q 0x01 p))
             ∧ ((∀ e ∈ es, reservedSpace e.dest = false) →
             s1.expertStatus q.die d ts [false, false, true]
               (map.format == .int32 && map.sizes == routing.sizes && rows.rowCount == routing.rowCount
                 && es.all (fun e => decide (1 ≤ e.stride) && decide (e.stride ≤ 65536) && decide (rows.copyBytes ≤ e.stride))) = 0 →
             ((∃ e ∈ es, (gaddr e.dest).space = 1 ∨ (gaddr e.dest).space = 2) → exec (.dispatch q) s = .next (s1.failAt q 0x14 p))
             ∧ ((∀ e ∈ es, (gaddr e.dest).space = 0 ∨ (gaddr e.dest).space = 3) →
             ((routing.empty || rows.empty) = true → ∃ t : State, exec (.dispatch q) s = .next t ∧ s.tookIdle t q d none)
             ∧ ((routing.empty || rows.empty) = false → ∀ s2 ws, s1.allCodes q.die routing = (s2, 0, ws) →
                 let rs := routesOf (exCount d) (exK d) ws
                 rs.1 = 0 →
                 let slots := slotsOf es [] rs.2
                 let a := (s2.start q d p.after (startedOf p d false)).dispatchRows q p es rows (rs.2.zip slots)
                 let k := a.k.writeList q.die map (slots.map slotCode)
                 (∀ i st, a.fault = some (i, st) → s.halts (exec (.dispatch q) s) q st)
                 ∧ (a.fault = none → k.st ≠ 0 → s.halts (exec (.dispatch q) s) q k.st)
                 ∧ (a.fault = none → k.st = 0 → ∃ t : State, exec (.dispatch q) s = .next t
                   ∧ t.log = (if slots.any (·.2)
                       then (k.s.raise { code := 0x0204, unit := unitCode 0x04 q.die.val 3 0 }).log else k.s.log)
                   ∧ s.tookOps t q d true a.ops ∧ ∀ x : Place, t.byteAt x = k.s.byteAt x))))))
       ∧ (s.atFront q 0x64 d →
           (exReserved d true = true → ∀ rails, exec (.gtCombine q rails) s = .next (s.failAt q 0x01 p))
           ∧ (exReserved d true = false → exCount d = 0 ∨ exK d = 0 →
               ∀ rails, ∃ t : State, exec (.gtCombine q rails) s = .next t ∧ s.tookIdle t q d none)
           ∧ (exReserved d true = false → exCount d ≠ 0 → exK d ≠ 0 →
               ∀ s1 es ts, s.readExperts q.die d 4 = (s1, 0, es, ts) →
               let routing := tensorOf ts 0
               let map := tensorOf ts 1
               let gates := tensorOf ts 2
               let out := tensorOf ts 3
               (∀ e ∈ es, reservedSpace e.source = false) →
               s1.expertStatus q.die d ts [false, false, false, true]
                 (map.format == .int32 && gates.format == .fp32 && map.sizes == routing.sizes && gates.sizes == routing.sizes
                   && out.rowCount == routing.rowCount && out.format.isFloat
                   && es.all (fun e => decide (1 ≤ e.stride) && decide (e.stride ≤ 65536) && decide (out.copyBytes ≤ e.stride))
                   && !(decide (exMode d = 0) && out.org 0 % 256 != 0)
                   && (s1.getCtx q.die q.ctx).settingsOk (exMode d) (some (exPanel d)) (some (exWide d))) = 0 →
               (∀ e ∈ es, (gaddr e.source).space = 0) →
               ∀ rails,
               ((routing.empty || out.empty) = true → ∃ t : State, exec (.gtCombine q rails) s = .next t ∧ s.tookIdle t q d none)
               ∧ ((routing.empty || out.empty) = false → ∀ s2 s3 ws slots, s1.allCodes q.die routing = (s2, 0, ws) →
                   s2.allCodes q.die map = (s3, 0, slots) → (routesOf (exCount d) (exK d) ws).1 = 0 →
                   ∃ u t : State, exec (.gtCombine q rails) s = .next t ∧ t = u.gatherProgress q p
                     ∧ (∃ xs e, (u.queue q).started = xs ++ [e] ∧ xs.map (·.pos) = (s.queue q).started.map (·.pos) ∧ e.pos = p
                         ∧ e.qws = d ∧ e.done = false ∧ e.tens = ts.map (·.1) ∧ e.rails = rails
                         ∧ ((∀ r ∈ (routesOf (exCount d) (exK d) ws).2, r.2.2 = none) → e.ops = []))
                     ∧ ∀ x : Place, u.byteAt x = s.byteAt x))))

/-- A copy moves the bytes it names, and an atomic reads, modifies and writes one element. Rests on R236, R262, R265,
R86, R260, R263. -/
def Obligations.CopiesAndAtomics : Prop :=
  (∀ (q : QueueId) (s : State) (d : List Nat), s.atFront q 0x80 d → s.canonical →
     let p := (s.queue q).next
     let st := s.copyStatus q d
     let busy := cpGC d = true ∧ s.onOwnDie q.die (qw d 4) = true ∧ s.onOwnDie q.die (qw d 5) = true ∧ s.streamBusy q = true
     (st ≠ 0 → exec (.copy q) s = .next (s.failAt q st p))
     ∧ (st = 0 → cpLen d = 0 ∨ cpRows d = 0 → ∃ t : State, exec (.copy q) s = .next t ∧ s.tookIdle t q d none
         ∧ ∃ e, (t.queue q).started = (s.queue q).started ++ [e] ∧ e.ops = if cpGC d then s.streamOps q else [])
     ∧ (st = 0 → cpLen d ≠ 0 → cpRows d ≠ 0 →
         (busy → exec (.copy q) s = .next s)
         ∧ (¬ busy → (s.queue q).cancels p = false → ∃ t : State, exec (.copy q) s = .next t
             ∧ ((∃ ops, s.tookOps t q d true ops) ∨ (t.queue q).status ≠ 0))
         ∧ (¬ busy → ∀ (v w : Place) (bs : List Byte), cpRows d = 1 → (gaddr (qw d 4)).space ≠ 2 → (gaddr (qw d 5)).space ≠ 2 →
             qw d 4 % 4096 + cpLen d ≤ 4096 → qw d 5 % 4096 + cpLen d ≤ 4096 →
             s.ownPlace q.die (qw d 4) (cpLen d) = some (.ok v) → s.ownPlace q.die (qw d 5) (cpLen d) = some (.ok w) →
             s.ownHeld q (qw d 5) (cpC d && !cpGC d) (cpGC d) = false →
             (s.readOwn q.die v (cpLen d)).2 = (0, bs) → (s.die w.die).badIn w.sram w.off (cpLen d) = [] →
             ∃ t : State, exec (.copy q) s = .next t ∧ s.tookOps t q d true [] ∧ (∀ r, r ≠ q → t.queue r = s.queue r)
               ∧ (∀ e o, (t.die e).obj o = (s.die e).obj o)
               ∧ ∀ a : Place, t.byteAt a = if a.die = w.die ∧ a.sram = w.sram ∧ w.off ≤ a.off ∧ a.off < w.off + cpLen d
                   then s.byteAt ⟨v.die, v.sram, v.off + (a.off - w.off)⟩ else s.byteAt a)))
  ∧ (∀ (q : QueueId) (s : State) (d : List Nat), s.atFront q 0x81 d → s.canonical →
       let p := (s.queue q).next
       let st := s.atomicStatus q d
       let w := atWidth d
       let waits := atGC d = true ∧ s.streamBusy q = true
       (st ≠ 0 → exec (.atomic q) s = .next (s.failAt q st p))
       ∧ (st = 0 → atOp d < 6 → ∀ (a : Place) (old : List Byte), s.ownPlace q.die (qw d 4) w = some (.ok a) →
           (s.readOwn q.die a w).2 = (0, old) →
           (waits → s.onOwnDie q.die (qw d 4) = true → exec (.atomic q) s = .next s)
           ∧ (s.ownHeld q (qw d 4) (atC d) (atGC d) = false → ∀ b : Place, s.localRuns q.die (fSram (qw d 7)) (fOff (qw d 7)) w = [(b, w)] →
               s.localOk q.die (fSram (qw d 7)) (fOff (qw d 7)) w = true → s.reaches q.die b.die = true → (s.die b.die).badIn b.sram b.off w = [] →
               (s.die a.die).badIn a.sram a.off w = [] →
               (a.die ≠ b.die ∨ a.sram ≠ b.sram ∨ a.off + w ≤ b.off ∨ b.off + w ≤ a.off) →
               let new := leBytes w (atomicNew (atPacket d) (atSigned d) w (leNat old) (qw d 5 % 2 ^ (8 * w)) (qw d 6 % 2 ^ (8 * w)))
               ∃ t : State, exec (.atomic q) s = .next t ∧ s.took t q d true ∧ (∀ r, r ≠ q → t.queue r = s.queue r)
                 ∧ (∀ e o, (t.die e).obj o = (s.die e).obj o)
                 ∧ ∀ x : Place, t.byteAt x =
                     if x.die = a.die ∧ x.sram = a.sram ∧ a.off ≤ x.off ∧ x.off < a.off + w then new.getD (x.off - a.off) 0
                     else if x.die = b.die ∧ x.sram = b.sram ∧ b.off ≤ x.off ∧ x.off < b.off + w then old.getD (x.off - b.off) 0
                     else s.byteAt x))
       ∧ (st = 0 → 6 ≤ atOp d → ¬ waits → ∀ o, (gaddr (qw d 4)).place = .ok (.obj q.die o) → (gaddr (qw d 4)).node = s.node →
           (s.die q.die).isDoorbell o = false →
           ∃ t : State, exec (.atomic q) s = .next t ∧ s.took t q d true ∧ (∀ r, r ≠ q → t.queue r = s.queue r)
             ∧ (∀ x : Place, t.byteAt x = s.byteAt x)
             ∧ ∀ e k, (t.die e).obj k = if e = q.die ∧ k = o then
                 (if atOp d = 7 then qw d 5 % 2 ^ 32 else ((s.die q.die).obj o + qw d 5 % 2 ^ 32) % 2 ^ 32) else (s.die e).obj k)
       ∧ (st = 0 → s.onOwnDie q.die (qw d 4) = false → s.ownPlace q.die (qw d 4) w = none → (s.queue q).cancels p = false →
           ∃ t : State, exec (.atomic q) s = .next t
             ∧ ((∃ ops, s.tookOps t q d true ops ∧ ops.length ≤ 1 ∧ ∀ x : Place, t.byteAt x = s.byteAt x) ∨ (t.queue q).status ≠ 0)))

/-- The hash unit digests, and a colophon is opened, extended and sealed. Rests on R177, R179, R180, R526, R175, R176,
R181, R182, R183, R184, R420. -/
def Obligations.HashesAndColophons : Prop :=
  (∀ (q : QueueId) (s : State) (d : List Nat), s.canonical →
     let p := (s.queue q).next
     let whole (w : Place) (bs : List Byte) (t : State) : Prop := ∀ a : Place, t.byteAt a =
       if a.die = w.die ∧ a.sram = w.sram ∧ w.off ≤ a.off ∧ a.off < w.off + 32 then bs.getD (a.off - w.off) 0 else s.byteAt a
     (s.atFront q 0x90 d →
       let len := qw d 5
       let st := placesStatus [s.placeStatus q.die (fSram (qw d 4)) (fOff (qw d 4)) len 64,
         s.placeStatus q.die (fSram (qw d 7)) (fOff (qw d 7)) (32 * ceilDiv len leafSize) 32]
       let reserved := 1 < fSpace (qw d 4) ∨ 1 < fSpace (qw d 7)
       (reserved → exec (.hashLeaves q) s = .next (s.failAt q 0x01 p))
       ∧ (¬ reserved → len = 0 → ∃ t : State, exec (.hashLeaves q) s = .next t ∧ s.tookIdle t q d none)
       ∧ (¬ reserved → len ≠ 0 → st ≠ 0 → exec (.hashLeaves q) s = .next (s.failAt q st p))
       ∧ (¬ reserved → len ≠ 0 → st = 0 →
           ((s.hashWork q.die d).st = 0 → ∃ t : State, exec (.hashLeaves q) s = .next t ∧ s.tookAs t q d none (s.hashWork q.die d).s)
           ∧ ((s.hashWork q.die d).st ≠ 0 → s.halts (exec (.hashLeaves q) s) q (s.hashWork q.die d).st)
           ∧ (len ≤ leafSize → ∀ bs w, (s.readLocal q.die (fSram (qw d 4)) (fOff (qw d 4)) len).2 = (0, bs) →
               s.localRuns q.die (fSram (qw d 7)) (fOff (qw d 7)) 32 = [(w, 32)] → s.reaches q.die w.die = true → (s.die w.die).badIn w.sram w.off 32 = [] →
               ∃ t : State, exec (.hashLeaves q) s = .next t ∧ s.took t q d true
                 ∧ whole w (sm3 (leBytes 8 (bits (qw d 6) 39 0) ++ bs)) t)))
     ∧ (s.atFront q 0x91 d →
         let n := bits (qw d 5) 39 0
         let slot := bits (qw d 7) 63 60
         let st := placesStatus [if n = 0 then 0 else s.placeStatus q.die (fSram (qw d 4)) (fOff (qw d 4)) (32 * n) 32,
           s.placeStatus q.die (fSram (qw d 6)) (fOff (qw d 6)) 32 32]
         let reserved := 1 < fSpace (qw d 4) ∨ 1 < fSpace (qw d 6) ∨ 3 < slot
         (reserved → exec (.hashRoot q) s = .next (s.failAt q 0x01 p))
         ∧ (¬ reserved → st ≠ 0 → exec (.hashRoot q) s = .next (s.failAt q st p))
         ∧ (¬ reserved → st = 0 → slot ≠ 0 → (s.getCtx q.die q.ctx).slotFree slot = false →
             exec (.hashRoot q) s = .next (s.failAt q 0x02 p))
         ∧ (¬ reserved → st = 0 → slot = 0 ∨ (s.getCtx q.die q.ctx).slotFree slot = true → ∀ ds w,
             (if n = 0 then (s, 0, []) else s.readLocal q.die (fSram (qw d 4)) (fOff (qw d 4)) (32 * n)).2 = (0, ds) →
             s.localRuns q.die (fSram (qw d 6)) (fOff (qw d 6)) 32 = [(w, 32)] → s.reaches q.die w.die = true → (s.die w.die).badIn w.sram w.off 32 = [] →
             ∃ t : State, exec (.hashRoot q) s = .next t ∧ s.took t q d true ∧ whole w (sm3 (leBytes 8 n ++ ds)) t
               ∧ (slot = 0 → (t.getCtx q.die q.ctx).colophon = (s.getCtx q.die q.ctx).colophon)
               ∧ (∀ c, (s.getCtx q.die q.ctx).colophon = some c → slot ≠ 0 → ∃ c', (t.getCtx q.die q.ctx).colophon = some c'
                   ∧ ∀ i : Fin 3, c'.slots[i] = if i.val + 1 = slot then some (sm3 (leBytes 8 n ++ ds)) else c.slots[i]))))
  ∧ ((∀ (q : QueueId) (s : State) (d : List Nat), s.atFront q 0x92 d →
       let p := (s.queue q).next
       let w := qw d 4
       let mode := bits w 55 54
       let dflt := mode = 0 ∧ bit w 48 = true
       let mask := bits w 2 0
       let x := s.getCtx q.die q.ctx
       let bad := bits w 63 56 ≠ 1 ∨ mode = 3 ∨ (mode = 0 ∧ ¬ dflt ∧ 8 < bits w 53 50) ∨ (mask ≠ 0 ∧ 1 < fSpace (qw d 5))
       let st := if mask = 0 then 0 else s.placeStatus q.die (fSram (qw d 5)) (fOff (qw d 5)) 96 32
       (bad → exec (.colophonOpen q) s = .next (s.failAt q 0x01 p))
       ∧ (¬ bad → st ≠ 0 → exec (.colophonOpen q) s = .next (s.failAt q st p))
       ∧ (¬ bad → st = 0 → x.colophon ≠ none → exec (.colophonOpen q) s = .next (s.failAt q 0x02 p))
       ∧ (¬ bad → st = 0 → x.colophon = none → ∀ ds,
           (if mask = 0 then (s, 0, []) else s.readLocal q.die (fSram (qw d 5)) (fOff (qw d 5)) 96).2 = (0, ds) →
           ∃ (t : State) (c : Colophon), exec (.colophonOpen q) s = .next t ∧ s.tookIdle t q d none
             ∧ (t.getCtx q.die q.ctx).colophon = some c ∧ c.mode = mode ∧ c.seed = s.seedOf q.die ∧ c.invalid = false
             ∧ (dflt → c.panel = s.setting 0x2071 1 ∧ c.wide = (s.setting 0x2071 2 == 1))
             ∧ (¬ dflt → c.panel = bits w 53 50 ∧ c.wide = bit w 49)
             ∧ ∀ i : Fin 3, c.slots[i] = if bit mask i.val then some ((ds.drop (32 * i.val)).take 32) else none))
     ∧ (∀ (q : QueueId) (s : State) (d : List Nat), s.atFront q 0x93 d →
         let st := s.placeStatus q.die (fSram (qw d 4)) (fOff (qw d 4)) 192 64
         let p := (s.queue q).next
         let x := s.getCtx q.die q.ctx
         (x.sealable = none → exec (.colophonSeal q) s = .next (s.failAt q 0x02 p))
         ∧ ∀ c, x.sealable = some c →
           (1 < fSpace (qw d 4) → exec (.colophonSeal q) s = .next (s.failAt q 0x01 p))
           ∧ (fSpace (qw d 4) ≤ 1 → st ≠ 0 → exec (.colophonSeal q) s = .next (s.failAt q st p))
           ∧ x.colophon = some c ∧ c.invalid = false ∧ (∀ i : Fin 3, c.slots[i] ≠ none)
           ∧ (fSpace (qw d 4) ≤ 1 → st = 0 → bit (qw d 5) 0 = false →
               let w := s.writeLocal q.die (fSram (qw d 4)) (fOff (qw d 4)) (s.colophonBytes q c false ++ List.replicate 64 0)
               (w.2 = 0 → ∃ t : State, exec (.colophonSeal q) s = .next t ∧ s.tookAs t q d none w.1
                 ∧ (t.getCtx q.die q.ctx).colophon = none))
           ∧ (fSpace (qw d 4) ≤ 1 → st = 0 → bit (qw d 5) 0 = true →
               (s.identityKey = true → ∃ t : State, exec (.colophonSeal q) s = .next t ∧ s.took t q d false
                 ∧ t = { s with dies := t.dies, sec := { s.sec with jobs := s.sec.jobs ++ [.seal q p] } }
                 ∧ (∀ a : Place, t.byteAt a = s.byteAt a) ∧ (t.getCtx q.die q.ctx).colophon = some c)
               ∧ (s.identityKey = false → exec (.colophonSeal q) s = .next
                   ((s.raise { code := 0x02C2, unit := uDie q.die, ctx := some q.ctx.val }).failAt q 0x03 p))))
     ∧ (∀ (s : State) (q : QueueId) (p : Pos) (rest : List SignJob) (e : Started) (c : Colophon), s.sec.jobs = .seal q p :: rest →
         (s.queue q).started.find? (fun x => x.pos == p) = some e → (s.getCtx q.die q.ctx).sealable = some c → s.identityKey = true →
         (s.writeLocal q.die (fSram (qw e.qws 4)) (fOff (qw e.qws 4))
           (s.colophonBytes q c (bit (qw e.qws 5) 0) ++ List.replicate 64 0)).2 = 0 →
         let signs (k : Nat) : Option (List Byte) := sm2Sign s.vendor.serial s.vendor.identityKey (s.colophonBytes q c true)
           (Config.identityPrivate s.vendor.identityKey) k
         ∃ (sig : List Byte) (t : State), (∀ b, signs (leNat (s.freshBytes 32).1 % sm2N) = some b → sig = b) ∧ sig.length = 64 ∧ exec .signatureComplete s = .next t ∧ t.sec = { s.sec with jobs := rest }
           ∧ (∀ a : Place, t.byteAt a = (s.writeLocal q.die (fSram (qw e.qws 4)) (fOff (qw e.qws 4))
               (s.colophonBytes q c (bit (qw e.qws 5) 0) ++ sig)).1.byteAt a)
           ∧ (t.getCtx q.die q.ctx).colophon = none ∧ ∀ y ∈ (t.queue q).started, y.pos = p → y.done = true))

/-- Members start a collective together and take each other's records. Rests on R312, R315, R316, R318, R319, R320,
R331, R526, R325, R326, R330, R338. -/
def Obligations.CollectivesStartAndExchange : Prop :=
  ((∀ (q : QueueId) (rails : List RailObs) (s : State) (op : Nat) (i : Instr),
     (op, i) ∈ [(0x58, Instr.allReduce ⟨q, rails⟩), (0x59, Instr.reduceScatter ⟨q, rails⟩),
       (0x5A, Instr.allGather q), (0x5B, Instr.broadcast q), (0x5C, Instr.allToAll q), (0x5D, Instr.barrier q)] →
     ((s.collOf q.die q.ctx).isSome = true → exec i s = .next s)
     ∧ ∀ d, s.collOf q.die q.ctx = none → s.atFront q op d →
       let p := (s.queue q).next
       let barrier := op = 0x5D
       (clReserved d = true → exec i s = .next ((s.closeHandle q d).failAt q 0x01 p))
       ∧ (clReserved d = false → ∀ (s1 s2 : State) (pb : List Byte) (ts : List (Tensor × Bool)),
           s.placeStatus q.die (fSram (qw d 4)) (fOff (qw d 4)) 128 64 = 0 →
           s.placeStatus q.die (fSram (qw d 7)) (fOff (qw d 7)) (bits (qw d 7) 63 48 * 65536) 65536 = 0 →
           s.readLocal q.die (fSram (qw d 4)) (fOff (qw d 4)) 128 = (s1, 0, pb) →
           (barrier → ts = [] ∧ s2 = s1) →
           (¬ barrier → s.placeStatus q.die (fSram (qw d 5)) (fOff (qw d 5)) 128 64 = 0
             ∧ s1.readTensors q.die (fSram (qw d 5)) (fOff (qw d 5)) 2 = (s2, 0, ts)) →
           let r := parseColl pb
           let c := s2.makeColl q d r (tensorOf ts 0) (tensorOf ts 1)
           let isRoot := c.op ≠ 0x5B ∨ c.rank = clRoot d
           let used := if isRoot then ts else ts.drop 1
           r.reserved = false → (∀ t ∈ used, t.2 = false ∧ s2.tensorOut q.die t.1 = false ∧ t.1.misaligned = false) →
           let st := s2.collStatus c r isRoot
           let w := s2.writeLocal q.die (fSram (qw d 4)) (fOff (qw d 4) + 0x10) (leBytes 4 ((r.inst + 1) % 2 ^ 32))
           (st ≠ 0 → exec i s = .next ((s2.closeHandle q d).failAt q st p))
           ∧ (st = 0 → w.2 = 0 →
               ((c.members = 0 ∨ (¬ barrier ∧ c.elems = 0)) → ∃ t : State, exec i s = .next t
                 ∧ s.tookAs t q d (if bit (qw d 6) 46 = true ∧ ¬ barrier then some (bits (qw d 6) 45 42, flagSummary 0 false false)
                     else none) w.1)
               ∧ (¬ (c.members = 0 ∨ (¬ barrier ∧ c.elems = 0)) → (s.queue q).cancels p = false → ∃ t : State, exec i s = .next t
                 ∧ ((t.queue q).status ≠ 0 ∨ ((t.queue q).next = p.after
                   ∧ ∃ xs e, (t.queue q).started = xs ++ [e] ∧ e.pos = p ∧ e.qws = d))))))
   ∧ ∀ (q : QueueId) (s : State) (d : List Nat), s.atFront q 0x5E d →
       let p := (s.queue q).next
       let h := bits (qw d 5) 63 56
       let code := bits (qw d 5) 55 53
       let st := if 1 < fSpace (qw d 4) ∨ 5 < code then 0x01 else s.placeStatus q.die (fSram (qw d 4)) (fOff (qw d 4)) 64 64
       (st ≠ 0 → exec (.streamOpen q) s = .next (s.failAt q st p))
       ∧ (st = 0 → (∃ y ∈ (s.getCtx q.die q.ctx).streams, y.handle = h) → exec (.streamOpen q) s = .next (s.failAt q 0x02 p))
       ∧ (st = 0 → (∀ y ∈ (s.getCtx q.die q.ctx).streams, y.handle ≠ h) →
           ∃ t : State, exec (.streamOpen q) s = .next t ∧ s.tookIdle t q d none
             ∧ (t.getCtx q.die q.ctx).streams = (s.getCtx q.die q.ctx).streams
                 ++ [{ handle := h, sram := fSram (qw d 4), off := fOff (qw d 4), chunk := code, present := [], terms := [], panels := 1, sats := [] }]))
  ∧ (∀ (d : DieId) (x : CtxId) (t : Trailer) (s : State),
       let cmds : List (Nat × Instr) := [(3, .grantArrival d x t), (4, .acknowledgementArrival d x t), (5, .retransmitRequestArrival d x t),
         (6, .abortNoticeArrival d x t), (7, .barrierTokenArrival d x t)]
       (∀ k i, (k, i) ∈ cmds → (t.kind ≠ k ∨ trailerOk t = false) → exec i s = .next s)
       ∧ (∀ k i, (k, i) ∈ cmds → t.kind = k → trailerOk t = true →
           (∀ c, s.collRun d x = some c → t.planId ≠ c.planId ∨ t.inst ≠ c.inst) →
           (s.collRun d x = none → s.collOf d x = none ∧ (s.die d).presence = .inService) →
           exec i s = .next (s.updCtx d x fun y => { y with mail := y.mail ++ [t] }))
       ∧ ∀ c, s.collRun d x = some c → trailerOk t = true → t.planId = c.planId → t.inst = c.inst →
         let h := c.heard t.sender s.mono
         (t.kind = 3 → exec (.grantArrival d x t) s = .next ((s.setColl d x (some { h with
           credit := c.credit.map fun p => if p.1 = t.sender then (t.sender, p.2 + 1) else p })).collSettle d x))
         ∧ (t.kind = 4 → exec (.acknowledgementArrival d x t) s = .next ((s.setColl d x (some { h with
             sent := c.sent.filter fun k => !(k.dst == t.sender && k.st == t.stage && k.num == t.chunk) })).collSettle d x))
         ∧ (t.kind = 5 → ∀ k, c.sent.find? (fun k => k.dst == t.sender && k.st == t.stage && k.num == t.chunk) = some k →
             ∃ (u : State) (c' : Coll), exec (.retransmitRequestArrival d x t) s = .next (u.collSettle d x)
               ∧ (u.getCtx d x).coll = some c' ∧ c' = { h with ops := c'.ops, status := c'.status }
               ∧ (∀ a : Place, u.byteAt a = s.byteAt a) ∧ ∀ r, u.queue r = s.queue r)
         ∧ (t.kind = 6 → (s.queue c.q).cancels c.pos = false → ∃ u : State, exec (.abortNoticeArrival d x t) s = .next u ∧ (u.queue c.q).status = 0x33
             ∧ (u.queue c.q).haltPos = some c.pos ∧ (u.getCtx d x).coll = none)
         ∧ (t.kind = 7 → ∃ (u : State) (c' : Coll), exec (.barrierTokenArrival d x t) s = .next (u.collSettle d x)
             ∧ (u.getCtx d x).coll = some c' ∧ c'.tokens = c.tokens ++ [(t.stage, t.chunk, t.sender)] ∧ c.tokenAt ≤ c'.tokenAt
             ∧ (∀ a : Place, u.byteAt a = s.byteAt a) ∧ ∀ r, u.queue r = s.queue r))

/-- Chunks of a collective: sending into a granted slot, arrival and its check, a stream's release, a silent partner.
Rests on R324, R325, R326, R328, R329, R330, R332, R336, R341. -/
def Obligations.ChunksAreSentAndTaken : Prop :=
  ∀ (d : DieId) (x : CtxId) (s : State) (c : Coll), s.collRun d x = some c →
    (∀ dst k b, c.nextChunk dst = some (k, b) → (∃ n, c.credit.find? (fun p => p.1 == dst) = some (dst, n + 1)) →
      s.steerHolds c k.x.idx dst = false →
      ∃ (u : State) (c' : Coll) (y : SentChunk), exec (.chunkSend d x dst) s = .next (u.collFailed d x)
        ∧ (u.getCtx d x).coll = some c' ∧ y.dst = dst ∧ y.st = k.x.idx ∧ y.num = k.num ∧ y.payload = b
        ∧ c' = { c with sent := c.sent ++ [y], sentIds := c.sentIds ++ [(dst, k.x.idx, k.num)], ops := c'.ops, status := c'.status,
                        credit := c.credit.map fun p => if p.1 = dst then (dst, p.2 - 1) else p }
        ∧ (∀ a : Place, u.byteAt a = s.byteAt a) ∧ (∀ r, u.queue r = s.queue r) ∧ ∀ e o, (u.die e).obj o = (s.die e).obj o)
    ∧ (∀ k : ChunkObs, let t := k.trailer
        (trailerOk t = true → t.planId ≠ c.planId ∨ t.inst ≠ c.inst → (s.queue c.q).cancels c.pos = false → ∃ u : State,
          exec (.chunkArrival d x k) s = .next u ∧ (u.queue c.q).status = 0x33 ∧ (u.queue c.q).haltPos = some c.pos
          ∧ (u.getCtx d x).coll = none)
        ∧ (t.planId = c.planId → t.inst = c.inst → ∀ y, c.parcelOf t.sender t.stage t.chunk = some y →
            (t.stage, t.chunk, t.sender) ∉ c.takenIds →
            (∀ r ∈ c.recv, ¬ (r.st = t.stage ∧ r.num = t.chunk ∧ r.sender = t.sender)) →
            let good := trailerOk t = true ∧ k.payload.length = c.payloadBytes y ∧ crc32c k.payload = t.payloadCrc
              ∧ (Coll.arithmetic y = false → crc32c k.payload = t.originCrc)
            let h := c.heard t.sender s.mono
            (good → k.rails = .agree → exec (.chunkArrival d x k) s = .next ((s.setColl d x (some { h with
                recv := c.recv ++ [{ st := t.stage, sender := t.sender, num := t.chunk, residue := t.residue, payload := k.payload }], rails := k.groups })).collSettle d x))
            ∧ (¬ good →
                let n := ((c.tries.find? fun z => z.1 == t.stage && z.2.1 == t.chunk && z.2.2.1 == t.sender).map (·.2.2.2)).getD 0
                (s.setting 0x4400 3 ≤ n → ∃ u : State, exec (.chunkArrival d x k) s = .next u
                  ∧ ((s.queue c.q).cancels c.pos = false → (u.queue c.q).status = 0x32) ∧ (u.getCtx d x).coll = none)
                ∧ (n < s.setting 0x4400 3 → ∃ (u : State) (c' : Coll), exec (.chunkArrival d x k) s = .next u
                  ∧ (u.getCtx d x).coll = some c' ∧ (t.stage, t.chunk, t.sender, n + 1) ∈ c'.tries ∧ c'.recv = c.recv
                  ∧ c'.takenIds = c.takenIds ∧ ∀ a : Place, u.byteAt a = s.byteAt a))))
    ∧ (∀ (y : Stream) (n : Nat) (rails : List RailObs), clS c.qws = true → (s.getCtx d x).streams.find? (fun y => clS c.qws && y.handle == clHandle c.qws) = some y →
        n < ceilDiv c.units c.upc → n ∉ c.released →
        (∀ u ∈ c.chunkUnits n, ∀ i, i < c.unitElems u → y.has (256 * u + i) = true) →
        (∀ m, m < n → m ∈ c.released ∨ ∃ u ∈ c.chunkUnits m, ∃ i, i < c.unitElems u ∧ y.has (256 * u + i) = false) →
        let tooMany := clCanon c.qws = true ∧ afxMaxTerms (clWide c.qws) < c.members * y.panels
        (tooMany → ∃ u : State, exec (.streamChunkRelease d ⟨x, rails⟩) s = .next u ∧ (u.getCtx d x).coll = none
          ∧ ((s.queue c.q).cancels c.pos = false → (u.queue c.q).status = 0x02))
        ∧ (¬ tooMany → (s.flatSource d c.src).2.1 = 0 →
        ∃ (u : State) (c' : Coll), exec (.streamChunkRelease d ⟨x, rails⟩) s = .next (u.collSettle d x) ∧ (u.getCtx d x).coll = some c'
          ∧ c'.released = c.released ++ [n] ∧ c'.recv = c.recv ∧ c'.sent = c.sent ∧ ∀ a : Place, u.byteAt a = s.byteAt a))
    ∧ (∀ (rank m : Nat), c.progress.find? (fun p => p.1 == rank) = some (rank, m) → c.awaits rank = true →
        m + s.setting 0x4400 2 * 1000000 ≤ s.mono →
        let named : Cause := { code := 0x0464, unit := uUnit d 6, ctx := some x.val, detail := (c.nodeDie rank).1 * 2 ^ 32 + rank }
        ∃ u : State, exec (.partnerProgressTimeout d x rank) s = .next (u.raise named)
          ∧ (u.getCtx d x).coll = some (c.heard rank s.mono) ∧ u = { s with dies := u.dies }
          ∧ (∀ a : Place, u.byteAt a = s.byteAt a) ∧ ∀ r, u.queue r = s.queue r)

/-- Injection, clasps, retries and backoff at a source, and the settle and discard of a key's sequence state. Rests on
R269, R270, R271, R273, R274, R277, R279, R281. -/
def Obligations.SourcesInjectAndRetry : Prop :=
  (∀ (d : SrcDie) (id : Nat) (s : State) (o : RemOp), s.srcOp d id = some o →
    (∀ i : Instr, (i = .requestInject d id ∧ o.clasp = false ∧ o.gclasp = false ∧ s.waitsBehind d o = false)
        ∨ (i = .claspSend d id ∧ (o.clasp = true ∨ o.gclasp = true) ∧ s.claspHeld d o = false) →
      o.seq = none → s.channelStopped o = false → s.mayInject d o = true → s.windowOpen d o = true →
      let n := ((s.srcKey d o.stream o.key).map (·.next)).getD 0
      ∃ (t : State) (r : Request), exec i s = .next t ∧ t.wire = s.wire ++ [.request d r] ∧ requestOk r = true ∧ r.seq = n
        ∧ r.stream = o.stream ∧ r.op = o.op ∧ r.payload = o.payload ∧ r.srcNode = s.node ∧ r.srcDie = d.val ∧ r.attempt = o.attempt
        ∧ (t.srcKey d o.stream o.key).map (·.next) = some ((n + 1) % 2 ^ 32)
        ∧ (∃ o' ∈ (t.source d).ops, o'.id = id ∧ o'.seq = some n) ∧ t.log = s.log
        ∧ (∀ a : Place, t.byteAt a = s.byteAt a) ∧ ∀ q, t.queue q = s.queue q)
    ∧ (∀ i : Instr, (i = .retryTimeout d id ∧ o.seq ≠ none ∧ o.backoff = none ∧ o.sentAt + o.timeout ≤ s.mono ∧ o.attempt + 1 < o.limit)
        ∨ (i = .nkBackoffExpiry d id ∧ ∃ m, o.backoff = some m ∧ m ≤ s.mono) → s.mayInject d o = true →
        ∃ (t : State) (r : Request), exec i s = .next t ∧ t.wire = s.wire ++ [.request d r] ∧ requestOk r = true
          ∧ r.seq = o.seq.getD 0 ∧ r.retry = true ∧ r.attempt = o.attempt + 1 ∧ r.firstFt = o.firstFt.toNat
          ∧ r.payload = o.payload ∧ (∀ a : Place, t.byteAt a = s.byteAt a) ∧ ∀ q, t.queue q = s.queue q)
    ∧ (∀ (q : QueueId) (p : Pos) (e : Started), o.seq ≠ none → o.backoff = none → s.mayInject d o = true →
        o.sentAt + o.timeout ≤ s.mono → o.limit ≤ o.attempt + 1 → o.owner = .descriptor q p →
        (s.queue q).started.find? (fun e => e.pos == p) = some e → dOp e.qws ≠ 0x60 → dOp e.qws ≠ 0x64 →
        (s.queue q).cancels p = false →
        ∃ t : State, exec (.retryTimeout d id) s = .next t ∧ (t.queue q).status = 0x22 ∧ (t.queue q).haltPos = some p))
  ∧ ∀ (d : SrcDie) (k : KeyRef) (s : State) (x : SrcKey), s.srcKey d k.stream k.key = some x →
      (0 < x.hotUntil → x.hotUntil ≤ s.mono → exec (.hotHoldExpiry d k) s
        = .next (s.updKey d k.stream k.key fun y => { y with hotUntil := 0 }))
      ∧ ∀ m, x.idle = some m →
        (x.settled = false → m + 10000 ≤ s.mono → s.frz.cut = none → (s.die (entryDie d)).presence = .inService →
            s.pause = none → (x.node = s.node ∨ s.gut.now = none) → ∃ (t : State) (r : Request),
          exec (.settleSend d k) s = .next t ∧ t.wire = s.wire ++ [.request d r] ∧ requestOk r = true ∧ r.op = 0x10 ∧ r.size = 0
          ∧ r.seq = x.next ∧ (t.srcKey d k.stream k.key).map (·.idle) = some none ∧ ∀ a : Place, t.byteAt a = s.byteAt a)
        ∧ (x.settled = true → m + 2000000 ≤ s.mono → ∃ t : State, exec (.sequenceStateDiscard d k) s = .next t
          ∧ t.srcKey d k.stream k.key = none ∧ (t.source d).ops = (s.source d).ops ∧ (∀ e, e ≠ d → t.source e = s.source e)
          ∧ t = { s with src := t.src })

/-- A request at its die: refusals, a duplicate answered from the reply cache, a new one entered in its lane. Rests on
R272, R275, R276, R278, R279, R269. -/
def Obligations.RequestsAreTakenInOnce : Prop :=
  (∀ (d : DieId) (r : Request) (s : State), let x := s.die d
    (x.presence ≠ .inService → ∃ y : Reply, exec (.remoteRequestArrival d r) s = .next { s with wire := s.wire ++ [.reply d y] }
      ∧ y.nk = true ∧ y.status = 0x20 ∧ y.seq = r.seq ∧ y.stream = r.stream ∧ y.node = r.srcNode ∧ y.die = r.srcDie ∧ replyOk y = true)
    ∧ (x.presence = .inService → x.ft ≤ r.attemptFt + 1000000 → s.inCut d r.attemptFt = false → s.roomFor d r = true →
        (requestOk r = false → ∃ y : Reply, exec (.remoteRequestArrival d r) s = .next { s with wire := s.wire ++ [.reply d y] }
          ∧ y.nk = true ∧ y.status = 0x20 ∧ y.seq = r.seq)
        ∧ (requestOk r = true → ∀ w sram off, (gaddr r.target).place = .ok (.die w sram off) → x.boundary ≤ (r.firstFt : Int) →
            x.channels ≠ 0 →
            let k := requestKey d r
            (∀ y, x.findRec r k = some y → (r.fresh = true → y.created = (r.firstFt : Int)) → r.seq ∈ y.applied →
              y.floor ≤ r.seq → r.floor ≤ r.seq → r.seq < max y.floor r.floor + 64 → r.op ≠ 1 →
              ∃ (t : State) (z : Reply), exec (.remoteRequestArrival d r) s = .next t ∧ z.seq = r.seq ∧ z.cached = true ∧ z.nk = false
                ∧ t.wire.getLast? = some (.reply d z) ∧ (t.die d).inbound = x.inbound ∧ (∀ a : Place, t.byteAt a = s.byteAt a)
                ∧ (∀ e o, (t.die e).obj o = (s.die e).obj o)
                ∧ (∀ v, x.results.find? (fun v => v.matchesReq r k && v.seq == r.seq) = some v → z.status = v.status ∧ z.payload = v.value)
                ∧ (x.results.find? (fun v => v.matchesReq r k && v.seq == r.seq) = none → z.status = 0x21))
            ∧ (x.findRec r k = none → r.retry = false → x.recs.length < 131072 → r.floor ≤ r.seq → r.seq < r.floor + 64 →
                (∀ e ∈ x.inbound, ¬ (e.req.seq = r.seq ∧ e.req.srcNode = r.srcNode ∧ e.req.srcDie = r.srcDie ∧ e.req.stream = r.stream
                  ∧ requestKey d e.req = k)) →
                (∀ tg, s.checkRequest d r none = .ok tg → r.op ≠ 0x10 → ∃ (t : State) (e : Inbound),
                  exec (.remoteRequestArrival d r) s = .next t ∧ (t.die d).inbound = x.inbound ++ [e] ∧ e.req = r ∧ e.line = 0
                  ∧ e.status = 0 ∧ e.place = tg.place d ∧ e.lane = Config.laneHash e.place.line % 32
                  ∧ (∀ a : Place, t.byteAt a = s.byteAt a) ∧ ∀ e o, (t.die e).obj o = (s.die e).obj o)
                ∧ (∀ st, s.checkRequest d r none = .error st → ∃ (t : State) (z : Reply),
                  exec (.remoteRequestArrival d r) s = .next t ∧ t.wire.getLast? = some (.reply d z) ∧ z.status = st ∧ z.nk = false
                  ∧ (t.die d).inbound = x.inbound ∧ ∀ a : Place, t.byteAt a = s.byteAt a)))))
  ∧ (∀ (d : DieId) (id : Nat) (s : State) (e : Inbound), (s.die d).inbound.find? (fun e => e.id == id) = some e → e.held = true →
      (∀ y, (s.die d).findRec e.req (requestKey d e.req) = some y → ∀ n, y.floor ≤ n → n < e.req.seq → n ∈ y.applied) →
      exec (.claspApply d id) s = .next (s.updDie d fun x =>
        { x with inbound := x.inbound.map fun y => if y.id = id then { y with held := false } else y }))
  ∧ ∀ (d : DieId) (i : Nat) (s : State) (y : Record), (s.die d).recs[i]? = some y → s.frozenDie d = false →
      (∀ n ∈ y.applied, n ≤ y.floor) → y.last + 2000000 ≤ ((s.die d).ft : Int) →
      ∃ t : State, exec (.recordReclaim d i) s = .next t ∧ (t.die d).recs = (s.die d).recs.eraseIdx i
        ∧ (t.die d).horizon = (s.die d).horizon ∧ (∀ z ∈ (t.die d).results, z ∈ (s.die d).results)
        ∧ (∀ a : Place, t.byteAt a = s.byteAt a) ∧ ∀ e, e ≠ d → t.die e = s.die e

/-- LANE_APPLY: a store, a load, an atomic, a signal and a reduction, line by line, each with its reply. Rests on R84,
R221, R259, R260, R261, R275, R276. -/
def Obligations.LanesApplyOperations : Prop :=
  ∀ (d : DieId) (lane : Fin 32) (rails : RailObs) (s : State) (e : Inbound), s.canonical → (s.die d).presence = .inService →
    s.frozenDie d = false → (s.die d).inbound.find? (fun e => e.lane == lane.val && !e.held) = some e →
    (s.die d).lineBusy e = false → s.reaches d e.place.die = true → e.group = none → e.line = 0 → e.status = 0 →
    e.data = [] → (s.die e.place.die).badIn e.place.sram e.place.off e.req.size = [] →
    let r := e.req
    let w := e.place
    let ends (t : State) (st : Nat) (data : List Byte) : Prop := exec (.laneApply d lane rails) s = .next t
      ∧ (t.die d).inbound = (s.die d).inbound.filter (fun x => x.id ≠ e.id)
      ∧ (∃ z : Reply, t.wire.getLast? = some (.reply d z) ∧ z.status = st ∧ z.payload = data ∧ z.seq = r.seq ∧ z.node = r.srcNode
          ∧ z.die = r.srcDie ∧ z.stream = r.stream ∧ z.nk = false ∧ z.cached = false ∧ z.hot = e.hot)
    let puts (t : State) (bs : List Byte) : Prop := (∀ e o, (t.die e).obj o = (s.die e).obj o) ∧ ∀ a : Place, t.byteAt a =
      if a.die = w.die ∧ a.sram = w.sram ∧ w.off ≤ a.off ∧ a.off < w.off + bs.length then bs.getD (a.off - w.off) 0 else s.byteAt a
    let oldBytes (n : Nat) : List Byte := (List.range n).map fun i => s.byteAt ⟨w.die, w.sram, w.off + i⟩
    ((gaddr r.target).space ≠ 2 → w.off % 64 + r.size ≤ 64 → 0 < r.size →
      (r.op = 2 → r.payload.length = r.size → ∃ t, ends t 0 [] ∧ puts t r.payload)
      ∧ (r.op = 1 → ∃ t, ends t 0 (oldBytes r.size) ∧ puts t [])
      ∧ (isReduce r.op = true → isAfx r.op = false → r.size = 64 → r.payload.length = 64 →
          (rails ≠ .twice → ∃ t, ends t 0 [] ∧ puts t (reduceLine r.op (oldBytes 64) r.payload))
          ∧ (rails = .twice → ∃ t, ends t 0x31 [] ∧ puts t [])))
    ∧ (r.op = 2 → (gaddr r.target).space ≠ 2 → 64 < w.off % 64 + r.size → r.payload.length = r.size →
        ∃ t : State, exec (.laneApply d lane rails) s = .next t ∧ t.wire = s.wire ∧ puts t (r.payload.take (64 - w.off % 64))
          ∧ (t.die d).inbound = (s.die d).inbound.map fun x => if x.id = e.id then { e with line := 1 } else x)
    ∧ (isAfx r.op = true → (rails = .twice → ∃ t, ends t 0x31 [] ∧ puts t [])
        ∧ (rails ≠ .twice → (∀ new, afxMerge (r.op == 0x0D) (oldBytes r.size) r.payload = some new → new.length = r.size →
            ∃ t, ends t 0 [] ∧ puts t new)
          ∧ (afxMerge (r.op == 0x0D) (oldBytes r.size) r.payload = none → ∃ t, ends t 0x02 [] ∧ puts t [])))
    ∧ (isAtomic r.op = true → (let n := if r.wide then 8 else 4
        (s.die w.die).badIn w.sram w.off n = [] →
        ∃ t, ends t 0 (oldBytes n) ∧ puts t (leBytes n (atomicNew r.op r.signed n (leNat (oldBytes n))
          (leNat (r.payload.take n) % 2 ^ (8 * n)) (leNat (r.payload.drop n) % 2 ^ (8 * n))))))
    ∧ (isSignal r.op = true → ∀ o, w.off = sramSize + 4 * o → (s.die d).isDoorbell o = false → r.release ≤ (s.die d).ft →
        let v := leNat r.payload
        ∃ t, ends t 0 [] ∧ (∀ a : Place, t.byteAt a = s.byteAt a)
          ∧ ∀ k n, (t.die k).obj n = if k = d ∧ n = o then (if r.op = 0x09 then v else ((s.die d).obj o + v) % 2 ^ 32)
              else (s.die k).obj n)

/-- Replies complete operations, and each spine hop comes nearer. Rests on R272, R274, R279, R281, R26. -/
def Obligations.RepliesAndSpineHops : Prop :=
  (∀ (d : SrcDie) (r : Reply) (s : State),
     (replyOk r = false → exec (.remoteReplyArrival d r) s = .next s)
     ∧ (replyOk r = true → (s.die (entryDie d)).presence = .inService → s.inCut (entryDie d) r.replyFt = false → s.combines = [] →
         (s.answered d r = none → exec (.remoteReplyArrival d r) s = .next s)
         ∧ ∀ o, s.answered d r = some o →
           (r.nk = true → o.attempt + 1 < o.limit → (∀ y ∈ (s.source d).ops, y.id = o.id → y = o) →
             ∃ t : State, exec (.remoteReplyArrival d r) s = .next t
             ∧ (t.source d).ops = (s.source d).ops.map (fun y => if y = o then { o with backoff := some (s.mono + o.nkWait) } else y)
             ∧ (∀ a : Place, t.byteAt a = s.byteAt a) ∧ ∀ q, t.queue q = s.queue q)
           ∧ (r.nk = false → ∃ t : State, exec (.remoteReplyArrival d r) s = .next t ∧ o ∉ (t.source d).ops)
           ∧ (∀ (q : QueueId) (p : Pos) (e : Started), r.nk = false → o.owner = .descriptor q p →
               (s.queue q).started.find? (fun e => e.pos == p) = some e → dOp e.qws ≠ 0x60 → dOp e.qws ≠ 0x64 → (s.queue q).cancels p = false →
               (r.status ≠ 0 → ∃ t : State, exec (.remoteReplyArrival d r) s = .next t ∧ (t.queue q).status = r.status
                 ∧ (t.queue q).haltPos = some p)
               ∧ (r.status = 0 → e.done = true → ∀ w : Place, s.canonical → o.sink = .place w →
                   (∀ h : d.val < 20, s.reaches ⟨d.val, h⟩ w.die = true) →
                   (s.die w.die).badIn w.sram w.off r.payload.length = [] →
                   ∃ t : State, exec (.remoteReplyArrival d r) s = .next t
                     ∧ (∀ a : Place, t.byteAt a = if a.die = w.die ∧ a.sram = w.sram ∧ w.off ≤ a.off ∧ a.off < w.off + r.payload.length
                         then r.payload.getD (a.off - w.off) 0 else s.byteAt a)
                     ∧ (t.queue q).status = (s.queue q).status
                     ∧ ∀ y ∈ (t.queue q).started, y.pos = p → o.id ∉ y.ops))))
  ∧ ((∀ (v : Bool) (x t : DieId), x ≠ t →
       let dist (y : DieId) : Nat := (max (y.val % 5) (t.val % 5) - min (y.val % 5) (t.val % 5))
         + (max (y.val / 5) (t.val / 5) - min (y.val / 5) (t.val / 5))
       dist (nextDie v x t) + 1 = dist x ∧ (gridBridge x (nextDie v x t)).isSome = true)
     ∧ ∀ (d : DieId) (k : SpinePacket) (s : State), (s.die d).presence = .inService → s.pause = none → k.dst ≠ d →
         (s.aged d k.body = true → exec (.spineHop d k) s = .next s) ∧ (s.aged d k.body = false →
         let out (v : Bool) : Prop := exec (.spineHop d k) s
           = .next { s with wire := s.wire ++ [.spine (nextDie v d k.dst) { k with vc := some v }] }
         (∀ v, k.vc = some v → s.pathClear v 7 d k.dst = true → out v)
         ∧ (k.vc = none → s.pathClear false 7 d k.dst = true → out false)
         ∧ (k.vc = none → s.pathClear false 7 d k.dst = false → s.pathClear true 7 d k.dst = true → out true)
         ∧ ((∀ v, (k.vc = none ∨ k.vc = some v) → s.pathClear v 7 d k.dst = false) →
             let u := s.raise { code := 0x0485, unit := s.lostUnit d k.body, detail := k.dst.val }
             (∀ y, k.body = .reply y → exec (.spineHop d k) s = .next u)
             ∧ ∀ r, k.body = .request r →
                 (r.srcNode = s.node → (∀ h : r.srcDie < 20, s.lostUnit d k.body = uDie ⟨r.srcDie, h⟩)
                   ∧ (r.srcDie = 20 → s.lostUnit d k.body = uHost))
                 ∧ ∃ (t : State) (z : Reply), exec (.spineHop d k) s = .next t ∧ t = { u with wire := u.wire ++ [.reply d z], free := t.free }
                     ∧ z.nk = true ∧ z.status = 0x20 ∧ z.seq = r.seq ∧ ∀ e, s.targetDie r = some e → z.epoch = (s.die e).epoch)))

/-- A port trains, compares its neighbour's discovery word with the plan, times out, falls and tries again. Rests on
R290, R291, R292, R306, R360, R363, R364, R367. -/
def Obligations.PortsTrainAndDiscover : Prop :=
  ∀ (p : PortId) (s : State), let x := s.port p
    (x.lit = true → 8 ≤ x.inService → s.spinePath p = true → x.state = .training ∨ x.state = .unused →
      ∃ t : State, exec (.portTrained p) s = .next t ∧ t = { s with ports := t.ports } ∧ (∀ q, q ≠ p → t.port q = s.port q)
        ∧ (t.port p).state = (if x.state = .training then .discovery else .held) ∧ (t.port p).since = s.mono
        ∧ (t.port p).egress = x.egress)
    ∧ (x.trained = true → ∃ w : DiscoveryWord, exec (.discoveryWordSend p) s = .next { s with wire := s.wire ++ [.discovery p w] }
        ∧ w.node = s.node ∧ w.port = p.val ∧ w.exit = x.exit ∧ w.kind = x.exitPlan.kind ∧ w.dim = x.exitPlan.dim
        ∧ w.shared = x.plan.shared ∧ w.plan = s.topo.plan.ident ∧ w.tag = s.tagOf x.plan.quire)
    ∧ (∀ w : DiscoveryWord, x.state = .discovery →
        let e := x.exitPlan
        let ends (st : PortState) (code : Nat) : Prop := ∃ u : State, exec (.discoveryWordReceive p w) s
            = .next (u.raise { code := code, unit := uPort p x.exit })
          ∧ (u.port p).state = st ∧ (u.port p).word = some w ∧ (u.port p).cause = code % 256
        let same := w.node = e.node ∧ w.port = e.port ∧ w.kind = e.kind ∧ (e.kind = 1 → w.dim = e.dim)
        let open_ := w.shared = x.plan.shared ∧ (w.shared = true ∨ w.tag = s.tagOf x.plan.quire)
        (w.plan ≠ s.topo.plan.ident → ends .held 0x0405)
        ∧ (w.plan = s.topo.plan.ident → e.kind = 0 → ends .held 0x0403)
        ∧ (w.plan = s.topo.plan.ident → e.kind ≠ 0 → ¬ same → ends .disabled 0x0404)
        ∧ (w.plan = s.topo.plan.ident → e.kind ≠ 0 → same → ¬ open_ → ends .held 0x0405)
        ∧ (w.plan = s.topo.plan.ident → e.kind ≠ 0 → same → open_ → ends .up 0x0401))
    ∧ (x.state = .training → x.since + 10000000 ≤ s.mono → ∃ u : State,
        exec (.portTrainingTimeout p) s = .next (u.raise { code := 0x0402, unit := uPort p x.exit }) ∧ (u.port p).state = .down
        ∧ (u.port p).since = s.mono ∧ ∀ q, q ≠ p → u.port q = s.port q)
    ∧ (x.state = .down → x.lit = true → s.spinePath p = true → s.fabricOn = true → x.since + 100000000 ≤ s.mono → ∃ t : State,
        exec (.portTrainingRetry p) s = .next t ∧ (t.port p).state = .training ∧ (t.port p).exit = x.exit
        ∧ (t.port p).opt = x.opt.retrain ∧ t = { s with ports := t.ports } ∧ ∀ q, q ≠ p → t.port q = s.port q)
    ∧ (∀ why : PortDownCause, s.pause ≠ none → exec (.portDown p why) s = .next s)
    ∧ (∀ why : PortDownCause, x.trained = true → s.pause = none → ∃ t : State, exec (.portDown p why) s = .next t ∧ (t.port p).state = .down
        ∧ (t.port p).since = s.mono ∧ (t.port p).cause = (if why = .combFailed then 0x0B else 0x02)
        ∧ (x.state = .up → (t.port p).egress = []) ∧ (x.state ≠ .up → (t.port p).egress = x.egress)
        ∧ ∀ a : Place, t.byteAt a = s.byteAt a)

/-- FABRIC_PACKET_ROUTE: the tag fence, the hop limit, delivery, the next dimension's emptiest port, no way. Rests on
R266, R276, R294, R295, R296, R298, R299, R300, R304, R307, R308. -/
def Obligations.PacketsAreRoutedByDimension : Prop :=
  ∀ (arrival : Option PortId) (k0 : FabricPacket) (s : State),
    let enters : Prop := ∀ p, arrival = some p → (s.port p).trained = true ∧ (k0.tag = 0 ∨ (s.port p).state = .up)
    let k : FabricPacket := match arrival with
      | some _ => k0
      | none => formed k0.body
    let k' : FabricPacket := { k with hops := k.hops + 1 }
    let room : Prop := k.dst = 0xFFFF → ∀ r, k.body = .request r → s.deliveryRoom r = true
    enters →
    (arrival = none → k.vc = false ∧ k.hops = 0 ∧ k.detour = false ∧ k.ring = 0 ∧ k.body = k0.body)
    ∧ (∀ p, arrival = some p → s.permits p k.tag = false → ∃ u : State,
      (∀ r, k.body = .request r → ∃ (z : Reply) (f : FabricPacket), exec (.fabricPacketRoute arrival k0) s = .next (u.enqueuePort p f)
          ∧ f.body = .reply z ∧ f.dst = r.srcNode ∧ f.tag = k.tag ∧ z.nk = true ∧ z.status = 0x13 ∧ z.seq = r.seq)
      ∧ (∀ z, k.body = .reply z → exec (.fabricPacketRoute arrival k0) s = .next u)
      ∧ (∃ w : State, u.log = (w.raise { code := 0x0409, unit := uPort p (s.port p).exit }).log ∧ w.log = s.log)
      ∧ u.topo.counts[1] = s.topo.counts[1] + 1 ∧ u.ports = s.ports)
    ∧ ((∀ p, arrival = some p → s.permits p k.tag = true) →
        (s.aged (routeDie arrival k) k.body = true ∨ ¬ room → exec (.fabricPacketRoute arrival k0) s = .next s)
        ∧ (s.aged (routeDie arrival k) k.body = false → room →
        (∀ p, arrival = some p → 23 ≤ k.hops → ∃ w : State, exec (.fabricPacketRoute arrival k0) s
            = .next (w.raise { code := 0x040A, unit := uPort p (s.port p).exit })
          ∧ w = { s with topo := w.topo } ∧ w.topo.counts[2] = s.topo.counts[2] + 1)
        ∧ (k.hops < 23 → s.topo.joined = true ∨ k.tag = 0 →
            (k.dst ≠ 0xFFFF → k.dst = s.node → (k.tag = 0 → s.firmwareDie ≠ none) → ∃ (d : DieId) (y : SpinePacket),
              exec (.fabricPacketRoute arrival k0) s = .next { s with wire := s.wire ++ [.spine d y] } ∧ y.body = k.body ∧ y.vc = none)
            ∧ (k.dst ≠ 0xFFFF → (∀ y, k.body = .reply y → s.combineFor y = none) →
              (k.dst ≠ s.node → k.dst < s.topo.plan.modules → ∀ d,
                [0, 1, 2, 3].find? (fun d => s.topo.plan.coord s.node d ≠ s.topo.plan.coord k.dst d) = some d →
                s.topo.plan.isRing d = false →
                ∀ p, p ∈ s.routeTo d (s.topo.plan.coord k.dst d) k.tag →
                (∀ q ∈ s.routeTo d (s.topo.plan.coord k.dst d) k.tag, (s.port p).queued < (s.port q).queued
                  ∨ ((s.port p).queued = (s.port q).queued ∧ p ≤ q)) →
                (s.port p).queued ≤ 2 ^ 64 → exec (.fabricPacketRoute arrival k0) s = .next (s.enqueuePort p k')
                  ∧ ((s.port p).backlog = [] → (s.port p).queued + packetBytes k' ≤ 524288 →
                      ((s.enqueuePort p k').port p).egress = (s.port p).egress ++ [k']))
              ∧ (∀ r, k.body = .request r → (s.route k' matches .none) →
                ∃ (d : DieId) (z : Reply) (t : State), exec (.fabricPacketRoute arrival k0) s = .next t
                  ∧ t.wire.getLast? = some (.reply d z) ∧ z.nk = true ∧ z.status = 0x20 ∧ z.seq = r.seq ∧ t.ports = s.ports)
              ∧ ∃ t : State, exec (.fabricPacketRoute arrival k0) s = .next t ∧ ∀ p, t.port p = s.port p
                  ∨ ((s.port p).routed ≠ none ∧ s.permits p k.tag = true
                    ∧ ∃ f : FabricPacket, t.port p = (s.port p).accept [f] ∧ f.body = k.body ∧ f.hops = k.hops + 1))
            ∧ (∀ r, k.dst = 0xFFFF → k.body = .request r → requestOk r = true → arrival ≠ none →
                let e := s.groupEntry (bits (gaddr r.target).off 43 32)
                let right := entryValid e = true ∧ ∀ p : PortId, arrival = some p → entryIngress e = p.val
                (¬ right → ∃ c : Cause, exec (.fabricPacketRoute arrival k0) s = .next (s.raise c) ∧ c.code = 0x0446)
                ∧ (right → ∃ t : State, exec (.fabricPacketRoute arrival k0) s = .next t ∧ ∀ p : PortId,
                    (bit (entryPorts e) p.val = true → arrival ≠ some p → s.carries p r.tag = true →
                      ∃ f : FabricPacket, t.port p = (s.port p).accept [f] ∧ f.body = k.body ∧ f.hops = k.hops + 1)
                    ∧ (arrival ≠ some p → (bit (entryPorts e) p.val = false ∨ s.carries p r.tag = false) → t.port p = s.port p)
                    ∧ (arrival = some p → ∃ fs : List FabricPacket, t.port p = (s.port p).accept fs
                        ∧ ∀ f ∈ fs, ∃ z, f.body = .reply z))))))

/-- Dimension state words, congestion, and the staging of routing plans. Rests on R301, R308, R288, R289, R394. -/
def Obligations.StateWordsAndRoutingPlans : Prop :=
  ((∀ s : State, let p := s.topo.plan
     let words := (List.range 4).flatMap fun d => if p.isRing d ∨ p.size d ≤ 1 then [] else (s.upIn d).map fun q => Out.stateWord q d (s.stateMask d)
     let maps := if p.ring = true ∧ s.topo.ringSent ≠ some s.ownRing
       then (s.upIn 3).map fun q => Out.ringMap q (p.coord s.node 3) s.ownRing else []
     ∃ t : State, exec .dimensionStateWordSend s = .next t ∧ t.wire = s.wire ++ words ++ maps
       ∧ (p.ring = true → t.topo.ringSent = some s.ownRing) ∧ t = { s with wire := t.wire, topo := { s.topo with ringSent := t.topo.ringSent } }
       ∧ ∀ q d, q ∈ s.upIn d ↔ (s.port q).state = .up ∧ (s.port q).exitPlan.kind = 1 ∧ (s.port q).exitPlan.dim = d)
   ∧ (∀ (p : PortId) (dim mask : Nat) (s : State), (s.port p).state = .up → (s.port p).exitPlan.kind = 1 → (s.port p).exitPlan.dim = dim →
       s.topo.plan.isRing dim = false → ∃ t : State, exec (.dimensionStateWordReceive p dim mask) s = .next t
         ∧ t = { s with topo := { s.topo with words := t.topo.words } }
         ∧ ∀ q e m, (q, e, m) ∈ t.topo.words ↔ (q = p.val ∧ e = dim ∧ m = mask) ∨ (q ≠ p.val ∧ (q, e, m) ∈ s.topo.words))
   ∧ (∀ (p : PortId) (origin map : Nat) (s : State), p ∈ s.upIn 3 → s.topo.plan.ring = true → origin < s.topo.plan.size 3 →
       origin ≠ s.topo.plan.coord s.node 3 → SMap.get 0 s.topo.ringBits origin ≠ map → map ≠ 0 →
       ∃ t : State, exec (.ringLinkMapReceive p origin map) s = .next t
         ∧ t.wire = s.wire ++ ((s.upIn 3).filter (fun q => q ≠ p)).map (fun q => Out.ringMap q origin map)
         ∧ SMap.get 0 t.topo.ringBits origin = map ∧ ∀ o, o ≠ origin → SMap.get 0 t.topo.ringBits o = SMap.get 0 s.topo.ringBits o)
   ∧ (∀ s : State, s.now % 1000 = 0 → ∃ t : State, exec .congestionSample s = .next t ∧ t = { s with topo := { s.topo with bins := t.topo.bins } }
       ∧ ∀ (p : PortId) (b : Nat), b < 8 → SMap.get 0 t.topo.bins (8 * p.val + b) = if b = congBin (s.port p).queued
           then min 100 (SMap.get 0 s.topo.bins (8 * p.val + b) + 1) else SMap.get 0 s.topo.bins (8 * p.val + b))
   ∧ ∀ s : State, s.now % 100000 = 0 → ∃ t : State, exec .congestionRecordClose s = .next t
       ∧ t.topo = { s.topo with bins := [], record := { node := s.node, ft := s.now, plan := s.topo.plan.ident, counts := s.topo.bins } }
       ∧ t.wire = (if s.manager = 0xFFFF ∨ s.ctlPath s.holder = false then s.wire else s.wire ++ [.congestion s.manager t.topo.record]) ∧ t.ports = s.ports)
  ∧ ((∀ (a : Access) (s : State) (r : DictReq) (v : Nat), s.serves a r → s.passes r v → r.write = true → r.idx = 0x4300 → r.sub = 0x0C →
       let p := s.stagedPlan
       let ok := s.planOk p s.stagedPorts = true
       let running := s.reshapes p = true ∧ s.allStopped = false
       (¬ ok → exec (.planEffectiveFtWrite a) s = .next (s.respond a r 0x02 []))
       ∧ (ok → running → exec (.planEffectiveFtWrite a) s = .next (s.respond a r 0x06 []))
       ∧ (ok → ¬ running → v < s.now + 1000000 → exec (.planEffectiveFtWrite a) s = .next (s.respond a r 0x05 []))
       ∧ (ok → ¬ running → s.now + 1000000 ≤ v → exec (.planEffectiveFtWrite a) s = .next
           ((State.setSetting { s with topo := { s.topo with commit := some (v, p, s.stagedPorts) } } 0x4300 0x0C v).respond a r 0 [])))
     ∧ ∀ (s : State) (v : Nat) (p : Plan) (ports : List PortPlan) (g : Gutter), s.topo.commit = some (v, p, ports) →
         s.gut.now = some g → v ≤ g.start → g.opened = false →
         (s.reshapes p = true → s.allStopped = false → exec .planCommit s = .next
           (State.raise { s with topo := { s.topo with commit := none } } { code := 0x040B, unit := uCtl s.holder }))
         ∧ (s.reshapes p = false ∨ s.allStopped = true → ∃ t : State, exec .planCommit s = .next t ∧ t.topo.plan = p
             ∧ t.topo.commit = none ∧ (∀ q : PortId, (t.port q).plan = ports.getD q.val PortPlan.reset)
             ∧ (s.reshapes p = true → ∀ q : PortId, let e := ports.getD q.val PortPlan.reset
                 let exit := if { (s.port q).plan with raw := 0 } = { e with raw := 0 } then (s.port q).exit else e.initial
                 (t.port q).exit = exit ∧ (t.port q).state = (if (s.port q).lit = true ∧ s.spinePath q = true ∧ s.fabricOn = true then .training
                   else if (if exit = 0 then e.a else e.b).kind = 0 then .unused else .down))
             ∧ ∀ a : Place, t.byteAt a = s.byteAt a))

/-- The manager role is taken and released, and the manager leads commits. Rests on R309, R310, R486, R467, R468,
R470, R471. -/
def Obligations.TheManagerAndItsCommits : Prop :=
  ((∀ s : State, s.isManager = true → s.mgr.heardAt + 1000000 ≤ s.mono → exec (.managerHeartbeat none) s
     = .next { s with mgr := { s.mgr with heardAt := s.mono }, wire := if s.ctlPath s.holder = true then
       s.wire ++ s.members.map (fun n => .heartbeat n s.mgrEpoch) else s.wire })
   ∧ (∀ (node epoch : Nat) (s : State),
       (s.mgrEpoch < epoch → ∃ t : State, exec (.managerHeartbeat (some (node, epoch))) s = .next t ∧ t.mgrEpoch = epoch
         ∧ t.mgr.followed = some node ∧ t.mgr.heardAt = s.mono ∧ t.mgr.members = s.mgr.members
         ∧ (node ≠ s.node → s.isManager = true → t.mgr.claimed = false ∧ t.mgr.yielded = true)
         ∧ ∀ a : Place, t.byteAt a = s.byteAt a)
       ∧ (epoch < s.mgrEpoch → exec (.managerHeartbeat (some (node, epoch))) s = .next s))
   ∧ (∀ s : State, s.setting 0x4350 1 = 2 → s.mgr.claimed = false → s.mgr.heardAt + s.setting 0x4350 5 * 1000000 ≤ s.mono →
       ∃ u : State, exec .managerLossTimeout s = .next (u.raise { code := 0x040C, unit := uCtl s.holder }) ∧ u.mgrEpoch = s.mgrEpoch + 1
         ∧ u.isManager = true ∧ u.manager = s.node ∧ ∀ a : Place, u.byteAt a = s.byteAt a)
   ∧ (∀ (node : Nat) (m : MemberReport) (s : State), s.isManager = true →
       ((node ∈ s.members ∨ s.members.length < 512) → ∃ t : State, exec (.memberReportReceive node m) s = .next t
         ∧ t.mgr = { s.mgr with members := insertNew s.mgr.members node, reports := s.mgr.reports ++ [(node, m)] }
         ∧ node ∈ t.mgr.members ∧ t.dies = s.dies ∧ t.log = s.log
         ∧ (∀ port out, m = .discovery port out → out ≠ Config.domainOutcome node port → s.ctlPath s.holder = true →
             t.wire = s.wire ++ [.discrepancy node port out]))
       ∧ (node ∉ s.members → 512 ≤ s.members.length → ∃ u : State, exec (.memberReportReceive node m) s
           = .next (u.raise { code := 0x040D, unit := uCtl s.holder }) ∧ u.mgr = s.mgr))
   ∧ (∀ (node score : Nat) (s : State), s.isManager = true →
       let before (x y : Nat × Nat) : Prop := x.1 < y.1 ∨ (x.1 = y.1 ∧ x.2 ≤ y.2)
       ∃ t : State, exec (.retireSuggestionReceive node score) s = .next t ∧ t.wire = s.wire ∧ t.dies = s.dies ∧ t.log = s.log
         ∧ t.mgr = { s.mgr with suggestions := t.mgr.suggestions }
         ∧ (∀ x, x ∈ t.mgr.suggestions ↔ x = (score, node) ∨ (x ∈ s.mgr.suggestions ∧ x.2 ≠ node))
         ∧ (s.mgr.suggestions.Pairwise before → t.mgr.suggestions.Pairwise before))
   ∧ ∀ s : State, s.isManager = true → s.mgr.hourStart + 3600000000000 ≤ s.mono →
       let n := s.setting 0x5100 4
       let u : State := { s with mgr := { s.mgr with suggestions := [], hourStart := s.mono } }
       let watch : List Out := (s.mgr.suggestions.drop n).map fun x => .watch x.2
       (s.mgr.suggestions.length ≤ n → exec .suggestionHourEnd s
         = .next (s.mgr.suggestions.foldl (fun (v : State) x => v.raise { code := 0x081C, unit := uModule, detail := x.2 }) u))
       ∧ (∃ t v : State, exec .suggestionHourEnd s = .next t ∧ t.mgr = u.mgr ∧ t = { v with wire := t.wire }
           ∧ v = (s.mgr.suggestions.take n).foldl (fun (v : State) x => v.raise { code := 0x081C, unit := uModule, detail := x.2 }) u
           ∧ t.wire = if v.ctlPath s.holder = true then v.wire ++ watch else v.wire))
  ∧ (∀ (r : MgmtRecord) (s : State), s.isManager = true → mgmtOk r = true →
       (s.coordinates r.tag = false → ∀ i : Instr, (r.type, i) ∈ [(0x11, Instr.reachedReceive r), (0x13, Instr.voteReceive r),
         (0x16, Instr.restoredReceive r), (0x17, Instr.invalidReceive r)] → exec i s = .next (s.relayUp r))
       ∧ (s.coordinates r.tag = true → s.ctlPath s.holder = true →
       let e := s.exchange r.tag
       let told (t : State) (type seq result : Nat) : Prop := ∀ n ∈ s.audience r.tag, ∃ m : MgmtRecord, Out.mgmt n m ∈ t.wire
         ∧ m.type = type ∧ m.seq = seq ∧ m.result = result ∧ m.tag = r.tag ∧ mgmtOk m = true
       (r.type = 0x11 →
         let c := max e.committed r.lastCommitted
         let nodes := (e.reached.filter (fun x => x.1 != r.node) ++ [(r.node, r.ft)]).map (·.1)
         ∃ t : State, exec (.reachedReceive r) s = .next t ∧ (t.exchange r.tag).identity = r.identity ∧ (t.exchange r.tag).committed = c
           ∧ (r.node, r.ft) ∈ (t.exchange r.tag).reached
           ∧ (e.preparing = false → e.rolling = none → allMembers r.tag nodes = true → told t 0x12 (max e.prepared c + 1) 0
               ∧ (t.exchange r.tag).preparing = true ∧ (t.exchange r.tag).prepared = max e.prepared c + 1)
           ∧ (allMembers r.tag nodes = false → (t.exchange r.tag).preparing = e.preparing ∧ t.wire = s.wire))
       ∧ (r.type = 0x13 → e.preparing = true → r.seq = e.prepared →
           let nodes := (e.votes.filter (fun x => x.1 != r.node) ++ [(r.node, r.result)]).map (·.1)
           (r.result ≠ 0 → ∃ t : State, exec (.voteReceive r) s = .next t ∧ told t 0x14 r.seq r.result
             ∧ (t.exchange r.tag).preparing = false ∧ (t.exchange r.tag).committed = e.committed)
           ∧ (r.result = 0 → allMembers r.tag nodes = true → ∃ t : State, exec (.voteReceive r) s = .next t ∧ told t 0x14 r.seq 0
             ∧ (t.exchange r.tag).preparing = false ∧ (t.exchange r.tag).committed = r.seq)
           ∧ (r.result = 0 → allMembers r.tag nodes = false → ∃ t : State, exec (.voteReceive r) s = .next t ∧ t.wire = s.wire
             ∧ (t.exchange r.tag).preparing = true ∧ (r.node, 0) ∈ (t.exchange r.tag).votes))
       ∧ (r.type = 0x17 → e.rolling = none →
           (e.committed ≠ 0 → ∃ t : State, exec (.invalidReceive r) s = .next t ∧ told t 0x15 e.committed 0
             ∧ (t.exchange r.tag).rolling = some e.committed ∧ (t.exchange r.tag).preparing = false)
           ∧ (e.committed = 0 → ∃ (u : State) (c : Cause), c.code = 0x0817 ∧ exec (.invalidReceive r) s = .next ((u.raise c).heard r.node)
             ∧ (e.preparing = true → told u 0x14 e.prepared 3)))
       ∧ (r.type = 0x16 → e.rolling = some r.seq →
           (allMembers r.tag (insertNew e.restored r.node) = true → ∃ t : State, exec (.restoredReceive r) s = .next t
             ∧ told t 0x14 r.seq 0 ∧ (t.exchange r.tag).rolling = none ∧ (t.exchange r.tag).committed = r.seq)
           ∧ (allMembers r.tag (insertNew e.restored r.node) = false → ∃ t : State, exec (.restoredReceive r) s = .next t
             ∧ t.wire = s.wire ∧ (t.exchange r.tag).rolling = some r.seq ∧ r.node ∈ (t.exchange r.tag).restored))))

/-- Heaters follow their tables and offsets; one slot per port goes out for calibration, is swept, and is told stale
once. Rests on R347, R349, R350, R351, R55, R56. -/
def Obligations.SlotsAreCalibrated : Prop :=
  (∀ (p : PortId) (ring : Fin 36) (reading : Int) (s : State),
    let out := reading < 200 ∨ 1100 < reading
    let s' := if out then s.raise { code := 0x050F, unit := uEdge (p.val / 6) } else s
    let c : Nat := (min (max reading 200) 1100).toNat - 200
    let table (b : Nat) : Nat := Config.heaterTable (36 * p.val + ring.val) b % 4096
    let n : Nat := table (c / 5) * (5 - c % 5) + table (c / 5 + 1) * (c % 5)
    let o := (s.opt p).rings[ring].offset
    ∃ (t : State) (v : Nat), exec (.heaterUpdate p ring reading) s = .next t ∧ v < 4096
      ∧ (t.opt p).rings[ring] = { (s.opt p).rings[ring] with code := v }
      ∧ (∀ r : Fin 36, r ≠ ring → (t.opt p).rings[r] = (s.opt p).rings[r]) ∧ (∀ q, q ≠ p → t.port q = s.port q)
      ∧ t = { s' with ports := t.ports, free := t.free }
      ∧ (0 ≤ (n / 5 : Nat) + o → ((n / 5 : Nat) : Int) + o + 1 < 4096 →
          -5 < 5 * ((v : Int) - o) - n ∧ 5 * ((v : Int) - o) - n < 5 ∧ (n % 5 = 0 → (v : Int) = (n / 5 : Nat) + o)))
  ∧ (∀ s : State,
      (s.savedAt = 0 ∨ s.savedAt + 3600000000000 ≤ s.mono + 1 → ∃ t : State, exec .calibrationOffsetSave s = .next t
        ∧ t = { s with ports := t.ports, savedAt := s.mono + 1 }
        ∧ ∀ (p : PortId) (r : Fin 36), (t.opt p).rings[r] = { (s.opt p).rings[r] with saved := (s.opt p).rings[r].offset })
      ∧ (s.savedAt ≠ 0 → s.mono + 1 < s.savedAt + 3600000000000 → exec .calibrationOffsetSave s = .next s))
  ∧ (∀ (p : PortId) (k : Fin 18) (s : State), (s.port p).state = .up → (s.port p).time.oneEnded = false → s.mono ≤ 2 ^ 64 →
      (∀ j, (s.slot p j).bars = true → (s.slot p j).passed = true) →
      (∀ a ∈ s.gut.waiting, a.kind = .withdrawal → onPort a.res p = false) →
      (s.slot p k).st = .inService → (s.slot p k).calAt + s.setting 0x4500 2 * 1000000000 < s.mono →
      (∀ j, (s.slot p j).st = .inService → (s.slot p k).calAt < (s.slot p j).calAt ∨ ((s.slot p k).calAt = (s.slot p j).calAt ∧ k ≤ j)) →
      let g := s.nextGutter p
      (0 < s.gut.sched.period → s.gut.staged = none → s.gut.oneOffs = [] →
          s.now < g ∧ g ≤ s.now + s.gut.sched.period ∧ ((g : Int) - s.gut.sched.phase) % s.gut.sched.period = 0)
        ∧ exec (.calibrationRequest p) s = .next { s with
            gut := { s.gut with waiting := s.gut.waiting ++ [{ kind := .withdrawal, res := .slot p k, arg := 0, from_ := g, deferred := 0 }] },
            wire := s.wire ++ [.link p (if s.node < (s.port p).exitPlan.node then .calibrate k.val g else .ack g)] })
  ∧ (∀ (p : PortId) (k : Fin 18) (tx rx : Int) (markersOk farOk : Bool) (s : State), let x := s.slot p k
      let r := exec (.calibrationSweepComplete p k [tx, rx] markersOk farOk) s
      x.st = .withdrawn → x.service = true → x.passed = false → x.training = false → x.newLine = none →
      ∃ t : State, r = .next t ∧ (t.opt p).rings[k.val].offset = tx ∧ (t.opt p).rings[18 + k.val].offset = rx
        ∧ (t.slot p k).calAt = s.mono ∧ (∀ j, j ≠ k → t.slot p j = s.slot p j) ∧ (∀ q, q ≠ p → t.port q = s.port q)
        ∧ (markersOk = true → farOk = true → (t.slot p k).passed = true ∧ (t.slot p k).st = .withdrawn
            ∧ ∃ a ∈ t.gut.waiting, a.kind = .slotReturn ∧ a.res = .slot p k)
        ∧ (markersOk = false ∨ farOk = false → (t.slot p k).st = .retired ∧ t.gut = s.gut))
  ∧ (∀ (p : PortId) (k : Fin 18) (tx rx : Int) (s : State), let x := s.slot p k
      x.st = .spare → x.calAt + s.setting 0x4500 2 * 1000000000 < s.mono → s.gut.now = none →
      ∃ t : State, exec (.spareSlotCalibration p k [tx, rx]) s = .next t ∧ (t.opt p).rings[k.val].offset = tx
        ∧ (t.opt p).rings[18 + k.val].offset = rx
        ∧ t.slot p k = { x with calAt := s.mono, staleTold := false, res := s.setting 0x4500 4 }
        ∧ (∀ j, j ≠ k → t.slot p j = s.slot p j) ∧ t = { s with ports := t.ports } ∧ ∀ q, q ≠ p → t.port q = s.port q)
  ∧ ∀ (p : PortId) (k : Fin 18) (s : State), let x := s.slot p k
      (x.staleTold = false → x.line ≠ none → x.calAt + s.setting 0x4500 3 * 3600000000000 < s.mono → ∃ u : State,
        exec (.calibrationStale p k) s = .next (u.raise { code := 0x0508, unit := uSlot p k.val })
        ∧ u.slot p k = { x with staleTold := true } ∧ u = { s with ports := u.ports })
      ∧ (x.staleTold = true → exec (.calibrationStale p k) s = .next s)

/-- Markers and frames take a slot into service or retire it; a guided sweep returns, moves or fails it. Rests on
R292, R352, R353, R354, R355, R356, R358, R359, R360. -/
def Obligations.SlotsAreRetiredAndRetuned : Prop :=
  let retires (r : Result) (s : State) (p : PortId) (k : Fin 18) (code : Nat) : Prop := ∃ u : State,
    r = .next ((u.raise { code := code, unit := uSlot p k.val }).checkSlots p) ∧ (u.slot p k).st = .retired
    ∧ (∀ j, j ≠ k → u.slot p j = s.slot p j) ∧ (∀ q, q ≠ p → u.port q = s.port q) ∧ u.wire = s.wire ++ [.link p (.retired k.val)]
    ∧ u = { s with ports := u.ports, gut := u.gut, wire := u.wire }
  (∀ (u : State) (p : PortId),
    ((u.port p).state = .up → (u.port p).inService < 8 → ∃ v : State,
      u.checkSlots p = v.raise { code := 0x0402, unit := uPort p (u.port p).exit } ∧ (v.port p).state = .down)
    ∧ ((u.port p).state ≠ .up ∨ 8 ≤ (u.port p).inService → u.checkSlots p = u))
  ∧ (∀ (p : PortId) (k : Fin 18) (m : Word) (s : State), crc8 ((leBytes 8 m.toNat).drop 1) ≠ bits m.toNat 7 0 →
      exec (.identityMarkerReceive p k m) s = .next (s.updSlot p k fun x => { x with good := 0 }))
  ∧ (∀ (p : PortId) (k : Fin 18) (m : Word) (s : State), crc8 ((leBytes 8 m.toNat).drop 1) = bits m.toNat 7 0 →
      let x := s.slot p k
      let own := bits m.toNat 40 36 = k.val ∧ x.newLine.or x.line = some (bits m.toNat 35 31)
      let far := (s.port p).state ≠ .up ∨ (bits m.toNat 63 48 = (s.port p).exitPlan.node ∧ bits m.toNat 47 42 = (s.port p).exitPlan.port)
      (x.training = true → x.st = .withdrawn → own → x.good = 1 → ∃ t : State, exec (.identityMarkerReceive p k m) s = .next t
        ∧ (t.slot p k).st = (if x.service then .inService else .spare) ∧ (t.slot p k).training = false
        ∧ (∀ j, j ≠ k → t.slot p j = s.slot p j) ∧ t = { s with ports := t.ports })
      ∧ (x.training = true → x.st = .withdrawn → own → x.good = 0 →
          exec (.identityMarkerReceive p k m) s = .next (s.updSlot p k fun x => { x with good := 1 }))
      ∧ (x.st = .inService → ¬ (own ∧ far) → x.bad = 1 → retires (exec (.identityMarkerReceive p k m) s) s p k 0x0501)
      ∧ (x.st = .inService → ¬ (own ∧ far) → x.bad = 0 →
          exec (.identityMarkerReceive p k m) s = .next (s.updSlot p k fun x => { x with good := 0, bad := 1 })))
  ∧ (∀ (p : PortId) (k : Fin 18) (f : FrameObs) (s : State), let x := s.slot p k
      x.st = .inService → (s.port p).state = .up →
      let r := exec (.dataFrameReceive p k f) s
      let wrong := f.decodes = true ∧ f.crcOk = true ∧ f.slot ≠ k.val
      (f.uncorrectable = true → x.badWords = 15 → retires r s p k 0x0502)
      ∧ (f.uncorrectable = false → wrong → x.badFrames = 7 → retires r s p k 0x0501)
      ∧ (f.uncorrectable = false → wrong → x.badFrames < 7 →
          r = .next (s.updSlot p k fun x => { x with badWords := 0, badFrames := x.badFrames + 1 }))
      ∧ (f.uncorrectable = false → f.decodes = true → f.crcOk = true → f.slot = k.val →
          r = .next (s.updSlot p k fun x => { x with badWords := 0, badFrames := 0 })))
  ∧ (∀ (p : PortId) (k : Fin 18) (s : State), (s.slot p k).st = .inService →
      (s.pause = none → retires (exec (.slotLossOfSignal p k) s) s p k 0x0502)
      ∧ (s.pause ≠ none → exec (.slotLossOfSignal p k) s = .next s)
      ∧ ∃ u : State, exec (.retirementReportReceive p k) s = .next (u.checkSlots p) ∧ (u.slot p k).st = .retired
        ∧ (∀ j, j ≠ k → u.slot p j = s.slot p j) ∧ (∀ q, q ≠ p → u.port q = s.port q) ∧ u = { s with ports := u.ports })
  ∧ (∀ (p : PortId) (k : Fin 18) (locked : Bool) (tx rx : Int) (s : State), let x := s.slot p k
      let r := exec (.guidedSweepComplete p k locked [tx, rx]) s
      (x.newLine = none → x.st = .retired → (∀ j, j ≠ k → (s.slot p j).isOut = false) →
        (locked = true → ∃ t : State, r = .next t ∧ (t.slot p k).st = .withdrawn ∧ (t.slot p k).passed = true
          ∧ (t.slot p k).retune = true ∧ (t.opt p).rings[k.val].offset = tx ∧ (t.opt p).rings[18 + k.val].offset = rx
          ∧ ∃ a ∈ t.gut.waiting, a.kind = .slotReturn ∧ a.res = .slot p k)
        ∧ (locked = false → x.sweeps < 2 → r = .next (s.updSlot p k fun x => { x with sweeps := x.sweeps + 1 }))
        ∧ (locked = false → x.sweeps = 2 → ∃ u v : State, u = v.raise { code := 0x0502, unit := uSlot p k.val }
            ∧ (v.slot p k).st = .failed ∧ v = { s with ports := v.ports }
            ∧ (x.service = false → r = .next u)
            ∧ (x.service = true → u.spareFor p = none → (∀ a ∈ s.gut.waiting, a.kind = .move → a.res ≠ .slot p k) →
                r = .next (u.raise { code := 0x0507, unit := uPort p (u.port p).exit }))))
      ∧ (∀ l, x.newLine = some l → locked = true → (∀ a ∈ s.gut.waiting, a.kind = .move → a.res ≠ .slot p k) →
          ∃ t : State, r = .next t ∧ (t.opt p).rings[k.val].offset = tx ∧ (t.opt p).rings[18 + k.val].offset = rx
          ∧ t.gut.waiting = s.gut.waiting ++ [{ kind := .move, res := .slot p k, arg := 18 + l, from_ := s.nextGutter p, deferred := 0 }]
          ∧ t = { s with ports := t.ports, gut := t.gut }))

/-- A line's margin and what losing it starts; moves to spares; open fibres, probes and the output power trip. Rests
on R357, R358, R361, R363, R364, R365. -/
def Obligations.LinesLightAndEyeSafety : Prop :=
  (∀ (c : Fin 16) (l : Fin 20) (power : Int) (s : State), let x := s.line c l.val
    let margin := power - s.vendor.lineMin.getD (20 * c.val + l.val) 0
    let th : Int := s.setting 0x4500 1
    (∃ t : State, exec (.lineMarginAverage c l power) s = .next t ∧ (t.line c l.val).margin = margin
      ∧ (x.failed = true ∨ margin ≤ 0 → (t.line c l.val).failed = true) ∧ ∀ (e : Fin 16) (j : Fin 20), (e, j) ≠ (c, l) → t.line e j.val = s.line e j.val)
    ∧ (th ≤ margin → ∃ t : State, exec (.lineMarginAverage c l power) s = .next t ∧ t = { s with combs := t.combs }
        ∧ (t.line c l.val).failed = (x.failed || decide (margin ≤ 0)))
    ∧ (margin < th → 0 < margin → x.low = false → (∀ p k, (s.slot p k).line ≠ some l.val) → ∃ u : State,
        exec (.lineMarginAverage c l power) s = .next (u.raise { code := 0x0504, unit := uLine c.val l.val }) ∧ u = { s with combs := u.combs })
    ∧ (∀ (p : PortId) (k j : Fin 18), margin < th → 0 < margin → p.val / 3 = c.val → (s.slot p k).st = .inService →
        (s.slot p k).line = some l.val → (∀ i, i ≠ k → (s.slot p i).line ≠ some l.val) → s.spareFor p = some j →
        (∀ a ∈ s.gut.waiting, a.kind = .move → a.res ≠ .slot p k) →
        ∃ t : State, exec (.lineMarginAverage c l power) s = .next t
          ∧ ∃ a ∈ t.gut.waiting, a.kind = .move ∧ a.res = .slot p k ∧ a.arg = j.val))
  ∧ (∀ (p : PortId) (a b : Fin 18) (g : Nat) (s : State), (s.port p).state = .up → (s.slot p b).st = .spare →
      (s.slot p a).service = true → s.now < g → (∀ y ∈ s.gut.waiting, y.kind = .move → y.res ≠ .slot p a) →
      exec (.moveRequest p a b g) s = .next { s with
        gut := { s.gut with waiting := s.gut.waiting ++ [{ kind := .move, res := .slot p a, arg := b.val, from_ := g, deferred := 0 }] },
        wire := s.wire ++ [.link p (.ack g)] })
  ∧ (∀ (p : PortId) (s : State),
      let dark (u : State) : Prop := (u.opt p).fibre = .shutdown ∧ (u.opt p).shut = true ∧ (∀ a ∈ u.gut.waiting, onPort a.res p = false)
        ∧ (∀ q, q ≠ p → u.port q = s.port q) ∧ u = { s with ports := u.ports, gut := u.gut }
      let fell (v : State) (code : Nat) : State := if (s.port p).state = .unused then v
        else if (s.port p).exitPlan.kind = 0 then (v.portFell p code).setPort p .unused code else v.portFell p code
      ((s.port p).lit = true → s.steering p = false → s.pause = none → ∃ u v : State, dark u
        ∧ v = u.raise { code := 0x0509, unit := uPort p (s.port p).exit }
        ∧ exec (.fibreLossOfLight p) s = .next ((fell v 0x0509).countOpt p 5))
      ∧ (∃ u v : State, dark u ∧ v = u.raise { code := 0x050E, unit := uPort p (s.port p).exit }
        ∧ exec (.outputPowerTrip p) s = .next (fell v 0x050E))
      ∧ (∀ (u : State) (code : Nat), ((u.portFell p code).port p).state = .down))
  ∧ (∀ (p : PortId) (b : Bool) (s : State), (s.opt p).fibre = .shutdown ∨ ((s.opt p).fibre = .probe ∧ (s.opt p).probeAt + 2000000 ≤ s.mono) →
      b = true ∨ (s.opt p).probeAt + 1000000000 ≤ s.mono →
      ∃ t : State, exec (.probeStart p b) s = .next t ∧ t.opt p = { s.opt p with fibre := .probe, probeAt := s.mono }
        ∧ t = { s with ports := t.ports, wire := s.wire ++ [.probe p (s.probeMarker p)] } ∧ ∀ q, q ≠ p → t.port q = s.port q)
  ∧ ∀ (p : PortId) (s : State), (s.opt p).fibre = .probe → s.mono ≤ (s.opt p).probeAt + 2000000 →
      ∃ u v : State, v = u.raise { code := 0x050A, unit := uPort p (s.port p).exit } ∧ (u.opt p).fibre = .answered ∧ (u.opt p).shut = false
        ∧ u = { s with ports := u.ports } ∧ (∀ q, q ≠ p → u.port q = s.port q)
        ∧ ((s.port p).exitPlan.kind = 0 → exec (.probeAnswered p) s = .next v)
        ∧ ((s.port p).exitPlan.kind ≠ 0 → s.spinePath p = true → s.fabricOn = true → ∃ t : State, exec (.probeAnswered p) s = .next t
            ∧ (t.port p).state = .training)

/-- The host link, channels opened and closed, acknowledgements, retransmission and resynchronisation. Rests on R370,
R372, R375, R376, R378, R383, R386, R388, R390. -/
def Obligations.HostLinkAndChannels : Prop :=
  (∀ s : State,
    (s.host.linkUp = false → s.boot.recovery = true ∨ 5 ≤ s.boot.stage → exec .hostLinkUp s
        = .next (State.raise { s with host := { s.host with linkUp := true } } { code := 0x0521, unit := uHost }))
    ∧ (s.host.linkUp = true → exec .hostLinkDown s
        = .next (State.raise { s with host := { s.host with linkUp := false } } { code := 0x0522, unit := uHost })))
  ∧ (∀ (p : Icmp) (s : State), s.host.linkUp = true → p.plain = true →
      (p.type = 128 → p.dstAddr = s.hostAddr → exec (.icmpv6Request p) s
        = .next { s with wire := s.wire ++ [.icmp 129 (s.setting 0x1400 3) s.hostAddr p.srcAddr 0 p.data] })
      ∧ (p.type = 135 → p.target = s.hostAddr → exec (.icmpv6Request p) s
        = .next { s with wire := s.wire ++ [.icmp 136 (s.setting 0x1400 3) s.hostAddr p.srcAddr s.hostAddr []] }))
  ∧ (∀ (k : HostPacket) (s : State), let c := k.channel
      s.hostIn k [0x05] = true →
      (s.openRefused c = true → exec (.openChan k) s = .next (s.notice k 0x03))
      ∧ (s.openRefused c = false → s.authentic k (s.setting 0x7110 (c.val + 1)) = true →
          (s.chan c).state = .closed ∨ ((s.chan c).state = .opened ∧ (s.chan c).addr = k.srcAddr) →
          ∃ (u : State) (p : HostPacket), exec (.openChan k) s = .next (u.hostEvent c 0x0A01) ∧ (u.chan c).state = .opened
            ∧ (u.chan c).addr = k.srcAddr ∧ (u.chan c).port = k.srcPort ∧ (u.chan c).key = s.setting 0x7110 (c.val + 1)
            ∧ u.wire = s.wire ++ [.host p] ∧ p.type = 0x06 ∧ p.dstAddr = k.srcAddr ∧ p.dstPort = k.srcPort
            ∧ p.session = (u.chan c).session ∧ p.seq = (u.chan c).txNext ∧ p.ack = (u.chan c).expect ∧ p.crc = hostCrc p
            ∧ (∀ b, b ≠ c → u.chan b = s.chan b) ∧ u.log = s.log ∧ u.dies = s.dies))
  ∧ (∀ (k : HostPacket) (s w : State), let c := k.channel
      s.takes k 0x07 w → (s.chan c).state = .opened →
      ((w.chan c).cmds ≠ [] ∨ (w.chan c).sent ≠ [] → ∃ t : State, exec (.closeChan k) s = .next t ∧ (t.chan c).state = .closing
        ∧ (t.chan c).held = [] ∧ (t.chan c).cmds = (w.chan c).cmds ∧ t.wire = w.wire ∧ t.log = w.log)
      ∧ ((w.chan c).cmds = [] → (w.chan c).sent = [] → ∃ (u : State) (p : HostPacket), p.type = 0x08
        ∧ u.wire = w.wire ++ [.host p] ∧ u.log = w.log ∧ exec (.closeChan k) s = .next ((u.hostEvent c 0x0A02).updChan c fun x =>
            { Channel.reset with counts := x.counts })))
  ∧ (∀ (k : HostPacket) (s w : State), let c := k.channel
      s.takes k 0x04 w → (s.chan c).state = .opened →
      exec (.ackPacket k) s = .next w
      ∧ ((s.chan c).txNext < 2 ^ 32 → k.ack < 2 ^ 32 → ((s.chan c).txNext + 2 ^ 32 - k.ack) % 2 ^ 32 ≤ 1024 →
          (∀ y ∈ (s.chan c).cmds, y.op ≠ 0x02 ∧ y.op ≠ 0x24) →
          (∀ p, p ∈ (w.chan c).sent ↔ p ∈ (s.chan c).sent ∧ ackNames k.ack k.gap p.seq = false) ∧ w.wire = s.wire ∧ w.dies = s.dies))
  ∧ (∀ (c : ChanId) (s : State) (m : Nat), (s.chan c).ackSince = some m → m + s.setting 0x1420 2 * 1000 ≤ s.mono →
      s.gov.warm = none → (s.chan c).state ≠ .closed → ∃ (t : State) (p : HostPacket), exec (.ackDelayExpiry c) s = .next t
        ∧ t.wire = s.wire ++ [.host p] ∧ p.type = 0x04 ∧ p.ack = (s.chan c).expect ∧ p.gap = (s.chan c).gapMap
        ∧ t.chan c = { s.chan c with ackSince := none } ∧ ∀ b, b ≠ c → t.chan b = s.chan b)
  ∧ (∀ (c : ChanId) (seq : Nat) (s : State) (p : SentPacket), (s.chan c).sent.find? (fun x => x.seq == seq) = some p →
      p.sentAt + p.timeout ≤ s.mono → s.gov.warm = none →
      ∃ (u : State) (h : HostPacket), let longer := min (2 * p.timeout) 100000000
        exec (.hostRetransmitTimeout c seq) s = .next (if longer = 100000000 ∧ p.backedOff = false then u.hostEvent c 0x0A06 else u)
        ∧ u.wire = s.wire ++ [.host h] ∧ h.retrans = true ∧ h.seq = seq ∧ h.type = p.type ∧ h.payload = p.payload
        ∧ (u.chan c).counts[0] = (s.chan c).counts[0] + 1 ∧ (u.chan c).sent.length = (s.chan c).sent.length
        ∧ (∃ y ∈ (u.chan c).sent, y.seq = seq ∧ y.sentAt = s.mono ∧ y.timeout = longer)
        ∧ (∀ y ∈ (s.chan c).sent, y.seq ≠ seq → y ∈ (u.chan c).sent) ∧ ∀ b, b ≠ c → u.chan b = s.chan b)
  ∧ (∀ (k : HostPacket) (c : ChanId) (f : Nat) (s : State), s.hostIn k [0x09] = true →
      k.payload = leBytes 8 (2 ^ c.val) ++ leBytes 4 f → f < 2 ^ 32 →
      ((s.chan c).state = .closed → s.hmacOn c = false → s.boot.paper = none → ∃ (u : State) (p : HostPacket),
          exec (.resync k) s = .next (u.hostEvent c 0x0A03) ∧ u = { s with wire := s.wire ++ [.host p] } ∧ p.type = 0x0A
          ∧ p.dstAddr = k.srcAddr ∧ p.dstPort = k.srcPort ∧ p.payload = resyncPart c false true 0 0 0xFFFFFFFF 0xFFFFFFFF [])
      ∧ ((s.chan c).state = .opened → s.hmacOn c = false → (s.chan c).addr = k.srcAddr →
          (∀ y ∈ (s.chan c).cmds, y.cutShort = false) → ((s.chan c).entriesFrom f).length ≤ 1025 →
          ∃ (u : State) (p : HostPacket), exec (.resync k) s = .next (u.hostEvent c 0x0A03) ∧ u.wire = s.wire ++ [.host p] ∧ p.type = 0x0A
            ∧ p.payload = resyncPart c true true 0 (u.chan c).session (s.chan c).lastAccepted (s.chan c).lastCompleted ((s.chan c).entriesFrom f)
            ∧ u.chan c = { s.chan c with held := [], sent := [], ackSince := none, port := k.srcPort, session := (u.chan c).session }
            ∧ ∀ b, b ≠ c → u.chan b = s.chan b))

/-- Command and bulk packets: the closed channel, order, gaps, duplicates, the window, and what a delivered one does.
Rests on R375, R377, R378, R379, R381, R382, R383. -/
def Obligations.HostPacketsAreDeliveredInOrder : Prop :=
  (∀ (k : HostPacket) (s : State), (s.chan k.channel).state ≠ .opened →
    (s.hostIn k [0x01] = true → exec (.commandPacket k) s = .next (s.notice k 0x42))
    ∧ (s.hostIn k [0x03] = true → exec (.bulkPacket k) s = .next (s.notice k 0x42)))
  ∧ (∀ (k : HostPacket) (s w : State), let c := k.channel
      let x := w.chan c
      (s.chan c).state = .opened → k.seq < 2 ^ 32 → x.expect < 2 ^ 32 →
      let d := (k.seq + 2 ^ 32 - x.expect) % 2 ^ 32
      ∀ r : Result, (s.takes k 0x01 w ∧ r = exec (.commandPacket k) s) ∨ (s.takes k 0x03 w ∧ r = exec (.bulkPacket k) s) →
      (0 < d → d < 1024 → (∀ h ∈ x.held, h.seq ≠ x.expect ∧ h.seq ≠ k.seq) → w.buffered + hostBytes k ≤ 67108864 →
        r = .next (w.updChan c fun y => { y with held := y.held ++ [k], ackSince := some (y.ackSince.getD w.mono) }))
      ∧ (1024 ≤ d → d < 2 ^ 31 → r = .next (((w.notice k 0x40).countHost c 3).hostEvent c 0x0A05))
      ∧ (d < 1024 → (∀ h ∈ x.held, h.seq ≠ k.seq) → 67108864 < w.buffered + hostBytes k →
          r = .next ((w.countHost c 2).hostEvent c 0x0A07)))
  ∧ (∀ (k : HostPacket) (s w : State), let c := k.channel
      let x := w.chan c
      s.takes k 0x01 w → (s.chan c).state = .opened → k.seq < 2 ^ 32 → x.expect < 2 ^ 32 →
      (k.seq = x.expect → x.held = [] → w.buffered + hostBytes k ≤ 67108864 → x.cmd k.seq = none → 64 ≤ k.payload.length →
        ∃ (t : State) (y : HostCmd), exec (.commandPacket k) s = .next t ∧ (t.chan c).cmds = x.cmds ++ [y] ∧ y.seq = k.seq
          ∧ y.payload = k.payload ∧ y.started = decide (y.op ∉ w.opcodes c) ∧ y.ops = [] ∧ y.off = 0
          ∧ y.result = (if y.op ∈ w.opcodes c then none else some (0x01, []))
          ∧ (t.chan c).expect = (x.expect + 1) % 2 ^ 32 ∧ (t.chan c).held = [] ∧ (t.chan c).ackSince = some (x.ackSince.getD w.mono)
          ∧ t = { w with host := t.host } ∧ ∀ b, b ≠ c → t.chan b = w.chan b)
      ∧ (2 ^ 31 ≤ (k.seq + 2 ^ 32 - x.expect) % 2 ^ 32 →
          (∀ e, x.cache.reverse.find? (fun e => e.1 == k.seq) = some e → w.windowFree c = true → exec (.commandPacket k) s
            = .next ((w.countHost c 1).sendSequenced c 0x02 (completionRecord k.seq 0x43 e.2 0 w.now)))
          ∧ ((∀ e ∈ x.cache, e.1 ≠ k.seq) → k.seq ∉ x.past →
              exec (.commandPacket k) s = .next ((w.countHost c 1).sendPlain c 0x04 []))
          ∧ ((∀ e ∈ x.cache, e.1 ≠ k.seq) → k.seq ∈ x.past →
              exec (.commandPacket k) s = .next ((w.countHost c 1).notice k 0x43))))
  ∧ ∀ (k : HostPacket) (s w : State) (seq off : Nat) (bs : List Byte) (y : HostCmd), let c := k.channel
      let x := w.chan c
      s.takes k 0x03 w → (s.chan c).state = .opened → k.seq = x.expect → x.expect < 2 ^ 32 → x.held = [] →
      w.buffered + hostBytes k ≤ 67108864 → (∃ h : List Byte, h.length = 8 ∧ k.payload = leBytes 8 seq ++ leBytes 8 off ++ h ++ bs) →
      seq < 2 ^ 32 → off < 2 ^ 64 → x.cmd seq = some y → y.op = 0x01 → y.result = none → y.started = false →
      ∃ t : State, exec (.bulkPacket k) s = .next t ∧ (t.chan c).cmd seq = some { y with data := y.data ++ [(off, bs)] }
        ∧ (t.chan c).expect = (x.expect + 1) % 2 ^ 32 ∧ t = { w with host := t.host } ∧ t.wire = w.wire

/-- PUSH, PULL and SIGNAL of a quire channel become remote operations, and a command's completion goes to the host.
Rests on R379, R381, R382, R383, R258, R269, R94, R99, R526. -/
def Obligations.HostCommandsMoveData : Prop :=
  (∀ (c : ChanId) (seq : Nat) (s : State) (x : HostCmd),
    let reach (own : Bool) := (∃ p, s.hostTarget c (x.qw 2) (if own then [0, 1, 2] else [2]) own = .ok p)
        ∧ ((gaddr (x.qw 2)).node = s.node ∨ s.topo.joined = true)
    let one (t : State) (o : RemOp) : Prop := (t.source hostSrc).ops = (s.source hostSrc).ops ++ [o] ∧ o.id = s.nextOp
        ∧ o.stream = c.val ∧ o.target = x.qw 2 ∧ o.owner = .command c seq ∧ o.seq = none
        ∧ (∃ y, (t.chan c).cmd seq = some y ∧ y.started = true ∧ y.result = none ∧ y.ops = [o.id])
        ∧ t.dies = s.dies ∧ t.wire = s.wire
    let new := x.ops = [] ∧ x.off = 0 ∧ x.status = 0 ∧ x.data = [] ∧ x.bulk = []
    let length := bits (x.qw 3) 47 0
    (s.dataReady c seq 0x01 x →
      let st := s.sizedStatus c x [0, 1]
      (st ≠ 0 → exec (.push c seq) s = .next (s.finish c seq st []))
      ∧ (st = 0 → new → ∃ (t : State) (y : HostCmd),
          exec (.push c seq) s = .next t ∧ (t.chan c).cmd seq = some y ∧ y.started = true ∧ y.ops = []
          ∧ y.result = (if length = 0 then some (0, []) else none) ∧ t = { s with host := t.host } ∧ ∀ b, b ≠ c → t.chan b = s.chan b))
    ∧ (s.dataReady c seq 0x02 x →
        let st := s.sizedStatus c x [0, 1, 2]
        (st ≠ 0 → exec (.pull c seq) s = .next (s.finish c seq st []))
        ∧ (length = 0 → st = 0 → new → ∃ (t : State) (y : HostCmd), exec (.pull c seq) s = .next t ∧ (t.chan c).cmd seq = some y
            ∧ y.result = some (0, []) ∧ t = { s with host := t.host })
        ∧ (st = 0 → 0 < length → (gaddr (x.qw 2)).space < 2 → x.qw 2 % 4096 + length ≤ 4096 → new → reach true →
            ∃ (t : State) (o : RemOp), exec (.pull c seq) s = .next t ∧ one t o ∧ o.op = 0x01 ∧ o.size = length ∧ o.sink = .pull 0))
    ∧ (∀ spaces, let n := x.length
        (∀ st, s.hostTarget c (x.qw 2) spaces true = .error st → s.sizedStatus c x spaces = if n = 0 ∧ st ≠ 0x01 then 0 else st)
        ∧ (∀ w, s.hostTarget c (x.qw 2) spaces true = .ok w → n = 0 ∨ (x.qw 2 % 4 = 0 ∧ n % 4 = 0) → s.sizedStatus c x spaces = 0)
        ∧ (∀ d sram off, s.hostTarget c (x.qw 2) spaces true = .ok (.die d sram off) → n ≠ 0 → x.qw 2 % 4 ≠ 0 ∨ n % 4 ≠ 0 →
            s.sizedStatus c x spaces = if s.localOk d sram off n = true then 0x11 else 0x10))
    ∧ (s.dataReady c seq 0x03 x → new → reach false →
        bits (x.qw 3) 63 60 = 1 ∨ bits (x.qw 3) 63 60 = 2 → ∃ (t : State) (o : RemOp), exec (.hostSignal c seq) s = .next t ∧ one t o
          ∧ o.op = (if bits (x.qw 3) 63 60 = 2 then 0x09 else 0x08) ∧ o.payload = leBytes 4 (bits (x.qw 3) 31 0) ∧ o.size = 4
          ∧ o.clasp = bit (x.qw 3) 57 ∧ o.gclasp = bit (x.qw 3) 56 ∧ o.release = x.qw 4))
  ∧ (∀ (c : ChanId) (s : State) (a : Nat) (spaces : List Nat) (own sram : Bool) (d : DieId) (off : Nat),
      (gaddr a).place = .ok (.die d sram off) → (gaddr a).node = s.node → (gaddr a).space ∈ spaces →
      (s.die d).quire ≠ some (s.chanQuire c) → s.hostTarget c a spaces own = .error 0x13)
  ∧ (∀ (k : HostPacket) (s w : State) (seq off : Nat) (bs : List Byte) (y : HostCmd), let c := k.channel
      let x := w.chan c
      s.takes k 0x03 w → (s.chan c).state = .opened → k.seq = x.expect → x.expect < 2 ^ 32 → x.held = [] →
      w.buffered + hostBytes k ≤ 67108864 → (∃ h : List Byte, h.length = 8 ∧ k.payload = leBytes 8 seq ++ leBytes 8 off ++ h ++ bs) →
      seq < 2 ^ 32 → off < 2 ^ 64 → x.cmd seq = some y → y.op = 0x01 → y.result = none → y.started = true → bs ≠ [] →
      off + bs.length ≤ y.length → (y.qw 2 + off) % 4096 + bs.length ≤ 4096 →
      (∃ p, (gaddr (y.qw 2 + off)).place = .ok p) → (gaddr (y.qw 2 + off)).space < 2 →
      (gaddr (y.qw 2 + off)).node = w.node ∨ w.topo.joined = true →
      ∃ (t : State) (o : RemOp), exec (.bulkPacket k) s = .next t ∧ (t.source hostSrc).ops = (w.source hostSrc).ops ++ [o]
        ∧ o.op = 0x02 ∧ o.target = y.qw 2 + off ∧ o.payload = bs ∧ o.stream = c.val ∧ o.owner = .command c seq
        ∧ (t.chan c).cmd seq = some { y with ops := y.ops ++ [o.id], off := max y.off (off + bs.length) } ∧ t.dies = w.dies)
  ∧ ∀ (c : ChanId) (seq : Nat) (s : State) (x : HostCmd) (st : Nat) (data : List Byte), (s.chan c).cmd seq = some x →
      x.result = some (st, data) → (s.chan c).sent.length < 1024 → s.gov.warm = none → (s.chan c).state ≠ .closed →
      ∃ (t : State) (p : HostPacket), exec (.hostCommandComplete c seq) s = .next t ∧ t.wire = s.wire ++ [.host p] ∧ p.type = 0x02
        ∧ p.seq = (s.chan c).txNext ∧ p.payload = completionRecord seq st 0 data.length x.doneFt ++ data
        ∧ (t.chan c).cmd seq = none ∧ (t.chan c).txNext = ((s.chan c).txNext + 1) % 2 ^ 32
        ∧ (t.chan c).cache.getLast? = some (seq, st) ∧ (t.chan c).cache.length ≤ max 4096 (s.chan c).cache.length
        ∧ (∀ y ∈ (s.chan c).cmds, y.seq ≠ seq → y ∈ (t.chan c).cmds) ∧ (∀ b, b ≠ c → t.chan b = s.chan b) ∧ t.dies = s.dies

/-- CAN FD transfers: initiation, segments both ways, the abort at 100 ms, and the heartbeat. Rests on R400, R401,
R402, R403, R405, R427. -/
def Obligations.CanTransfers : Prop :=
  (∀ (f : CanFrame) (s : State),
    let idx := leNat ((f.data.drop 1).take 2)
    let sub := leNat ((f.data.drop 3).take 1)
    let n := leNat ((f.data.drop 4).take 2)
    (s.canTakes f 0x20 = true → n ≤ 4096 → ∃ t : State, exec (.canWriteInitiate f) s = .next t
      ∧ t.can.transfer = some { write := true, index := idx, sub := sub, total := n, data := (f.data.drop 8).take (min 56 n),
                                nextSeg := 1, ready := decide (n ≤ 56), lastAt := s.mono }
      ∧ t.wire = s.wire ∧ t = { s with can := t.can, flash := t.flash } ∧ t.can = { s.can with transfer := t.can.transfer })
    ∧ (s.canTakes f 0x40 = true → ∃ t : State, exec (.canReadInitiate f) s = .next t
      ∧ t.can.transfer = some { write := false, index := idx, sub := sub, total := 0, data := [], nextSeg := 1, ready := true,
                                lastAt := s.mono }
      ∧ t.wire = s.wire ∧ t = { s with can := t.can, flash := t.flash } ∧ t.can = { s.can with transfer := t.can.transfer }))
  ∧ (∀ (f : CanFrame) (s : State) (x : CanTransfer), s.can.transfer = some x → x.ready = false →
      let n := leNat ((f.data.drop 1).take 1)
      let answer (bs : List Byte) : Out := .can (0x580 + s.can.nodeId) (bs ++ List.replicate (canLength bs.length - bs.length) 0)
      (s.canTakes f 0x60 = true → x.write = true →
        (n ≠ x.nextSeg → exec (.canSegment f) s = .next s)
        ∧ (n = x.nextSeg →
            let y : CanTransfer := { x with data := x.data ++ (f.data.drop 2).take (min 62 (x.total - x.data.length)), nextSeg := n + 1,
                                            ready := decide (x.total ≤ 56 + 62 * n), lastAt := s.mono }
            (x.total ≤ 56 + 62 * n → exec (.canSegment f) s = .next { s with can := { s.can with transfer := some y } })
            ∧ (56 + 62 * n < x.total → exec (.canSegment f) s = .next { s with
                can := { s.can with transfer := some y }, wire := s.wire ++ [answer (leBytes 1 0x61 ++ leBytes 1 n)] })))
      ∧ (s.canTakes f 0x61 = true → x.write = false → n = x.nextSeg →
          (x.total ≤ 56 + 62 * n → exec (.canSegmentAccepted f) s = .next { s with can := { s.can with transfer := none } })
          ∧ (56 + 62 * n < x.total → exec (.canSegmentAccepted f) s = .next { s with
              can := { s.can with transfer := some { x with nextSeg := n + 1, lastAt := s.mono } },
              wire := s.wire ++ [answer (leBytes 1 0x60 ++ leBytes 1 (n + 1) ++ (x.data.drop (56 + 62 * n)).take 62)] })))
  ∧ (∀ (s : State) (x : CanTransfer), s.can.transfer = some x → x.ready = false → x.lastAt + 100000000 ≤ s.mono →
      s.boot.recovery = true ∨ s.governs = true → ∃ (t : State) (b : Nat), exec .canTransferTimeout s = .next t ∧ t.can.transfer = none
        ∧ (s.can.nodeId ≠ 0 → s.canOn = true → t.wire = s.wire ++ [.can (0x580 + s.can.nodeId)
            (let bs := leBytes 1 0x80 ++ leBytes 2 x.index ++ leBytes 1 x.sub ++ leBytes 4 0x05040000 ++ leBytes 1 b
             bs ++ List.replicate (canLength bs.length - bs.length) 0)])
        ∧ b ∈ statusCodes ∧ t = { s with can := t.can, wire := t.wire, free := t.free })
  ∧ ∀ s : State, 0 < s.setting 0x1017 1 → s.can.heartbeatAt + s.setting 0x1017 1 * 1000000 ≤ s.mono → s.power.st ≠ .off →
      s.boot.recovery = true ∨ (s.boot.claimed = true ∧ s.governs = true) → s.can.nodeId ≠ 0 → s.canOn = true →
      exec .canHeartbeat s = .next { s with can := { s.can with heartbeatAt := s.mono },
                                            wire := s.wire ++ [.can (0x700 + s.can.nodeId) [if s.boot.stage = 9 then 0x05 else 0x7F]] }

/-- What losing power leaves, and what a full boot starts over. Rests on R411, R428, R432, R443, R444, R447, R448,
R229, R375, R397, R433, R439. -/
def Obligations.PowerLossAndFullBoot : Prop :=
  (let dark (s t : State) (w : Supply) : Prop := t.power.st = .off ∧ t.power.supply = w ∧ t.boot.stage = 0
     ∧ (∀ d, (t.die d).presence = .isolated) ∧ (∀ a : Place, t.byteAt a = State.reset.byteAt a) ∧ (∀ c, t.chan c = Channel.reset)
     ∧ t.can.nodeId = s.can.nodeId
   (∀ (mv : Nat) (s : State), mv < 46000 → s.power.st ≠ .off →
     ((∀ q, s.power.entering ≠ some (.off, q)) → s.flash.writing = none → ∃ t : State, exec (.sag mv) s = .next t ∧ dark s t .waiting
       ∧ (7 ≤ s.boot.stage → ∃ p, t.flash.writing = some (p, .shed) ∧ p.cause = 0 ∧ p.ft = s.now ∧ p.bootCount = s.flash.bootCount)
       ∧ (s.boot.stage < 7 → t.flash.writing = none) ∧ t.flash.papers = s.flash.papers)
     ∧ (∀ q, s.power.entering = some (.off, q) → ∃ t : State, exec (.sag mv) s = .next t ∧ dark s t .off))
   ∧ (∀ (mv : Nat) (s : State), s.power.st = .off ∨ 46000 ≤ mv → exec (.sag mv) s = .next s)
   ∧ (∀ s : State, s.power.supply ≠ .absent → ∃ t : State, exec .overcurrentTrip s = .next t ∧ dark s t .tripped
       ∧ t.power.tripped = true ∧ t.flash.writing = none ∧ t.flash.papers = s.flash.papers)
   ∧ (∀ (ms : Nat) (s : State), ∃ t : State, exec (.inputPowerRemoved ms) s = .next t ∧ t.power.st = .off ∧ t.can.nodeId = 0
       ∧ t.tap = TapSt.reset
       ∧ (s.power.st = .off → t.power.supply = (if s.power.supply = .tripped ∧ ms < 1000 then .tripped else .absent))
       ∧ (s.power.st ≠ .off → t.power.supply = .absent))
   ∧ (∀ (s : State) (p : Endpaper) (after : After), s.flash.writing = some (p, after) →
       ∃ u : State, u.flash.writing = none ∧ u.flash.papers.getLast? = some p ∧ u.flash.papers.length ≤ 2 ∧ u = { s with flash := u.flash }
         ∧ (after = .shed ∨ after = .off → exec .endpaperWriteComplete s = .next u)
         ∧ (∀ e, after = .boot e → exec .endpaperWriteComplete s = .next (u.fullBoot e)))
   ∧ (∀ s : State, s.gov.gens[(1 : Fin 2)] = true → s.gov.gens[(0 : Fin 2)] = true → s.gov.gen = 0 → s.power.st ≠ .off →
       ∃ u : State, exec .standbyGeneratorFailure s = .next (u.raise { code := 0x080F, unit := uClock 1 })
         ∧ u.gov.gens[(1 : Fin 2)] = false ∧ u.gov.gens[(0 : Fin 2)] = true ∧ u = { s with gov := u.gov })
   ∧ ∀ (c : CtlId) (s : State), s.gov.ctl[c].failed = false → ∃ u : State, u.gov.ctl[c].failed = true ∧ u = { s with gov := u.gov }
       ∧ exec (.controlDieFailure c) s = .next (if 1 ≤ s.boot.stage ∧ s.boot.stage < 9 then u.raise { code := 0x080B, unit := uCtl c } else u))
  ∧ ((∀ (s : State) (e : Bool), let t := s.fullBoot e
       t.boot.stage = 1 ∧ t.boot.claimed = false ∧ t.boot.extended = e ∧ t.boot.startAt = s.mono ∧ t.power.st = .run
       ∧ (∀ a : Place, t.byteAt a = State.reset.byteAt a) ∧ (∀ d o, (t.die d).obj o = (State.reset.die d).obj o)
       ∧ (∀ d x, t.getCtx d x = State.reset.getCtx d x) ∧ t.quires = State.reset.quires ∧ (∀ c, t.chan c = Channel.reset)
       ∧ (s.flash.store = none → t.dict = []) ∧ (∀ x, s.flash.store = some x → t.dict = x.vals)
       ∧ t.flash.lease = s.flash.lease ∧ t.flash.bootCount = s.flash.bootCount ∧ t.flash.papers = s.flash.papers
       ∧ (s.flash.copy = none → t.flash.image = s.flash.image) ∧ t.can.nodeId = s.can.nodeId ∧ t.pending = s.pending ∧ t.mono = s.mono
       ∧ ∀ b : Fin 88, (t.bridge b).removed = [] ∧ (t.bridge b).path = bootPath t.vendor (t.flash.field.getD FieldPart.empty) b.val)
     ∧ (∀ (straps : Fin 64) (s : State),
         (s.power.supply = .absent → exec (.inputPowerApplied straps) s
           = .next { s with can := { s.can with nodeId := straps.val }, power := { s.power with supply := .waiting } })
         ∧ (s.power.supply = .tripped → exec (.inputPowerApplied straps) s = .next { s with can := { s.can with nodeId := straps.val } })
         ∧ (s.power.supply = .on ∨ s.power.supply = .waiting ∨ s.power.supply = .off → exec (.inputPowerApplied straps) s = .next s))
     ∧ (∀ s : State, exec .wakePin s = .next (if s.power.supply = .off ∧ s.flash.writing = none then s.fullBoot false else s))
     ∧ (∀ (f : CanFrame) (s : State),
         let heard := s.can.nodeId ≠ 0 ∧ f.fd = true ∧ f.ident = 0x600 + s.can.nodeId ∧ s.canOn = true
         (s.power.supply = .off → s.flash.writing = none → heard → exec (.canWakeFrame f) s = .next (s.fullBoot false))
         ∧ (¬ heard ∨ s.power.supply ≠ .off → exec (.canWakeFrame f) s = .next s))
     ∧ ∀ (input bank : Nat) (s : State), s.power.supply = .waiting → s.flash.writing = none →
         exec (.wakeConditionsMet input bank) s = .next (if 48000 ≤ input ∧ 47000 ≤ bank then s.fullBoot false else s))

/-- BOOT_STEP_COMPLETE and BOOT_STEP_LIMIT step by step, and CTL-B's claim. Rests on R24, R227, R228, R229, R288,
R510, R367, R405, R410, R411, R414, R427. -/
def Obligations.BootRunsItsSteps : Prop :=
  (∀ s : State, s.boot.recovery = false →
    let step (t : State) (obs : BootObs) : Prop := exec (.bootStepComplete obs) s = .next t
    let none_ := BootObs.none_
    (s.boot.stage = 1 → s.ctlLost 0 = false →
      (s.imageOk s.flash.image = true → s.boot.claimed = false → ∃ t : State, step t none_ ∧ t.boot.stage = 2 ∧ t.holder = 0
        ∧ t.leaseEpoch = s.flash.lease.1 + 1 ∧ t.flash.lease.1 = s.flash.lease.1 + 1 ∧ t.boot.claimed = true
        ∧ t.flash.bootCount = s.flash.bootCount + 1)
      ∧ (s.imageOk s.flash.image = false → ∃ t : State, step t none_ ∧ t.boot.recovery = true ∧ t.flash.heldRom = true ∧ t.boot.stage = 1))
    ∧ (∀ obs : BootObs, s.boot.stage = 2 → ∃ t : State, step t obs ∧ t.boot.stage = 3
        ∧ ∀ d, if d ∈ obs.failedDies then (t.die d).presence = .isolated ∧ (t.die d).heldDown = true
          else (t.die d).presence = (s.die d).presence ∧ (t.die d).heldDown = (s.die d).heldDown)
    ∧ (∀ (d : DieId) (c : Nat), s.boot.stage = 3 → s.flash.field = some FieldPart.empty → s.vendor.badChannels = [] → s.vendor.map = [] → c < 64 →
        ∃ t : State, step t { none_ with failedChannels := [(d, c)] } ∧ t.boot.stage = 4
          ∧ (t.die d).chanMap = (List.range 64).map (fun k => some (if k = c then 64 else k))
          ∧ ∀ e, e ≠ d → (t.die e).chanMap = (List.range 64).map some)
    ∧ (∀ obs : BootObs, s.boot.stage = 3 → ∃ t : State, step t obs ∧ (s.boot.extended = false → t.wireMap = s.wireMap)
        ∧ (s.boot.extended = true → s.flash.field.isSome = true →
            t.wireMap = s.wireMap ++ newEntries s.wireMap (obs.nets.filter fun n => n.bond)))
    ∧ (s.boot.stage = 4 → ∃ t : State, step t none_ ∧ t.boot.stage = 5
        ∧ ∀ p : PortId, (t.port p).plan = s.stagedPorts.getD p.val PortPlan.reset
          ∧ ((t.port p).plan.first.kind ≠ 0 → (t.port p).state = (if t.spinePath p = true then .training else .down))
          ∧ ((t.port p).plan.first.kind = 0 → (s.port p).trained = false → (s.port p).state ≠ .training → (t.port p).state = (s.port p).state))
    ∧ (s.boot.stage = 5 → ∃ t : State, step t none_ ∧ t.boot.stage = 6
        ∧ ∀ p : PortId, (t.port p).state = (if (s.port p).state = .training then .down else (s.port p).state))
    ∧ (s.boot.stage = 6 → (s.joinMet = true → ∃ t : State, step t none_ ∧ t.boot.stage = 7 ∧ t.flash.last = s.flash.bootCount
          ∧ t.dies = s.dies ∧ t.log = s.log) ∧ (s.joinMet = false → step s none_))
    ∧ (s.boot.stage = 7 → (s.time.firstLocked = true → step { s with boot := { s.boot with stage := 8, stepAt := s.mono } } none_)
        ∧ (s.time.firstLocked = false → step s none_))
    ∧ (s.boot.stage = 8 → s.flash.image.security ≤ s.flash.floor → ∃ u : State, u.boot.stage = 9 ∧ u.dies = s.dies
        ∧ (s.can.nodeId ≠ 0 → s.canOn = true → u.wire = s.wire ++ [.can (0x700 + s.can.nodeId) [0x05]])
        ∧ step (u.govEvent 0x0807 ((if s.boot.extended then 2 else 1) * 2 ^ 56 + (s.mono - s.boot.startAt))) none_))
  ∧ (∀ (us : List Nat) (s : State), s.boot.recovery = false →
      (1 ≤ s.boot.stage → s.boot.stage ≤ 5 → s.boot.stepAt + bootLimit s.boot.stage ≤ s.mono →
        exec (.bootStepLimit us) s = .next ((s.govEvent 0x0808 0).bootStep (unfinishedObs s.boot.stage us)))
      ∧ (1 ≤ s.boot.stage → s.boot.stage ≤ 5 → s.mono < s.boot.stepAt + bootLimit s.boot.stage → exec (.bootStepLimit us) s = .next s)
      ∧ (s.boot.stage = 6 ∨ s.boot.stage = 7 →
          (s.boot.told = false → s.boot.stepAt + 60000000000 ≤ s.mono → exec (.bootStepLimit us) s
            = .next (State.govEvent { s with boot := { s.boot with told := true } } 0x0808 0))
          ∧ (s.boot.told = true → exec (.bootStepLimit us) s = .next s)))
  ∧ (∀ n : NetObs, netKnown n = true → n.partner = none →
      let e := netEntry n true
      bits e 63 62 = (if n.bond = true then 2 else 1) ∧ bit e 61 = true ∧ bits e 60 57 = netCode n ∧ bits e 19 0 = 0
      ∧ mapWires [e] = (if n.bond = false ∧ 1 ≤ netCode n ∧ netCode n ≤ 4 then [(n.unit, n.middle, n.net)] else [])
      ∧ mapBonds [e] = (if n.bond = true ∧ 1 ≤ netCode n ∧ netCode n ≤ 4 then [(n.unit, n.middle, n.net)] else []))
  ∧ (bootLimit 1 = 5000000000 ∧ bootLimit 2 = 30000000000 ∧ bootLimit 3 = 120000000000 ∧ bootLimit 4 = 90000000000
      ∧ bootLimit 5 = 30000000000)
  ∧ ∀ s : State, s.boot.stage = 1 → s.boot.claimed = false → s.boot.recovery = false → s.boot.startAt + 5000000000 ≤ s.mono →
      s.ctlLost 1 = false → s.imageOk s.flash.image = true → ∃ t : State, exec .ctlBBootClaim s = .next t ∧ t.holder = 1
        ∧ t.leaseEpoch = s.flash.lease.1 + 2 ∧ t.boot.claimed = true ∧ t.boot.stage = 1
        ∧ (∀ d, (t.die d).leaseEpoch = t.leaseEpoch ∧ (t.die d).leaseHolder = 1 ∧ (t.die d).leaseExpired = false)
        ∧ ∀ a : Place, t.byteAt a = s.byteAt a

/-- The power-limit controller's clock, and POWER STATE commands: refusal, entry, its end, exit and abort. Rests on
R430, R431, R433, R434, R435, R438. -/
def Obligations.PowerStatesAreEnteredAndLeft : Prop :=
  (∀ (m : PowerObs) (s : State), (s.power.st = .off → exec (.powerSample m) s = .next s)
    ∧ (s.power.st ≠ .off → ∃ t : State, exec (.powerSample m) s = .next t ∧ t.power.average = m.average
        ∧ (∀ a : Place, t.byteAt a = s.byteAt a)
        ∧ (s.pause ≠ none → t.power.clock = s.power.clock)
        ∧ (s.pause = none → 300 ≤ s.power.clock → s.power.clock ≤ 1200 →
            let beyond := min (s.setting 0x3010 1) s.power.thermal < m.average ∨ 11000 < m.watts
            (beyond → t.power.clock ≤ s.power.clock ∧ 300 ≤ t.power.clock ∧ (s.power.clock - t.power.clock) % 25 = 0
              ∧ (325 ≤ s.power.clock → t.power.clock < s.power.clock))
            ∧ (¬ beyond → s.power.clock ≤ t.power.clock ∧ t.power.clock ≤ 1200 ∧ (t.power.clock - s.power.clock) % 25 = 0))
        ∧ (s.power.shownAt = 0 ∨ s.power.shownAt + 1000000 ≤ s.mono → t.power.volts = m.volts ∧ t.power.amps = m.amps
            ∧ t.power.watts = m.watts)))
  ∧ (∀ (seq n : Nat) (s : State) (x : HostCmd), s.ready 0 seq 0x10 = some x → bits (x.qw 2) 63 60 = n → s.boot.stage = 9 →
      s.hostPath = true → s.power.entering = none →
      (1 ≤ n → n ≤ 4 → s.power.leaving = [] →
        (n = s.power.st.code → exec (.powerStateEntry seq) s = .next (s.finish 0 seq 0 []))
        ∧ (n ≠ s.power.st.code → s.refusers (powerOf n) ≠ [] → ∃ (u : State) (bs : List Byte),
            exec (.powerStateEntry seq) s = .next (u.finish 0 seq 0x60 bs) ∧ u.power.st = s.power.st ∧ u.power.entering = none
            ∧ u.flash = s.flash ∧ bs.length ≤ 192)
        ∧ (n ≠ s.power.st.code → (∃ k, s.quireState k = 2) → s.refusers (powerOf n) ≠ [])
        ∧ (n ≠ s.power.st.code → s.refusers (powerOf n) = [] → ∃ t : State, exec (.powerStateEntry seq) s = .next t
            ∧ t.power.entering = some (powerOf n, seq) ∧ t.power.st = s.power.st
            ∧ (n = 4 → ∃ p, t.flash.writing = some (p, .off) ∧ p.cause = 1 ∧ p.ft = s.now) ∧ (n ≠ 4 → t.flash = s.flash)))
      ∧ (n = 0 →
          (s.power.st = .run → exec (.powerStateExit seq) s = .next (s.finish 0 seq 0 []))
          ∧ (s.power.st ≠ .run → ∃ t : State, exec (.powerStateExit seq) s = .next t ∧ t.power.leaving = s.power.leaving ++ [seq]
              ∧ t.power.st = s.power.st ∧ t.dies = s.dies)))
  ∧ (∀ (seq seq' : Nat) (s : State) (x y : HostCmd) (e : PowerState), s.ready 0 seq 0x10 = some x → bits (x.qw 2) 63 60 = 0 →
      s.boot.stage = 9 → s.hostPath = true → s.power.entering = some (e, seq') → seq ≠ seq' →
      (s.chan 0).cmd seq' = some y → ∃ (t : State) (z : HostCmd), exec (.powerStateExit seq) s = .next t ∧ t.power.entering = none
        ∧ t.power.leaving = s.power.leaving ++ [seq] ∧ t.power.st = s.power.st ∧ t.flash.writing = none
        ∧ (t.chan 0).cmd seq' = some z ∧ ∃ bs, z.result = some (0x60, bs))
  ∧ (∀ (e : PowerState) (seq : Nat) (s : State), s.power.entering = some (e, seq) → s.entryDone e = true →
      (e = .idle ∨ e = .sleep ∨ e = .deepSleep → ∃ u : State, exec .powerStateReached s = .next (u.finish 0 seq 0 [])
        ∧ u.power.st = e ∧ u.power.entering = none
        ∧ (e ≠ .idle → ∀ p, (u.port p).trained = false) ∧ (∀ d off, u.byteAt ⟨d, false, off⟩ = s.byteAt ⟨d, false, off⟩)
        ∧ (e ≠ .deepSleep → u.dies.map (·.sram) = s.dies.map (·.sram))
        ∧ (e = .deepSleep → ∀ d, (∀ off, u.byteAt ⟨d, true, off⟩ = 0) ∧ ∀ o, (u.die d).obj o = (State.reset.die d).obj o))
      ∧ (e = .off → ∃ t : State, exec .powerStateReached s = .next t ∧ t.power.st = .off ∧ t.power.supply = .off
          ∧ (∀ d, (t.die d).presence = .isolated)
          ∧ ((s.chan 0).cmd seq ≠ none → ∃ k : HostPacket, .host k ∈ t.wire ∧ k.type = 0x02)))
  ∧ ∀ s : State, s.power.entering = none → s.power.leaving ≠ [] → s.power.st ≠ .run → ∃ u : State,
      exec .powerStateReached s = .next (s.power.leaving.foldl (fun u seq => u.finish 0 seq 0 []) u) ∧ u.power.st = .run
      ∧ u.power.leaving = [] ∧ ∀ a : Place, u.byteAt a = s.byteAt a

/-- The governing lease: renewals, expiry at a die, the other control die's claim and its confirmation. Rests on R414,
R415, R474, R475, R476. -/
def Obligations.TheLeaseIsRenewedAndClaimed : Prop :=
  (∀ s : State, s.boot.claimed = true → s.governs = true → s.power.st ≠ .off → s.ctlPath s.holder = true → ∃ t : State, exec .leaseRenewal s = .next t
    ∧ t.wire = s.wire ++ [.renewal s.leaseEpoch s.holder] ∧ t.gov.ctl[s.holder].heardAt = s.mono ∧ t.dies = s.dies ∧ t.log = s.log)
  ∧ (∀ (d : DieId) (epoch : Nat) (c : CtlId) (s : State), let x := s.die d
      let takes := x.intakeFrozen = false ∧ (x.leaseEpoch < epoch ∨ (x.leaseEpoch = epoch ∧ x.leaseHolder = c))
      ∃ t : State, exec (.leaseRenewalReceive (.die d) epoch c) s = .next t ∧ t = { s with dies := t.dies }
        ∧ (∀ e, e ≠ d → t.die e = s.die e)
        ∧ (takes → t.die d = { x with leaseEpoch := epoch, leaseHolder := c, renewedAt := s.mono, leaseLimit := 2000000, leaseExpired := false })
        ∧ (¬ takes → t.die d = x))
  ∧ (∀ (c holder : CtlId) (epoch : Nat) (s : State),
      (epoch < s.gov.ctl[c].epoch → exec (.leaseRenewalReceive (.ctl c) epoch holder) s = .next s)
      ∧ (s.gov.ctl[c].epoch ≤ epoch → ∃ t : State, exec (.leaseRenewalReceive (.ctl c) epoch holder) s = .next t
          ∧ t.gov.ctl[c].epoch = epoch ∧ t.gov.ctl[c].heardAt = s.mono
          ∧ (c = s.holder → s.leaseEpoch < epoch → t.holder = holder ∧ t.leaseEpoch = epoch)
          ∧ (c ≠ s.holder ∨ epoch ≤ s.leaseEpoch → t.holder = s.holder ∧ t.leaseEpoch = s.leaseEpoch)))
  ∧ (∀ (d : DieId) (s : State), s.boot.claimed = true → (s.die d).intakeFrozen = false →
      ((s.die d).renewedAt + (s.die d).leaseLimit ≤ s.mono → exec (.leaseExpiry d) s
        = .next (s.updDie d fun x => { x with leaseExpired := true }))
      ∧ (s.mono < (s.die d).renewedAt + (s.die d).leaseLimit → exec (.leaseExpiry d) s = .next s))
  ∧ (∀ (c : Claim) (s : State), ∃ t : State, s.askConfirm c = t ∧ (∃ y, t.gov.claim = some y ∧ y.who = c.who ∧ y.epoch = c.epoch ∧ y.askedAt = c.askedAt)
      ∧ t.holder = s.holder ∧ t.leaseEpoch = s.leaseEpoch ∧ t.dies = s.dies
      ∧ ∃ r : MgmtRecord, r.type = 0x18 ∧ r.leaseEpoch = c.epoch + 1 ∧ mgmtOk r = true
        ∧ r.ft = s.ctlFt[c.who] - (s.mono - (s.gov.ctl[c.who].heardAt + 2000000))
        ∧ t.wire = s.wire ++ (if s.manager ≠ 0xFFFF ∧ s.ctlPath c.who = true then [.mgmt s.manager r] else [])
            ++ (if s.can.nodeId ≠ 0 ∧ s.canOn = true ∧ (c.canAt = 0 ∨ c.canAt + 1000000000 ≤ s.mono + 1) then
                [.can (0x0C0 + s.can.nodeId) (leBytes 4 (c.epoch + 1) ++ leBytes 1 c.who.val ++ List.replicate 3 0)] else []))
  ∧ (∀ (who : CtlId) (s : State), let e := s.gov.ctl[who].epoch
      who ≠ s.holder → s.ctlLost who = false → s.gov.ctl[who].heardAt + 4000000 ≤ s.mono → s.gov.warm = none → s.gov.claim = none →
      s.boot.recovery = false → s.power.st ≠ .off →
      (s.boot.stage = 9 → exec (.leaseClaimRequest who) s = .next (s.askConfirm { who := who, epoch := e, askedAt := s.mono, canAt := 0 }))
      ∧ (2 ≤ s.boot.stage → s.boot.stage < 9 → ∃ t u : State, exec (.leaseClaimRequest who) s = .next t
          ∧ t = { u.raise { code := 0x080B, unit := uCtl s.holder } with boot := t.boot } ∧ u.log = s.log
          ∧ t.holder = who ∧ t.leaseEpoch = e + 1 ∧ t.boot.stage = 2 ∧ t.gov.ctl[s.holder].failed = true
          ∧ t.flash.lease.1 = e + 1 ∧ .claim (e + 1) who ∈ t.wire))
  ∧ (∀ (r : MgmtRecord) (s : State), s.mgrTakes r 0x18 = true → ∃ a : MgmtRecord, a.type = 0x19 ∧ a.leaseEpoch = r.leaseEpoch
      ∧ mgmtOk a = true ∧ exec (.leaseConfirmReceive r) s = .next { s with wire := s.wire ++ [.mgmt r.node a] }
      ∧ (let m := SMap.get 0 s.gov.traffic r.node
         (m ≠ 0 → s.mono < m - 1 + 4000000 → a.result = 0x06) ∧ (m = 0 ∨ m - 1 + 4000000 ≤ s.mono → a.result = 0)))
  ∧ (∀ (via : Bool) (epoch : Nat) (c : Claim) (s : State), s.gov.claim = some c →
      (epoch = c.epoch + 1 → s.ctlLost c.who = false → ∃ u : State, exec (.leaseAnswerReceive true via epoch) s
          = .next (u.raise { code := 0x0810, unit := uCtl c.who, detail := epoch })
        ∧ u.holder = c.who ∧ u.leaseEpoch = epoch ∧ u.gov.claim = none ∧ u.gov.warm = none ∧ u.wire = s.wire ++ [.claim epoch c.who]
        ∧ u.flash.lease = (epoch, c.who.val, s.ctlFt[c.who]) ∧ u.dies = s.dies)
      ∧ exec (.leaseAnswerReceive false via epoch) s = .next s
      ∧ (c.askedAt + 1000000000 ≤ s.mono → exec .leaseConfirmTimeout s = .next
          ((s.raise { code := 0x0811, unit := uCtl c.who, detail := c.epoch + 1 }).askConfirm { c with askedAt := s.mono })))
  ∧ ∀ (d : DieId) (who : CtlId) (epoch : Nat) (s : State), let x := s.die d
      x.intakeFrozen = false →
      (epoch < x.leaseEpoch → exec (.leaseClaimReceive d who epoch) s = .next s)
      ∧ (epoch = x.leaseEpoch → who ≠ x.leaseHolder → exec (.leaseClaimReceive d who epoch) s = .next
          ((s.updDie d fun y => { y with intakeFrozen := true }).raise { code := 0x0812, unit := uDie d, detail := epoch }))
      ∧ (x.leaseEpoch < epoch → exec (.leaseClaimReceive d who epoch) s = .next (s.updDie d fun y =>
          { y with leaseEpoch := epoch, leaseHolder := who, renewedAt := s.mono, leaseLimit := 2000000, leaseExpired := false }))

/-- FW WRITE, FW COMMIT and its copy, ATTEST, RESTART and CONFIG WRITE. Rests on R182, R416, R417, R418, R422, R423,
R424, R425, R426. -/
def Obligations.FirmwareCommands : Prop :=
  ∀ (seq : Nat) (s : State) (x : HostCmd),
    (s.firmwareReady seq 0x30 x →
      let off := bits (x.qw 2) 25 0
      let len := bits (x.qw 3) 12 0
      let ends (st : Nat) : Prop := exec (.fwWrite seq) s = .next (s.finish 0 seq st [])
      (s.flash.copy ≠ none ∨ 8160 < len ∨ len % 4 ≠ 0 ∨ off % 4 ≠ 0 ∨ x.payload.length < 64 + len → ends 0x02)
      ∧ (s.flash.copy = none → len ≤ 8160 → len % 4 = 0 → off % 4 = 0 → 64 + len ≤ x.payload.length →
          (67108864 < off + len → ends 0x10)
          ∧ (off + len ≤ 67108864 →
              (∀ e ∈ s.flash.written, off ≠ 0 → len ≠ 0 → e.1 < off + len → off < e.1 + e.2 → e.2 ≠ 0 → ends 0x02)
              ∧ ((∀ e ∈ s.flash.written, off = 0 ∧ len ≠ 0 ∨ off + len ≤ e.1 ∨ e.1 + e.2 ≤ off ∨ len = 0) → SMap.wf 0 s.flash.staged = true →
                  ∃ u : State, exec (.fwWrite seq) s = .next (u.finish 0 seq 0 []) ∧ u = { s with flash := u.flash }
                    ∧ slice u.flash.staged off len = (x.payload.drop 64).take len
                    ∧ (∀ a, a < off ∨ off + len ≤ a → SMap.get 0 u.flash.staged a = if off = 0 ∧ len ≠ 0 then 0 else SMap.get 0 s.flash.staged a)
                    ∧ (len ≠ 0 → (off, len) ∈ u.flash.written) ∧ u.flash.image = s.flash.image))))
    ∧ (s.firmwareReady seq 0x31 x → bits (x.qw 2) 63 60 = 1 ∨ bits (x.qw 2) 63 60 = 2 → s.flash.copy = none →
        (s.imageCheck ≠ 0 → exec (.fwCommit seq) s = .next ((s.govEvent 0x0902 s.imageCheck).finish 0 seq 0x02 []))
        ∧ (slice s.flash.staged 0 4 ≠ [0x50#8, 0x4C#8, 0x49#8, 0x48#8] → s.imageCheck = 1)
        ∧ (s.imageCheck = 0 → ∃ t : State, exec (.fwCommit seq) s = .next t
            ∧ t.flash = { s.flash with copy := some (bits (x.qw 2) 63 60, seq, s.stagedImage) } ∧ t.dies = s.dies ∧ t.log = s.log))
    ∧ (∀ (a : Nat) (i : Image), s.flash.copy = some (a, seq, i) → s.boot.recovery = false → ∃ u : State,
        u = { s with flash := { s.flash with image := i, copy := none } }
        ∧ (a = 1 → exec .fwCommitCopyComplete s = .next (u.finish 0 seq 0 []))
        ∧ (a = 2 → exec .fwCommitCopyComplete s = .next { u with gov := { s.gov with warmWait := s.gov.warmWait ++ [(2, seq)] } }))
    ∧ (s.firmwareReady seq 0x32 x →
        (s.identityKey = false → exec (.attest seq) s = .next (s.finish 0 seq 0x03 []))
        ∧ (s.identityKey = true → ∃ t : State, exec (.attest seq) s = .next t ∧ t.sec.jobs = s.sec.jobs ++ [.attest seq] ∧ t.dies = s.dies))
    ∧ (∀ rest, s.sec.jobs = .attest seq :: rest → (s.chan 0).cmd seq = some x → ∃ (u : State) (sig : List Byte),
        (let report := s.report ((List.range 4).flatMap fun i => leBytes 8 (x.qw (2 + i)))
         ∀ b, sm2Sign s.vendor.serial s.vendor.identityKey report (Config.identityPrivate s.vendor.identityKey)
           (leNat (s.freshBytes 32).1 % sm2N) = some b → sig = b)
        ∧ exec .signatureComplete s = .next (u.finish 0 seq 0 (s.report ((List.range 4).flatMap fun i => leBytes 8 (x.qw (2 + i))) ++ sig))
        ∧ u.sec.jobs = rest ∧ u.dies = s.dies ∧ u.log = s.log)
    ∧ (s.ready 0 seq 0x33 = some x → s.boot.recovery = false → s.hostPath = true →
        let k := bits (x.qw 2) 63 60
        (k = 0 ∨ 3 < k → exec (.restart seq) s = .next (s.finish 0 seq 0x01 []))
        ∧ (5 ≤ s.boot.stage → s.governs = true →
            (k = 1 ∨ k = 2 → s.allStopped = false → bit (x.qw 2) 59 = false → exec (.restart seq) s = .next (s.finish 0 seq 0x06 []))
            ∧ (k = 1 ∨ k = 2 → s.allStopped = true ∨ bit (x.qw 2) 59 = true → 7 ≤ s.boot.stage → ∃ (t : State) (p : Endpaper) (h : HostPacket),
                exec (.restart seq) s = .next t ∧ t.flash.writing = some (p, .boot (k == 2)) ∧ p.cause = 2 ∧ p.ft = s.now
                ∧ t.wire = s.wire ++ [.host h] ∧ h.type = 0x02 ∧ t.boot = s.boot ∧ t.dies = s.dies)
            ∧ (k = 3 → ∃ t : State, exec (.restart seq) s = .next t ∧ t.gov.warmWait = s.gov.warmWait ++ [(1, seq)] ∧ t.dies = s.dies)))
    ∧ (s.firmwareReady seq 0x34 x → s.flash.copy = none →
        exec (.configWrite seq none) s = .next ((s.govEvent 0x0902 1).finish 0 seq 0x02 [])
        ∧ ∀ p : VendorPart, slice s.flash.staged 0 (min (bits (x.qw 2) 31 0) p.raw.length) = p.raw →
            (s.partCheck p ≠ 0 → exec (.configWrite seq (some p)) s = .next ((s.govEvent 0x0902 (s.partCheck p)).finish 0 seq 0x02 []))
            ∧ (s.partCheck p = 0 → p.serial ≠ s.vendor.serial → exec (.configWrite seq (some p)) s = .next (s.finish 0 seq 0x02 []))
            ∧ (s.partCheck p = 0 → p.serial = s.vendor.serial → (∀ d ∈ s.vendor.disabled, ∃ e ∈ p.disabled, e.1 = d.1) →
                exec (.configWrite seq (some p)) s = .next (State.finish { s with flash := { s.flash with vendorNext := some p } } 0 seq 0 [])))

/-- A stack reading above 95.0 C raises 0x030A, and the module enters the critical shutdown path, whatever its
settings. Rests on R243. -/
def Obligations.AHotStackShutsTheModuleDown : Prop :=
  ∀ (d : DieId) (tenths : Int) (s : State), s.power.st ≠ .off → 950 < tenths → ∃ u t : State,
    exec (.stackTemperatureReading d tenths) s = .next t
    ∧ t = (u.raise { code := 0x030A, unit := uStack d }).critical 2 (uStack d) ∧ s.shutDown t 2
    ∧ (u.die d).temp = tenths

/-- Above 58.0 V event 0x070A at most once per minute and the module runs on; above 60.0 V the critical shutdown path.
Rests on R431. -/
def Obligations.OvervoltageIsReportedOrShutsDown : Prop :=
  (∀ (m : PowerObs) (s : State), s.power.st ≠ .off → 5800 < m.volts →
    let due := s.power.overAt = 0 ∨ s.power.overAt + 60000000000 ≤ s.mono + 1
    let u := if due then s.govEvent 0x070A 0 else s
    let capped := 11000 < m.watts ∧ (s.power.capAt = 0 ∨ s.power.capAt + 1000000000 ≤ s.mono + 1)
    ∃ t : State, exec (.powerSample m) s = .next t ∧ t.power.st = s.power.st ∧ (∀ d, (t.die d).presence = (s.die d).presence)
      ∧ t.power.overAt = (if due then s.mono + 1 else s.power.overAt) ∧ t.log = (if capped then u.govEvent 0x070C 0 else u).log)
  ∧ ∀ (mv : Nat) (s : State), s.power.st ≠ .off → 60000 < mv → ∃ t : State, exec (.inputOvervoltage mv) s = .next t
      ∧ t = s.critical 3 (uCtl s.holder) ∧ s.shutDown t 3

/-- Stacks scrub and retrain, and heat throttles. Rests on R244, R245, R246, R247, R248, R250, R240, R241, R242, R440,
R441, R442. -/
def Obligations.StacksAndHeat : Prop :=
  ((∀ (d : DieId) (s : State), ∃ t : State, exec (.eccWriteBack d) s = .next t ∧ t.die d = { s.die d with corrected := (s.die d).corrected.drop 1 }
     ∧ (∀ e, e ≠ d → t.die e = s.die e) ∧ t = { s with dies := t.dies })
   ∧ (∀ (d : DieId) (cw : Nat) (s : State), 32 * cw < (s.die d).capacity → s.setting 0x2121 1 ≠ 0 →
       let ch := ((s.die d).localChannel (32 * cw)).getD 0
       exec (.scrubRead d cw .clean) s = .next s
       ∧ (∃ t : State, exec (.scrubRead d cw .corrected) s = .next t ∧ cw ∈ (t.die d).corrected ∧ (∀ w ∈ (s.die d).corrected, w ∈ (t.die d).corrected)
           ∧ (SMap.sorted (s.die d).memCounts 0 = true → SMap.get 0 (t.die d).memCounts (2 * ch) = SMap.get 0 (s.die d).memCounts (2 * ch) + 1)
           ∧ (∀ a : Place, t.byteAt a = s.byteAt a) ∧ t = { s with dies := t.dies })
       ∧ (s.regionOf d (32 * cw) = none → ∃ u : State, (∀ w, w ∈ (u.die d).badDram ↔ w = cw ∨ w ∈ (s.die d).badDram)
           ∧ u = { s with dies := u.dies } ∧ (∀ a : Place, u.byteAt a = s.byteAt a)
           ∧ exec (.scrubRead d cw .uncorrectable) s = .next (u.raise { code := 0x0304, unit := uChannel d ch, detail := 32 * cw })))
   ∧ (∀ (d : DieId) (ch drift corrected : Nat) (s : State), ch ∈ (s.die d).served →
       let far := s.setting 0x2120 3 < drift ∨ s.setting 0x2120 4 < corrected
       (far → ((∃ b, (s.die d).retrain = some (ch, b)) ∨ ((s.die d).retrain ≠ none ∧ ch ∈ (s.die d).retrainWait)) →
           exec (.unscheduledRetrain d ch drift corrected) s = .next s)
       ∧ (far → (∀ b, (s.die d).retrain ≠ some (ch, b)) → ((s.die d).retrain = none ∨ ch ∉ (s.die d).retrainWait) →
         ∃ u : State, exec (.unscheduledRetrain d ch drift corrected) s = .next (u.raise { code := 0x0306, unit := uChannel d ch })
         ∧ u = { s with dies := u.dies } ∧ (∀ a : Place, u.byteAt a = s.byteAt a)
         ∧ ((s.die d).retrain = none → (u.die d).retrain = some (ch, false) ∧ (u.die d).retrainFrom = s.mono
             ∧ (u.die d).retrains.2 = (s.die d).retrains.2 + 1)
         ∧ (∀ c b, (s.die d).retrain = some (c, b) → (u.die d).retrain = some (c, b) ∧ ch ∈ (u.die d).retrainWait))
       ∧ (¬ far → s.setting 0x2120 2 < drift → ∃ t : State, exec (.unscheduledRetrain d ch drift corrected) s = .next t
           ∧ (∃ a ∈ t.gut.waiting, a.kind = .retrain ∧ a.res = .channel d ch) ∧ t = { s with gut := t.gut })
       ∧ (¬ far → drift ≤ s.setting 0x2120 2 → exec (.unscheduledRetrain d ch drift corrected) s = .next s))
   ∧ ∀ (d : DieId) (ok : Bool) (ls : List (Nat × Nat)) (c : Nat) (planned : Bool) (s : State), (s.die d).retrain = some (c, planned) →
       SMap.sorted (s.die d).trainFails 0 = true → SMap.sorted (s.die d).trainAt 0 = true →
       let n := if ok then 0 else SMap.get 0 (s.die d).trainFails c + 1
       ∃ u : State, exec (.retrainComplete d ⟨ok, ls⟩) s = .next (if n = 3 then u.raise { code := 0x0307, unit := uChannel d c } else u)
         ∧ SMap.get 0 (u.die d).trainFails c = n ∧ SMap.get 0 (u.die d).trainAt c = s.mono
         ∧ ((s.die d).retrainWait = [] → (u.die d).retrain = none) ∧ (∀ w ws, (s.die d).retrainWait = w :: ws →
             (u.die d).retrain = some (w, false) ∧ (u.die d).retrainWait = ws)
         ∧ (n = 3 → ∃ f, u.flash.field = some f ∧ (d.val, c) ∈ f.channels)
         ∧ (∀ g l, ls = [(g, l)] → g < 8 → l < 36 → SMap.sorted (s.die d).lanes 0 = true → s.spareTaken d c g = false →
             SMap.get 0xFF (u.die d).lanes (8 * c + g) = l)
         ∧ ∀ a : Place, u.byteAt a = s.byteAt a)
  ∧ ((∀ (d : DieId) (rs : List (Int × Int)) (s : State), s.power.st ≠ .off → s.boot.stage ≠ 0 → rs ≠ [] → rs.length ≤ 64 →
       s.server d ≠ none →
       (∀ k ∈ s.power.excluded, k / 64 ≠ d.val) → (∀ r ∈ rs, -200 ≤ r.1 ∧ r.1 ≤ 1500 ∧ (r.1 - r.2).natAbs ≤ 100) →
       ∃ (u t : State) (h : Int), exec (.dieSensorReading [{ die := d.val, readings := rs }]) s = .next t
         ∧ u = { s with power := u.power } ∧ (∃ r ∈ rs, u.power.hot[d] = r.1) ∧ (∀ r ∈ rs, r.1 ≤ u.power.hot[d])
         ∧ (∀ e : DieId, e ≠ d → u.power.hot[e] = s.power.hot[e]) ∧ u.power.excluded = s.power.excluded
         ∧ (∀ e : DieId, u.power.hot[e] ≤ h) ∧ (∃ e : DieId, u.power.hot[e] = h)
         ∧ (1050 ≤ h → s.shutDown t 1)
         ∧ (h < 1050 → t.power.hot = u.power.hot ∧ t.power.st = s.power.st ∧ (∀ a : Place, t.byteAt a = s.byteAt a)
             ∧ (980 ≤ h → 8 ≤ s.boot.stage → s.power.throttling = false → t.power.throttling = true
                 ∧ t.power.thermal = max 1920 (s.power.average / 10 * 10 - 480) ∧ t.power.stepAt = s.mono)
             ∧ (h < 980 ∨ s.power.throttling = true ∨ s.boot.stage < 8 → t.power.throttling = s.power.throttling ∧ t.power.thermal = s.power.thermal
                 ∧ t.log = s.log)
             ∧ (h < 950 → t.power.coolSince = some (s.power.coolSince.getD s.mono)) ∧ (950 ≤ h → t.power.coolSince = none)))
     ∧ (∀ (d : DieId) (r med : Int) (s : State), s.power.st ≠ .off → s.boot.stage ≠ 0 → s.server d ≠ none → 64 * d.val ∉ s.power.excluded → r < -200 ∨ 1500 < r →
         (∀ e : DieId, s.power.hot[e] < 980) → ∃ t : State, exec (.dieSensorReading [{ die := d.val, readings := [(r, med)] }]) s = .next t
           ∧ t.power.excluded = s.power.excluded ++ [64 * d.val] ∧ t.power.hot = s.power.hot)
     ∧ (∀ s : State, s.power.throttling = true →
         (980 ≤ s.hottest.1 → s.power.stepAt + 1000000 ≤ s.mono → exec .thermalLimitStep s
           = .next { s with power := { s.power with stepAt := s.mono, thermal := max 1920 (s.power.thermal - 480) } })
         ∧ (∀ c, s.power.coolSince = some c → max c s.power.stepAt + 10000000 ≤ s.mono → ∃ u : State,
             u = { s with power := { s.power with stepAt := s.mono, thermal := min 9600 (s.power.thermal + 480),
                                                  throttling := decide (s.power.thermal + 480 < 9600) } }
             ∧ exec .thermalLimitRestore s = .next (if s.power.thermal + 480 < 9600 then u else u.govEvent 0x0704 0)))
     ∧ ∀ (d : DieId) (r : Int) (s : State), s.power.st ≠ .off → r ≤ 950 → (s.die d).band ≤ 2 → (s.die d).step ≤ 3 →
         let b := (s.die d).band
         let p := (s.die d).step
         ∃ t : State, exec (.stackTemperatureReading d r) s = .next t ∧ (t.die d).temp = r ∧ (∀ e, e ≠ d → (t.die e).temp = (s.die e).temp ∧ (t.die e).band = (s.die e).band ∧ (t.die e).step = (s.die e).step)
           ∧ (t.die d).band = (if 900 ≤ r then 2 else if 880 ≤ r then max 1 b else if 850 ≤ r then 1 else if 830 ≤ r then min 1 b else 0)
           ∧ (t.die d).step = (if 940 ≤ r then 3 else if 920 ≤ r then max 2 p else if 900 ≤ r then min 2 (max 1 p) else if 880 ≤ r then min 1 p else 0)
           ∧ (∀ a : Place, t.byteAt a = s.byteAt a)
           ∧ ((t.die d).band = b → (t.die d).step = p → t.log = s.log))

/-- A die resets and rejoins, and firmware restarts warm. Rests on R249, R280, R472, R473, R480, R481, R495, R424,
R428, R476, R477, R478. -/
def Obligations.DieResetAndWarmRestart : Prop :=
  ((∀ (d : DieId) (cause : Nat) (s : State), (s.die d).presence = .inService → s.power.st ≠ .off →
     (1 ≤ cause ∧ cause ≤ 5 ∧ (cause = 4 → s.validSensors d < 48) ∧ (cause = 5 → s.governs = true)) →
     (∀ p, (s.port p).egress = [] ∧ (s.port p).backlog = []) →
     ∃ t : State, exec (.dieReset d cause) s = .next t ∧ (cause = 2 → exec (.dieWatchdogExpiry d) s = .next t)
       ∧ (t.die d).presence = .resetting ∧ (t.die d).epoch = ((s.die d).epoch + 1) % 65536 ∧ (t.die d).boundary = (s.die d).ft + 1000
       ∧ (t.die d).resetAt = some s.mono ∧ (∀ x, t.getCtx d x = Ctx.reset) ∧ (t.die d).so = [] ∧ (t.die d).rel = [] ∧ (t.die d).dirty = []
       ∧ (t.source (srcOf d)).ops = [] ∧ (∀ off, t.byteAt ⟨d, false, off⟩ = s.byteAt ⟨d, false, off⟩)
       ∧ (∀ e, e ≠ d → (∀ sram off, t.byteAt ⟨e, sram, off⟩ = s.byteAt ⟨e, sram, off⟩) ∧ ∀ x, t.getCtx e x = s.getCtx e x)
       ∧ ((∃ m, (s.die d).resetAt = some m ∧ s.mono < m + 10000000000) ∨ cause = 4 → (t.die d).heldDown = true)
       ∧ (((s.die d).resetAt = none ∨ ∃ m, (s.die d).resetAt = some m ∧ m + 10000000000 ≤ s.mono) → cause ≠ 4 → (t.die d).heldDown = false))
   ∧ (∀ (d : DieId) (s : State), (s.die d).presence = .resetting → (s.die d).heldDown = false → ∃ u : State,
       exec (.dieRejoin d) s = .next (u.raise { code := 0x080D, unit := uDie d, detail := (s.die d).epoch })
       ∧ (u.die d).presence = .inService ∧ (u.die d).recs = [] ∧ (u.die d).results = [] ∧ (∀ x, u.getCtx d x = s.getCtx d x)
       ∧ (∀ a : Place, u.byteAt a = s.byteAt a) ∧ ∀ e, e ≠ d → u.die e = s.die e)
   ∧ (∀ s : State, s.gov.gen = 0 → s.gov.gens[(0 : Fin 2)] = true → s.power.st ≠ .off →
       (s.gov.gens[(1 : Fin 2)] = true → ∃ u : State, exec .clockGeneratorFailure s
           = .next ((u.raise { code := 0x080E, unit := uClock 0 }).raise { code := 0x080F, unit := uClock 0 })
         ∧ u = { s with gov := u.gov, pause := some s.mono,
                        wire := s.wire ++ (allPorts.filter fun p => (s.port p).trained).map fun p => .link p .pause }
         ∧ u.gov.gen = 1 ∧ u.gov.gens[(0 : Fin 2)] = false
         ∧ u.gov.spares = s.gov.spares ++ [(uClock 0, uClock 1, s.now)])
       ∧ (s.gov.gens[(1 : Fin 2)] = false → ∃ t : State, exec .clockGeneratorFailure s = .next t
         ∧ ∀ d, (t.die d).presence ≠ .inService ∧ (t.die d).heldDown = true))
   ∧ (∀ (err : Int) (s : State), s.pause ≠ none →
       (-5 ≤ err → err ≤ 5 → ∃ t : State, exec (.switchoverPauseEnd err) s = .next t
         ∧ t = { s with pause := none, time := { s.time with slew := s.time.slew + err }, dies := t.dies }
         ∧ ∀ d, t.die d = { s.die d with trace := (t.die d).trace })
       ∧ (err < -5 ∨ 5 < err → exec (.switchoverPauseEnd err) s = .next s))
   ∧ ∀ (d r : DieId) (f g : Nat) (fs : List (DieId × Nat)) (s : State), s.removedFolios = (d, f) :: fs → f < 2 → g < 2 →
       s.reserveFor d = some (2 * r.val + g) → (∀ k, (s.die r).quire = some k → s.quireStopped k = true) →
       ∃ (u : State) (e : Fin 4), exec .reserveFolioTipIn s = .next (u.raise { code := 0x081A, unit := uFolio r g, detail := uEngine d e })
         ∧ e.val / 2 = f ∧ (s.die d).mx[e].removed = true
         ∧ (∀ k b, (k, b) ∈ u.disabled ↔ ((k, b) ∈ s.disabled ∧ k ≠ 2 * r.val + g) ∨ (k = 2 * d.val + f ∧ b = false))
         ∧ u.gov.spares = s.gov.spares ++ [(uFolio d f, uFolio r g, s.now)] ∧ u.dies = s.dies)
  ∧ (let begins (s : State) (r : Result) (cause : Nat) (cmd : Option Nat) : Prop := ∃ t : State, r = .next t
       ∧ t.gov.warm = some { cause := cause, startAt := s.mono, freezeFt := s.now + 50000, cmd := cmd }
       ∧ t.frz = { s.frz with pending := insertFt (s.now + 50000) s.frz.pending } ∧ t.log = (s.govEvent 0x0813 cause).log
       ∧ (∀ d, (s.die d).intakeFrozen = false → (t.die d).leaseLimit = 250000000 ∧ (t.die d).renewedAt = s.mono)
       ∧ ∀ a : Place, t.byteAt a = s.byteAt a
     (∀ (cause seq : Nat) (s : State), cause ≠ 3 → s.flash.copy = none → s.governs = true →
       s.gov.warmWait.find? (fun w => w.1 == cause) = some (cause, seq) → begins s (exec (.firmwareWarmRestart cause) s) cause (some seq))
     ∧ (∀ (who : CtlId) (cause : Nat) (r : Result) (s : State),
         (cause = 3 ∧ who = s.holder ∧ r = exec (.firmwareWarmRestart 3) s) ∨ (cause = 4 ∧ r = exec (.controlWatchdogExpiry who) s) →
         s.ctlLost who = false → s.gov.warm = none → s.power.st ≠ .off → 2 ≤ s.boot.stage → s.boot.recovery = false →
         let recent := s.gov.ctl[who].restarts.filter fun t => decide (s.mono < t + 600000000000)
         (recent.length < 2 → begins s r cause none ∧ ∀ t, r = .next t → t.gov.ctl[who].restarts = recent ++ [s.mono])
         ∧ (2 ≤ recent.length → s.ctlLost (otherCtl who) = false → ∃ t : State, r = .next t ∧ t.gov.ctl[who].stopped = true
             ∧ t = { s with gov := t.gov } ∧ t.gov.warm = none)
         ∧ (2 ≤ recent.length → s.ctlLost (otherCtl who) = true → ∃ t : State, r = .next t ∧ t.gov.ctl[who].stopped = true
             ∧ t.log.recs = (s.govEvent 0x0814 0).log.recs ∧ t.frz = { s.frz with pending := insertFt s.now s.frz.pending }))
     ∧ ∀ (s : State) (w : Warm), s.gov.warm = some w → w.freezeFt ∉ s.frz.pending →
         (∀ c, s.frz.cut = some c → c.ft = w.freezeFt → c.rollback = false → c.reported = true) → ∃ t : State,
           exec .warmRestartThaw s = .next t ∧ t.gov.warm = none ∧ t.boot.image = s.flash.image ∧ t.can.transfer = none
           ∧ (∀ c, s.frz.cut = some c → c.ft = w.freezeFt → c.rollback = false → t.frz.cut = none)
           ∧ (s.frz.cut = none → t.frz = s.frz)
           ∧ ((∀ d, (s.die d).cutHold = [] ∧ (s.die d).inbound = []) → ∀ a : Place, t.byteAt a = s.byteAt a)
           ∧ (∀ seq x, w.cmd = some seq → (s.chan 0).cmd seq = some x → (∀ d, (s.die d).cutHold = [] ∧ (s.die d).inbound = []) →
               ∃ y, (t.chan 0).cmd seq = some y ∧ y.result = some (0, [])))

/-- The health score and the suggestion state, occupancy samples and windows, and their settings. Rests on R484, R485,
R486, R490, R491, R492, R50, R308. -/
def Obligations.HealthAndOccupancy : Prop :=
  (∀ (m : HealthObs) (s : State), s.power.st ≠ .off → s.boot.stage = 9 → ∃ t : State, exec (.healthScoreCompute m) s = .next t
    ∧ t.health.score ≤ 1000 ∧ (m.slack = 0 → t.health.score = 0) ∧ (m.spine ≤ 50 → t.health.score = 0) ∧ (s.worstMargin ≤ 0 → t.health.score = 0)
    ∧ (6000 ≤ m.logRate → t.health.score = 0) ∧ (s.gov.gens[(0 : Fin 2)] = false ∨ s.gov.gens[(1 : Fin 2)] = false → t.health.score = 0)
    ∧ (m.slack < 50 → t.health.score ≤ m.slack * 20)
    ∧ (t.health.score < s.setting 0x5100 2 → t.health.belowSince = some (s.health.belowSince.getD s.mono))
    ∧ (s.setting 0x5100 2 ≤ t.health.score → t.health.belowSince = none)
    ∧ (s.health.state = 0 → t.health.score < s.setting 0x5100 2 → t.health.state = 1
        ∧ t.log = (s.raise { code := 0x081B, unit := uModule, detail := t.health.score }).log)
    ∧ (s.health.state = 0 → s.setting 0x5100 2 ≤ t.health.score → t.health.state = 0 ∧ t.log = s.log)
    ∧ (∀ a : Place, t.byteAt a = s.byteAt a))
  ∧ (∀ (s : State) (m : Nat), s.health.state = 1 → s.health.belowSince = some m → m + s.setting 0x5100 3 * 60000000000 ≤ s.mono →
      exec .retireDwellExpiry s = .next (State.raise { s with health := { s.health with state := 2 } }
        { code := 0x081C, unit := uModule, detail := s.health.score }))
  ∧ (∀ s : State, s.health.state = 2 → exec .watchRecordReceive s
      = .next { s with health := { s.health with state := 1, belowSince := s.health.belowSince.map fun _ => s.mono } })
  ∧ (∀ (m : List OccObs) (s : State), s.power.st ≠ .off → 0 < s.occ.period → s.now % s.occ.period = 0 → s.occ.sampledAt ≠ some s.now →
      s.calm 3 = true →
      SMap.sorted s.occ.bins 0 = true → ∃ t : State, exec (.occupancySample m) s = .next t
        ∧ t = { s with occ := { s.occ with bins := t.occ.bins, stalls := t.occ.stalls, samples := s.occ.samples + 1, sampledAt := some s.now } }
        ∧ ∀ (d : DieId) (h : Nat), h < histCount →
          let bin (u : State) (b : Nat) : Nat := SMap.get 0 u.occ.bins (1024 * d.val + 8 * h + b)
          (s.histLive d h = true → ∃ b, b < 8 ∧ bin t b = bin s b + 1 ∧ ∀ c, c < 8 → c ≠ b → bin t c = bin s c)
          ∧ (s.histLive d h = false → ∀ c, c < 8 → bin t c = bin s c))
  ∧ (∀ s : State, s.power.st ≠ .off → 0 < s.occ.window → s.now % s.occ.window = 0 → s.occ.start ≠ s.now → ∃ t : State,
      exec .occupancyWindowClose s = .next t ∧ t = { s with occ := { s.occ with start := s.now, samples := 0, bins := [], stalls := [], last := t.occ.last } }
      ∧ ∀ d : DieId, t.occ.last[d].start = s.occ.start ∧ t.occ.last[d].stop = s.now ∧ t.occ.last[d].period = s.occ.period
        ∧ t.occ.last[d].samples = s.occ.samples
        ∧ ∀ k n, (k, n) ∈ t.occ.last[d].bins ↔ k < 1024 ∧ (1024 * d.val + k, n) ∈ s.occ.bins)
  ∧ ∀ (seq : Nat) (s : State) (x : HostCmd), s.firmwareReady seq 0x20 x →
      let k := bits (x.qw 2) 63 60
      let p := bits (x.qw 3) 31 0
      let w := x.qw 4
      let good := 100 ≤ p ∧ p ≤ 1000000 ∧ p % 100 = 0 ∧ w ≠ 0 ∧ w % p = 0 ∧ w / p ≤ 65535
      (k ≠ 1 → k ≠ 2 → exec (.obsSet seq) s = .next (s.finish 0 seq 0x02 []))
      ∧ (k = 1 → ¬ good → exec (.obsSet seq) s = .next (s.finish 0 seq 0x02 []))
      ∧ (k = 1 → good → exec (.obsSet seq) s = .next (State.finish { s with
          occ := { s.occ with period := p, window := w, start := s.now, samples := 0, bins := [], stalls := [] } } 0 seq 0 []))
      ∧ (k = 2 → bit (x.qw 3) 0 = false → exec (.obsSet seq) s = .next (s.finish 0 seq 0x02 []))
      ∧ (k = 2 → bit (x.qw 3) 0 = true → ∃ u : State, exec (.obsSet seq) s = .next (u.finish 0 seq 0 []) ∧ u = { s with dies := u.dies }
          ∧ (∀ a : Place, a.sram = true ∨ s.traceOn a.die = false ∨ a.off < s.traceBase a.die ∨ s.traceBase a.die + 208 ≤ a.off →
              u.byteAt a = s.byteAt a)
          ∧ ∀ d : DieId, (u.die d).trace.on = bit (x.qw 2) d.val
            ∧ (u.die d).trace.classes = bits (x.qw 3) 3 0 ∧ (u.die d).trace.mode = bits (x.qw 3) 4 4
            ∧ (u.die d).trace.units = bits (x.qw 4) 23 0 ∧ ∀ r : Fin 4, (u.die d).trace.ribbons[r].st = (s.die d).trace.ribbons[r].st)

/-- Time records, the drain of a die's trace buffer, and a ribbon armed, fired, spread, frozen and cleared. Rests on
R490, R493, R494, R495, R497, R498. -/
def Obligations.TraceAndRibbons : Prop :=
  (∀ (d : DieId) (s : State),
    ((s.die d).ft % 2 ^ 30 = 0 → exec (.traceTimeRecord d) s = .next
      (s.emit d 0x01 0 23 0 ((s.die d).ft / 2 ^ 40 % 2 ^ 24 * 2 ^ 16 + (s.die d).cycles / 2 ^ 32 % 2 ^ 16)))
    ∧ ((s.die d).ft % 2 ^ 30 ≠ 0 → exec (.traceTimeRecord d) s = .next s)
    ∧ (∀ (n : Nat) (r : Result), s.traceOn d = true → 4 ≤ s.traceCapacity → (s.die d).trace.mode = 0 →
        (r = exec (.traceDrain d) s ∧ 4 ≤ (s.die d).trace.buf.length ∧ n = 4)
          ∨ (r = exec (.traceGroupTimeout d) s ∧ 0 < (s.die d).trace.buf.length ∧ (s.die d).trace.buf.length < 4
            ∧ n = (s.die d).trace.buf.length) →
        ∃ t : State, r = .next t ∧ (t.die d).trace.buf = (s.die d).trace.buf.drop n
          ∧ (t.die d).trace.written = (s.die d).trace.written + 4 ∧ (∀ e, e ≠ d → t.die e = s.die e) ∧ t = { s with dies := t.dies }
          ∧ (∀ off, t.byteAt ⟨d, true, off⟩ = s.byteAt ⟨d, true, off⟩)))
  ∧ (∀ (seq : Nat) (d : DieId) (s : State) (x : HostCmd), bits (x.qw 2) 52 48 = d.val → (s.die d).quire ≠ none →
      (s.die d).presence = .inService →
      (s.firmwareReady seq 0x21 x → ∀ r : Fin 4, bits (x.qw 2) 47 46 = r.val →
        let kind := bits (x.qw 2) 45 42
        let post := bits (x.qw 4) 23 0
        (kind = 0 ∨ 6 < kind → exec (.ribbonArm seq) s = .next (s.finish 0 seq 0x02 []))
        ∧ (1 ≤ kind → kind ≤ 6 → (kind = 5 → bits (x.qw 3) 1 0 ≠ 0) → s.traceOn d = true → (s.die d).trace.on = true →
            2 * post ≤ s.traceCapacity →
            ((s.ribbon d r).st ≠ .idle → exec (.ribbonArm seq) s = .next (s.finish 0 seq 0x0C []))
            ∧ ((s.ribbon d r).st = .idle → ∃ u : State, exec (.ribbonArm seq) s = .next (u.finish 0 seq 0 [])
                ∧ u.ribbon d r = { st := .armed, kind := kind, spread := bit (x.qw 2) 41, post := post, value := x.qw 3, fireFt := 0,
                                   index := 0, left := post }
                ∧ (∀ k, k ≠ r → u.ribbon d k = s.ribbon d k) ∧ ∀ e, e ≠ d → u.die e = s.die e)))
      ∧ (s.firmwareReady seq 0x22 x → ∃ u : State, exec (.ribbonClear seq) s = .next (u.finish 0 seq 0 [])
          ∧ (∀ r : Fin 4, bit (x.qw 2) r.val = true → (u.ribbon d r).st = .idle)
          ∧ (∀ r : Fin 4, bit (x.qw 2) r.val = false → (u.ribbon d r).st = (s.ribbon d r).st)
          ∧ ((s.die d).trace.frozen = true → ((u.die d).trace.frozen = true ↔ ∃ r : Fin 4, (u.ribbon d r).st = .frozen))))
  ∧ (∀ (d : DieId) (r : Fin 4) (g : Trigger) (s : State) (w : Result), (s.ribbon d r).st = .armed → (s.die d).presence = .inService →
      (w = exec (.ribbonFire d r g) s ∧ s.matches_ d (s.ribbon d r) g = true) ∨ w = exec (.ribbonSpreadArrival d r) s →
      ∃ (t u : State), w = .next t ∧ (t.ribbon d r).st = .fired ∧ (t.ribbon d r).fireFt = (s.die d).ft
        ∧ t.log = (u.raise { code := 0x0820, unit := uDie d, detail := r.val }).log ∧ u.log = s.log
        ∧ (∀ k, (s.die d).quire = some k → (s.ribbon d r).spread = true → ∀ e ∈ s.diesOf k, e ≠ d → .spread e r.val ∈ t.wire)
        ∧ ∀ k, k ≠ r → (t.ribbon d k).kind = (s.ribbon d k).kind ∧ (t.ribbon d k).value = (s.ribbon d k).value)
  ∧ ∀ (d : DieId) (s : State), (s.die d).trace.frozen = false → (s.die d).trace.reached = true → ∃ u : State,
      exec (.traceFreeze d) s = .next (u.raise { code := 0x0821, unit := uDie d, detail := (u.die d).trace.written })
      ∧ (u.die d).trace.frozen = true ∧ (∀ e, e ≠ d → u.die e = s.die e)
      ∧ ∀ r : Fin 4, (u.ribbon d r).st = (if (s.ribbon d r).st = .fired ∧ (s.ribbon d r).left = 0 then .frozen else (s.ribbon d r).st)

/-- Named dumps, OBS READ, and the post-mortem image. Rests on R490, R499, R500, R501, R502, R503. -/
def Obligations.DumpsReadsAndPostMortem : Prop :=
  (∀ (seq : Nat) (d : DieId) (s : State) (x : HostCmd), bits (x.qw 2) 52 48 = d.val → (s.die d).quire ≠ none →
    (s.die d).presence = .inService →
    (s.firmwareReady seq 0x23 x → ∀ k : Fin 16, bits (x.qw 2) 47 44 = k.val →
      let tag := bits (x.qw 3) 31 0
      let space := bits (x.qw 4) 47 44
      let off := bits (x.qw 4) 43 0
      let len := x.qw 5
      let sets (e : Option DumpEntry) : Prop := ∃ u : State, exec (.dumpSelect seq) s = .next (u.finish 0 seq 0 [])
        ∧ (u.die d).trace.dumps[k] = e ∧ (∀ j : Fin 16, j ≠ k → (u.die d).trace.dumps[j] = (s.die d).trace.dumps[j])
        ∧ (∀ e, e ≠ d → u.die e = s.die e) ∧ (∀ a : Place, u.byteAt a = s.byteAt a)
      (tag = 0 ∨ 1 < space ∨ off % 64 ≠ 0 ∨ len % 64 ≠ 0 → exec (.dumpSelect seq) s = .next (s.finish 0 seq 0x02 []))
      ∧ (tag ≠ 0 → space ≤ 1 → off % 64 = 0 → len % 64 = 0 →
          let size := if space = 1 then sramSize else s.localSize d
          (bit (x.qw 2) 43 = false → sets none)
          ∧ (bit (x.qw 2) 43 = true → size < off + len → exec (.dumpSelect seq) s = .next (s.finish 0 seq 0x10 []))
          ∧ (bit (x.qw 2) 43 = true → off + len ≤ size → sets (some
              { tag := tag, step := bits (x.qw 3) 63 32, sram := decide (space = 1), off := off, len := len, count := 0, due := none }))))
    ∧ (s.firmwareReady seq 0x24 x → bits (x.qw 2) 63 60 = 1 ∨ bits (x.qw 2) 63 60 = 2 → x.qw 3 % 4 = 0 → bits (x.qw 4) 47 0 % 4 = 0 →
        let k := bits (x.qw 2) 63 60
        let len := bits (x.qw 4) 47 0
        let size := s.setting (if k = 1 then 0x6010 else 0x6020) 1 * mib
        (size = 0 ∨ size < x.qw 3 + len → exec (.obsRead seq) s = .next (s.finish 0 seq 0x10 []))
        ∧ (0 < size → x.qw 3 + len ≤ size → (s.die d).channels ≠ 0 → (s.die d).badDram = [] → (s.die d).latent = [] → x.bulk = [] → x.ops = [] → x.off = 0 →
            x.status = 0 → ∃ (t : State) (y : HostCmd), exec (.obsRead seq) s = .next t ∧ (t.chan 0).cmd seq = some y ∧ y.started = true
              ∧ (len = 0 → y.result = some (0, [])) ∧ (len ≠ 0 → y.result = none)
              ∧ (y.data.flatMap (·.2)) = slice ((s.die d).mem false) ((s.region d (k + 2)).1 + x.qw 3) len
              ∧ t.pm = (if k = 2 ∧ bit (x.qw 2) 47 = true ∧ s.pm.any (·.writing) = false then none else s.pm) ∧ t.dies = s.dies)))
  ∧ (∀ (q : QueueId) (k : Fin 16) (e : DumpEntry) (p : Pos) (s : State), (s.die q.die).trace.dumps[k] = some e → e.due = some (q, p) →
      s.frozenDie q.die = false → s.running = true → (s.queue q).status ≠ 0 → (s.queue q).haltPos = some p →
      ∃ t : State, exec (.tensorDump q k) s = .next t ∧ (t.die q.die).trace.dumps[k] = none ∧ (∀ r, t.queue r = s.queue r)
        ∧ (e.len = 0 → ∀ a : Place, t.byteAt a = s.byteAt a)
        ∧ (e.sram = true → ∀ a : Place, a.die ≠ q.die ∨ a.sram = false → t.byteAt a = s.byteAt a))
  ∧ (∀ (seq : Nat) (s : State) (x : HostCmd), s.firmwareReady seq 0x25 x → s.pm = none → ∃ t : State,
      exec (.postMortem (.command seq)) s = .next t
      ∧ t.pm = some { cause := none, ft := s.now, later := 0, writing := true, cmd := some seq }
      ∧ (s.frz.cut = none → s.now ∈ t.frz.pending) ∧ t.dies = s.dies)
  ∧ (∀ (seq : Nat) (s : State) (x : HostCmd) (p : PostMortem), s.firmwareReady seq 0x25 x → s.pm = some p → p.writing = false →
      ∃ (u : State) (st : Nat), st ∈ statusCodes ∧ exec (.postMortem (.command seq)) s = .next (u.finish 0 seq st [])
        ∧ u = { s with free := u.free })
  ∧ (∀ (code : Nat) (s : State) (e : Event), code = 0x0812 ∨ code = 0x0814 →
      s.log.recs.reverse.find? (fun e => e.code == code && !e.old) = some e →
      (s.pm = none → ∃ t : State, exec (.postMortem (.fatal code)) s = .next t
        ∧ t.pm = some { cause := some e, ft := s.now, later := 0, writing := true, cmd := none } ∧ (s.frz.cut = none → s.now ∈ t.frz.pending))
      ∧ (∀ p, s.pm = some p → exec (.postMortem (.fatal code)) s = .next { s with pm := some { p with later := p.later + 1 } }))
  ∧ ∀ (s : State) (p : PostMortem) (c : Cut), s.pm = some p → s.frz.cut = some c → p.writing = true → c.reported = true →
      ∃ t : State, exec .postMortemImageWritten s = .next t ∧ t.pm = some { p with writing := false }
        ∧ ((∀ d, (s.die d).cutHold = [] ∧ (s.die d).inbound = []) → t.log = (s.govEvent 0x081E ((p.cause.map (·.code)).getD 0)).log)
        ∧ (p.cmd = none → t.frz = s.frz)
        ∧ (∀ seq x, p.cmd = some seq → (∀ d, (s.die d).cutHold = [] ∧ (s.die d).inbound = []) → (s.chan 0).cmd seq = some x →
            ∃ y, (t.chan 0).cmd seq = some y ∧ y.result = some (0, []))

/-- The test access port's instructions, die select and access, and the test unlock. Rests on R489, R504, R505, R506,
notes/assumptions/5.md, notes/assumptions/9.md, notes/assumptions/159.md. -/
def Obligations.TheTestAccessPort : Prop :=
  (∀ s : State, s.power.supply ≠ .absent →
    let x := s.tap
    let goes (i : Instr) (y : TapSt) : Prop := exec i s = .next { s with tap := y }
    let contacts (pins : TapPins) (c : Nat) : Prop := ∀ k, k < 12 → bit c k = (if k = 1 ∨ k = 2 then bit x.boundary k else bit pins.levels k)
    goes .tapReset { x with ir := 0x03, bypass := false, chain := none }
    ∧ (∀ pins : TapPins, ∃ c, contacts pins c
        ∧ goes (.extest pins) { x with ir := 0x00, captured := c, boundary := pins.shiftIn % 4096, chain := none }
        ∧ goes (.samplePreload pins) { x with ir := 0x02, captured := c, boundary := pins.shiftIn % 4096, chain := none })
    ∧ (∃ c, goes .idcode { x with ir := 0x03, captured := c, chain := none } ∧ bits c 31 28 = s.vendor.revision % 16
        ∧ bits c 27 12 = 0x2080 ∧ bits c 11 1 = 0x1D9 ∧ bit c 0 = true ∧ c < 2 ^ 32)
    ∧ goes .clamp { x with ir := 0x04, bypass := false, chain := none }
    ∧ goes .highz { x with ir := 0x05, bypass := false, chain := none }
    ∧ (∀ op tdi : Nat, op < 256 → op ∉ [0x00, 0x02, 0x03, 0x04, 0x05, 0x10, 0x11, 0x12] →
        goes (.bypass op tdi) { x with ir := op, bypass := decide (tdi % 2 = 1), chain := none })
    ∧ (∀ mask : Word, ∃ m : Word, goes (.dieSelect mask) { x with ir := 0x10, select := m, chain := none }
        ∧ ∀ k, k < 64 → m.getLsbD k = (mask.getLsbD k && decide (k < 51)))
    ∧ (∀ held : List Nat, ∃ c, goes (.dieAccess held) { x with ir := 0x11, bypass := false, chain := c }
        ∧ (s.sec.unlocked = false ∨ (s.power.st ≠ .run ∧ s.power.st ≠ .idle) → c = none)
        ∧ (s.sec.unlocked = true → s.power.st = .run ∨ s.power.st = .idle → ∃ ks, c = some ks
          ∧ (∀ k, k ∈ ks → k < 51 ∧ x.select.getLsbD k = true ∧ k ∉ held)
          ∧ (∀ k, k < 51 → x.select.getLsbD k = true → k ∉ held → (k < 2 ∨ 42 ≤ k) → k ∈ ks)
          ∧ ∀ d : DieId,
            (x.select.getLsbD (2 + d.val) = true → 2 + d.val ∉ held → (2 + d.val ∈ ks ↔ (s.die d).presence ≠ .resetting))
            ∧ (x.select.getLsbD (22 + d.val) = true → 22 + d.val ∉ held → (22 + d.val ∈ ks ↔ (s.die d).presence ≠ .resetting)))))
  ∧ (∀ s : State, s.canOn = false ↔ s.tap.ir = 0x00 ∨ s.tap.ir = 0x04 ∨ s.tap.ir = 0x05)
  ∧ (∀ s : State, s.power.supply ≠ .absent → s.power.st ≠ .off → 2 ≤ s.boot.stage → s.ctlLost s.holder = false →
      (∃ (t : State) (c : List Byte), exec (.testUnlock .capture) s = .next t ∧ c.length = 32
        ∧ t = { s with tap := { s.tap with ir := 0x12, chain := none }, sec := { s.sec with challenge := some c }, free := t.free })
      ∧ ∀ (r v c : List Byte), s.sec.challenge = some c → ∃ u : State,
          let ok := sm2Verify s.rom.unlockId s.vendor.vendorKey (c ++ s.vendor.serial) r v
          u = { s with tap := { s.tap with ir := 0x12, chain := none },
                       sec := { s.sec with challenge := none, unlocked := ok || s.sec.unlocked },
                       flash := { s.flash with unlocks := s.flash.unlocks + if ok then 1 else 0 } }
          ∧ exec (.testUnlock (.update r v)) s = .next (u.govEvent (if ok then 0x0907 else 0x0908) 0))
  ∧ ∀ (pins : TapPins) (op tdi : Nat) (mask : Word) (held : List Nat) (ph : UnlockPhase) (s : State), s.power.supply = .absent →
      ∀ i ∈ ([.tapReset, .extest pins, .samplePreload pins, .idcode, .clamp, .highz, .bypass op tdi, .dieSelect mask, .dieAccess held,
              .testUnlock ph] : List Instr), exec i s = .next s

/-- The state at reset: every die in Q0, memory zero, contexts and channels empty, settings at their defaults,
canonical. Rests on R36, R172, R229, R372, R375, R397, R491, notes/assumptions/1.md, notes/assumptions/6.md. -/
def Obligations.ResetLeavesTheStatedDefaults : Prop :=
  (∀ d, (State.reset.die d).quire = some 0) ∧ (∀ a : Place, State.reset.byteAt a = 0) ∧ (∀ d o, (State.reset.die d).obj o = 0)
  ∧ (∀ d x, (State.reset.getCtx d x).state = .empty) ∧ (∀ c, (State.reset.chan c).state = .closed) ∧ State.reset.dict = []
  ∧ State.reset.setting 0x1400 2 = 18080 ∧ State.reset.occ.period = 1000 ∧ State.reset.occ.window = 1000000
  ∧ (∀ d, (State.reset.die d).trace.classes = 3 ∧ (State.reset.die d).trace.units = 0xFFFFFF ∧ (State.reset.die d).trace.on = true)
  ∧ State.reset.boot.stage = 1 ∧ State.reset.pending = [] ∧ State.reset.log.recs = [] ∧ State.reset.frz.cut = none
  ∧ State.reset.canonical

/-- Every step keeps memory, objects and the stores in their canonical form: no key twice, in order, no default
listed. Rests on R82, R230, R251, R397, opcode_table.json. -/
def Obligations.EveryStepKeepsTheCanonicalForm : Prop :=
  ∀ s t : State, s.canonical → step s = .next t → t.canonical

/-- Bytes written to a local extent, window extents included, are read back, and every byte outside it is as before.
Rests on R226, R230, R235, R236, R251, R252, R253. -/
def Obligations.LocalMemoryReadsBack : Prop :=
  (∀ (s : State) (d : DieId) (sram : Bool) (off : Nat) (bs : List Byte), s.canonical →
    s.localOk d sram off bs.length = true → badRuns s (s.localRuns d sram off bs.length) = none →
    (∀ r ∈ s.localRuns d sram off bs.length, s.reaches d r.1.die = true) →
    ∃ t u : State, s.writeLocal d sram off bs = (t, 0) ∧ t.readLocal d sram off bs.length = (u, 0, bs)
      ∧ (∀ a : Place, u.byteAt a = t.byteAt a)
      ∧ (∀ a : Place, (∀ r ∈ s.localRuns d sram off bs.length,
            a.die ≠ r.1.die ∨ a.sram ≠ r.1.sram ∨ a.off < r.1.off ∨ r.1.off + r.2 ≤ a.off) → t.byteAt a = s.byteAt a)
      ∧ (∀ e o, (t.die e).obj o = (s.die e).obj o) ∧ (∀ q, t.queue q = s.queue q) ∧ t = { s with dies := t.dies })
  ∧ (∀ (s : State) (d : DieId) (sram : Bool) (off n : Nat) (bs : List Byte),
      (s.localOk d sram off bs.length = false → s.writeLocal d sram off bs = (s, 0x10))
      ∧ (s.localOk d sram off n = false → s.readLocal d sram off n = (s, 0x10, []))
      ∧ (s.localOk d sram off n = true → ∀ e, s.lostRun d (s.localRuns d sram off n) = some e → s.reaches d e = false
          ∧ s.readLocal d sram off n = (s.unreachable d e, 0x20, [])
          ∧ (bs.length = n → s.writeLocal d sram off bs = (s.unreachable d e, 0x20)))
      ∧ (s.localOk d sram off n = true → s.lostRun d (s.localRuns d sram off n) = none →
          badRuns s (s.localRuns d sram off n) ≠ none →
          ∃ t : State, s.readLocal d sram off n = (t, 0x12, []) ∧ ∀ a : Place, t.byteAt a = s.byteAt a))

/-- Stack offsets map one-to-one to channels, and window bytes to dies, by the formulas of R233 and R235. Rests on
R233, R235. -/
def Obligations.PlacementFollowsTheFormulas : Prop :=
  let fold (row : Nat) : Nat := (row % 64) ^^^ (row / 64 % 64) ^^^ (row / 4096 % 64) ^^^ (row / 262144 % 64)
  (∀ (x : Die), let c := x.channels
    0 < c → x.served.Nodup →
    (∀ off, let g := off / 4096
      x.localChannel off = x.served[(g % c + fold (g / c)) % c]? ∧ x.localChannel off ≠ none)
    ∧ (∀ a b, x.localChannel a = x.localChannel b → a / 4096 / c = b / 4096 / c → a % 4096 = b % 4096 → a = b)
    ∧ (∀ row ch, ch ∈ x.served → ∃ k, k < c ∧ x.localChannel (4096 * (row * c + k)) = some ch
        ∧ ∀ j, j < c → x.localChannel (4096 * (row * c + j)) = some ch → j = k)
    ∧ (∀ off, off < x.capacity → off / 4096 / c ≤ 327679))
  ∧ (∀ (s : State) (q : Fin 4) (x : Nat), x < s.windowSize q →
      let ds := s.windowDies q
      let n := ds.length
      let g := x / 4096
      let row := g / n
      ∃ d, ds[(g % n + fold row) % n]? = some d ∧ s.spreadPlace q x = some (d, s.spreadBase d + row * 4096 + x % 4096)
        ∧ (s.die d).quire = some q ∧ (∃ ch, (s.die d).localChannel (s.spreadBase d + row * 4096 + x % 4096) = some ch)
        ∧ ∀ y, y / 4096 = x / 4096 → (s.spreadPlace q y).map (·.1) = some d)
  ∧ ∀ (s : State) (d : DieId) (off ch : Nat), (s.die d).localChannel off = some ch → ∃ u : State,
      let c : Cause := { code := 0x0304, unit := uChannel d ch, detail := off }
      s.memError ⟨d, false, off⟩ = (if s.regionOf d off ∈ [some 0, some 3, some 4] then u.record c else u.raise c)

/-- Raising an event: a new record, a merged one, a full log, its paths, the interval it invalidates, and what it
leaves. Rests on R453, R455, R456, R457, R459. -/
def Obligations.EventsAreRecordedMergedAndSent : Prop :=
  ∀ (s : State) (c : Cause), let t := s.raise c
    let like (e : Event) : Prop := e.code = c.code ∧ e.unit = c.unit ∧ e.ctx = c.ctx ∧ e.stream = c.stream
    let fresh := ∀ e ∈ s.log.recs, like e → e.born + 1000000 ≤ s.mono
    (∀ a : Place, t.byteAt a = s.byteAt a) ∧ (∀ d o, (t.die d).obj o = (s.die d).obj o) ∧ (∀ q, t.queue q = s.queue q)
    ∧ (s.log.recs.length ≤ 8192 → t.log.recs.length ≤ 8192)
    ∧ (severity c.code ≠ 2 →
        (∀ es e, s.log.recs = es ++ [e] → like e → s.mono < e.born + 1000000 →
          t.log = { s.log with recs := es ++ [{ e with rep := min (e.rep + 1) 0xFFFF }] } ∧ t.wire = s.wire)
        ∧ (fresh → ∃ e : Event, like e ∧ e.sev = severity c.code ∧ e.ft = s.now ∧ e.rep = 0 ∧ e.seq = s.log.nextSeq ∧ e.old = false
            ∧ e.detail = c.detail % 2 ^ 64 ∧ t.log.nextSeq = (s.log.nextSeq + 1) % 2 ^ 32
            ∧ (s.log.recs.length < 8192 → t.log.recs = s.log.recs ++ [e] ∧ t.log.lost = s.log.lost)
            ∧ (s.log.recs.length = 8192 → (∀ r ∈ s.log.recs, 3 ≤ r.sev) → t.log.recs = s.log.recs ∧ t.log.lost = s.log.lost + 1)
            ∧ (∀ xs r ys, s.log.recs.length = 8192 → s.log.recs = xs ++ r :: ys → r.sev < 3 → (∀ y ∈ xs, r.sev < y.sev) →
                (∀ y ∈ ys, r.sev ≤ y.sev) → t.log.recs = xs ++ ys ++ [e] ∧ t.log.lost = s.log.lost)
            ∧ (e.sev = 0 → t.wire = s.wire)
            ∧ (e.sev ≠ 0 → t.wire = s.wire
                ++ (if s.governs = true ∧ s.can.nodeId ≠ 0 ∧ s.canOn = true ∧ (s.log.canTimes.filter fun m => decide (s.mono < m + 1000000000)).length < 100
                    then [.can (0x080 + s.can.nodeId) e.bytes] else [])
                ++ (if s.governs = true ∧ s.manager ≠ 0xFFFF ∧ s.ctlPath s.holder = true then [.event s.manager e] else []))))
    ∧ (severity c.code = 2 → c.code ≠ 0x0815 → ∀ k, s.unitQuire c.unit = some k → (t.quire k).invalid = true
        ∧ ((s.quire k).invalid = true → t.log = (s.record c).log ∧ t.wire = (s.record c).wire)
        ∧ ∀ j, j ≠ k → t.quire j = s.quire j)

/-- Every event code has the severity the table gives it, 0 where it gives none, and its record carries it. Rests on
R455. -/
def Obligations.EventCodesHaveFixedSeverities : Prop :=
  (∀ code : Nat,
    let three := code = 0x030A ∨ code = 0x0708 ∨ code = 0x0812 ∨ code = 0x0814
    let two := code = 0x0101 ∨ code = 0x0103 ∨ code = 0x0202 ∨ code = 0x0304 ∨ code = 0x0305 ∨ code = 0x0442 ∨ code = 0x0462
      ∨ code = 0x0463 ∨ code = 0x0806 ∨ code = 0x080C ∨ code = 0x0815
    let one := code = 0x0104 ∨ code = 0x0105 ∨ code = 0x0106 ∨ code = 0x0303 ∨ code = 0x0307 ∨ code = 0x0309 ∨ code = 0x0402
      ∨ code = 0x0407 ∨ code = 0x0441 ∨ code = 0x0443 ∨ code = 0x0464 ∨ code = 0x0483 ∨ code = 0x0484 ∨ code = 0x0485
      ∨ code = 0x0486 ∨ code = 0x0502 ∨ code = 0x0507 ∨ code = 0x050B ∨ code = 0x050D ∨ code = 0x050E ∨ code = 0x0603
      ∨ code = 0x0605 ∨ code = 0x0608 ∨ code = 0x060B ∨ code = 0x060C ∨ code = 0x0703 ∨ code = 0x0709 ∨ code = 0x070B
      ∨ code = 0x0805 ∨ code = 0x080B ∨ code = 0x080F ∨ code = 0x0811 ∨ code = 0x0817 ∨ code = 0x0819 ∨ code = 0x081B
      ∨ code = 0x081C ∨ code = 0x081D ∨ code = 0x0903 ∨ code = 0x0904 ∨ code = 0x0905 ∨ code = 0x0A06
    (three → severity code = 3) ∧ (two → severity code = 2) ∧ (one → severity code = 1)
    ∧ (¬ three → ¬ two → ¬ one → severity code = 0))
  ∧ ∀ (s : State) (c : Cause), s.log.recs = [] → (s.record c).log.recs.map (·.sev) = [severity c.code]

/-- A failing access over CAN FD is answered with the abort code that the table gives its completion status. Rests on
R404. -/
def Obligations.CanAbortCodesFollowTheStatus : Prop :=
  ∀ (s : State) (r : DictReq) (status : Nat) (data : List Byte), status ≠ 0 → s.can.nodeId ≠ 0 → s.canOn = true →
    let code :=
      if status = 0x50 then 0x06020000 else if status = 0x51 then 0x06090011
      else if status = 0x52 then (if r.write = true then 0x06010002 else 0x06010001)
      else if status = 0x53 then 0x06070010 else if status = 0x01 ∨ status = 0x02 then 0x06090030
      else if status = 0x03 then 0x08000024 else if status = 0x05 ∨ status = 0x06 then 0x08000022
      else if status = 0x12 then 0x06060000 else 0x08000000
    ∃ bs : List Byte, (s.respond .can r status data).wire = s.wire ++ [.can (0x580 + s.can.nodeId) bs]
      ∧ bs.take 9 = leBytes 1 0x80 ++ leBytes 2 r.idx ++ leBytes 1 r.sub ++ leBytes 4 code ++ leBytes 1 status
end

