-- ==== Sys2Proof/Laws/SMap.lean ====
section
/-! SUPPORT. The sparse map: what a write reads back as, and that every operation keeps the canonical form. -/

namespace Sys2Proof.SMap

variable {α : Type}

theorem sorted_mono (m : SMap α) {lo hi : Nat} (h : sorted m hi = true) (l : lo ≤ hi) : sorted m lo = true := by
  cases m with
  | nil => rfl
  | cons c m => simp only [sorted, Bool.and_eq_true, decide_eq_true_eq] at h ⊢; exact ⟨by omega, h.2⟩

theorem get_below (dflt : α) (m : SMap α) {lo a : Nat} (h : sorted m lo = true) (l : a < lo) : get dflt m a = dflt := by
  induction m generalizing lo with
  | nil => rfl
  | cons c m ih =>
    simp only [sorted, Bool.and_eq_true, decide_eq_true_eq] at h
    simp only [get, if_neg (show a ≠ c.1 by omega)]
    exact ih h.2 (by omega)

theorem get_erase (dflt : α) (m : SMap α) (a b : Nat) (h : sorted m 0 = true) :
    get dflt (m.erase a) b = if b = a then dflt else get dflt m b := by
  suffices H : ∀ lo, sorted m lo = true → get dflt (m.erase a) b = if b = a then dflt else get dflt m b from H 0 h
  clear h
  induction m with
  | nil => intro lo _; simp [erase, get]
  | cons c m ih =>
    intro lo h
    simp only [sorted, Bool.and_eq_true, decide_eq_true_eq] at h
    by_cases e : a = c.1
    · simp only [erase, if_pos e, get]
      split
      · next hb => rw [hb, e]; exact get_below dflt m h.2 (by omega)
      · next hb => rw [if_neg (by omega)]
    · simp only [erase, if_neg e, get]
      rw [ih _ h.2]
      by_cases hb : b = c.1
      · simp [hb, Ne.symm e]
      · simp [hb]

theorem get_put (dflt : α) (m : SMap α) (a b : Nat) (x : α) :
    get dflt (m.put a x) b = if b = a then x else get dflt m b := by
  induction m with
  | nil => simp [put, get]
  | cons c m ih =>
    simp only [put]
    split
    · simp [get]
    · split
      · next e => subst e; simp only [get]; split <;> simp_all
      · next e => simp only [get, ih]; split <;> split <;> simp_all

/-- A read after a write gives the value written, and every other key keeps its value. -/
theorem get_set [DecidableEq α] (dflt : α) (m : SMap α) (a b : Nat) (x : α) (h : sorted m 0 = true) :
    get dflt (set dflt m a x) b = if b = a then x else get dflt m b := by
  unfold set
  split
  · next e => rw [get_erase dflt m a b h, e]
  · exact get_put dflt m a b x

theorem sorted_erase (m : SMap α) (a lo : Nat) (h : sorted m lo = true) : sorted (m.erase a) lo = true := by
  induction m generalizing lo with
  | nil => rfl
  | cons c m ih =>
    simp only [sorted, Bool.and_eq_true, decide_eq_true_eq] at h
    simp only [erase]
    split
    · exact sorted_mono m h.2 (by omega)
    · simp [sorted, h.1, ih _ h.2]

theorem sorted_put (m : SMap α) (a lo : Nat) (x : α) (h : sorted m lo = true) (l : lo ≤ a) : sorted (m.put a x) lo = true := by
  induction m generalizing lo with
  | nil => simp [put, sorted, l]
  | cons c m ih =>
    simp only [sorted, Bool.and_eq_true, decide_eq_true_eq] at h
    simp only [put]
    split
    · next e => simp only [sorted, Bool.and_eq_true, decide_eq_true_eq]; exact ⟨l, by omega, h.2⟩
    · split
      · next e => subst e; simp [sorted, l, h.2]
      · simp only [sorted, Bool.and_eq_true, decide_eq_true_eq]; exact ⟨h.1, ih _ h.2 (by omega)⟩

theorem sorted_set [DecidableEq α] (dflt : α) (m : SMap α) (a : Nat) (x : α) (h : sorted m 0 = true) :
    sorted (set dflt m a x) 0 = true := by
  unfold set; split
  · exact sorted_erase m a 0 h
  · exact sorted_put m a 0 x h (by omega)

theorem mem_erase (m : SMap α) (a : Nat) (c : Nat × α) (h : c ∈ m.erase a) : c ∈ m := by
  induction m with
  | nil => exact h
  | cons d m ih =>
    simp only [erase] at h
    split at h
    · exact List.mem_cons_of_mem _ h
    · rcases List.mem_cons.mp h with h | h
      · exact h ▸ List.mem_cons_self
      · exact List.mem_cons_of_mem _ (ih h)

theorem mem_put (m : SMap α) (a : Nat) (x : α) (c : Nat × α) (h : c ∈ m.put a x) : c ∈ m ∨ c = (a, x) := by
  induction m with
  | nil => simp [put] at h; exact .inr h
  | cons d m ih =>
    simp only [put] at h
    split at h
    · rcases List.mem_cons.mp h with h | h
      · exact .inr h
      · exact .inl h
    · split at h
      · rcases List.mem_cons.mp h with h | h
        · exact .inr h
        · exact .inl (List.mem_cons_of_mem _ h)
      · rcases List.mem_cons.mp h with h | h
        · exact .inl (h ▸ List.mem_cons_self)
        · rcases ih h with h | h
          · exact .inl (List.mem_cons_of_mem _ h)
          · exact .inr h

/-- A write keeps the canonical form. -/
theorem wf_set [DecidableEq α] (dflt : α) (m : SMap α) (a : Nat) (x : α) (h : wf dflt m = true) : wf dflt (set dflt m a x) = true := by
  simp only [wf, Bool.and_eq_true, List.all_eq_true, decide_eq_true_eq] at h ⊢
  refine ⟨sorted_set dflt m a x h.1, fun c hc => ?_⟩
  unfold set at hc
  split at hc
  · exact h.2 c (mem_erase m a c hc)
  · next e =>
    rcases mem_put m a x c hc with hc | hc
    · exact h.2 c hc
    · subst hc; exact e

@[simp] theorem wf_nil [DecidableEq α] (dflt : α) : wf dflt ([] : SMap α) = true := rfl

/-- Equal readings mean equal maps: the canonical form is one. -/
theorem ext_of_wf [DecidableEq α] (dflt : α) (m n : SMap α) (hm : wf dflt m = true) (hn : wf dflt n = true)
    (h : ∀ a, get dflt m a = get dflt n a) : m = n := by
  suffices H : ∀ (m n : SMap α) (lo : Nat), sorted m lo = true → sorted n lo = true → (∀ c ∈ m, c.2 ≠ dflt) → (∀ c ∈ n, c.2 ≠ dflt)
      → (∀ a, get dflt m a = get dflt n a) → m = n by
    simp only [wf, Bool.and_eq_true, List.all_eq_true, decide_eq_true_eq] at hm hn
    exact H m n 0 hm.1 hn.1 hm.2 hn.2 h
  clear hm hn h m n
  intro m
  induction m with
  | nil =>
    intro n lo _ sn _ dn h
    cases n with
    | nil => rfl
    | cons c n =>
      exact absurd (by have := h c.1; simp [get] at this; exact this.symm) (dn c List.mem_cons_self)
  | cons c m ih =>
    intro n lo sm sn dm dn h
    cases n with
    | nil => exact absurd (by have := h c.1; simp [get] at this; exact this) (dm c List.mem_cons_self)
    | cons d n =>
      simp only [sorted, Bool.and_eq_true, decide_eq_true_eq] at sm sn
      have hk : c.1 = d.1 := by
        refine Decidable.byContradiction fun hne => ?_
        rcases Nat.lt_or_gt_of_ne hne with hl | hl
        · have := h c.1
          rw [get_below dflt (d :: n) (lo := d.1) (by simp [sorted, sn.2]) hl] at this
          exact dm c List.mem_cons_self (by simpa [get] using this)
        · have := h d.1
          rw [get_below dflt (c :: m) (lo := c.1) (by simp [sorted, sm.2]) hl] at this
          exact dn d List.mem_cons_self (by simpa [get] using this.symm)
      have hv : c.2 = d.2 := by have := h c.1; simpa [get, hk] using this
      have he : c = d := Prod.ext hk hv
      subst he
      congr 1
      refine ih n (c.1 + 1) sm.2 sn.2 (fun x hx => dm x (List.mem_cons_of_mem _ hx)) (fun x hx => dn x (List.mem_cons_of_mem _ hx)) fun a => ?_
      have := h a
      simp only [get] at this
      split at this
      · next e => rw [get_below dflt m sm.2 (by omega), get_below dflt n sn.2 (by omega)]
      · exact this

end Sys2Proof.SMap
end

