-- ==== Sys2Proof/Laws/State.lean ====
section
/-! SUPPORT. What each access operation leaves of each field of the state, and what it reads back as. -/

namespace Sys2Proof.Machine

/-! ### setDie -/

@[simp] theorem State.setDie_pending (s : State) (d : DieId) (x : Die) : (s.setDie d x).pending = s.pending := rfl
@[simp] theorem State.setDie_free (s : State) (d : DieId) (x : Die) : (s.setDie d x).free = s.free := rfl
@[simp] theorem State.setDie_mono (s : State) (d : DieId) (x : Die) : (s.setDie d x).mono = s.mono := rfl
@[simp] theorem State.setDie_endValid (s : State) (d : DieId) (x : Die) : (s.setDie d x).endValid = s.endValid := rfl
@[simp] theorem State.setDie_endFt (s : State) (d : DieId) (x : Die) : (s.setDie d x).endFt = s.endFt := rfl
@[simp] theorem State.setDie_wire (s : State) (d : DieId) (x : Die) : (s.setDie d x).wire = s.wire := rfl
@[simp] theorem State.setDie_ports (s : State) (d : DieId) (x : Die) : (s.setDie d x).ports = s.ports := rfl
@[simp] theorem State.setDie_combs (s : State) (d : DieId) (x : Die) : (s.setDie d x).combs = s.combs := rfl
@[simp] theorem State.setDie_savedAt (s : State) (d : DieId) (x : Die) : (s.setDie d x).savedAt = s.savedAt := rfl
@[simp] theorem State.setDie_bridges (s : State) (d : DieId) (x : Die) : (s.setDie d x).bridges = s.bridges := rfl
@[simp] theorem State.setDie_src (s : State) (d : DieId) (x : Die) : (s.setDie d x).src = s.src := rfl
@[simp] theorem State.setDie_nextOp (s : State) (d : DieId) (x : Die) : (s.setDie d x).nextOp = s.nextOp := rfl
@[simp] theorem State.setDie_combines (s : State) (d : DieId) (x : Die) : (s.setDie d x).combines = s.combines := rfl
@[simp] theorem State.setDie_ctlFt (s : State) (d : DieId) (x : Die) : (s.setDie d x).ctlFt = s.ctlFt := rfl
@[simp] theorem State.setDie_edgeFt (s : State) (d : DieId) (x : Die) : (s.setDie d x).edgeFt = s.edgeFt := rfl
@[simp] theorem State.setDie_pause (s : State) (d : DieId) (x : Die) : (s.setDie d x).pause = s.pause := rfl
@[simp] theorem State.setDie_holder (s : State) (d : DieId) (x : Die) : (s.setDie d x).holder = s.holder := rfl
@[simp] theorem State.setDie_disabled (s : State) (d : DieId) (x : Die) : (s.setDie d x).disabled = s.disabled := rfl
@[simp] theorem State.setDie_vendor (s : State) (d : DieId) (x : Die) : (s.setDie d x).vendor = s.vendor := rfl
@[simp] theorem State.setDie_rom (s : State) (d : DieId) (x : Die) : (s.setDie d x).rom = s.rom := rfl
@[simp] theorem State.setDie_leaseEpoch (s : State) (d : DieId) (x : Die) : (s.setDie d x).leaseEpoch = s.leaseEpoch := rfl
@[simp] theorem State.setDie_mgrEpoch (s : State) (d : DieId) (x : Die) : (s.setDie d x).mgrEpoch = s.mgrEpoch := rfl
@[simp] theorem State.setDie_mgr (s : State) (d : DieId) (x : Die) : (s.setDie d x).mgr = s.mgr := rfl
@[simp] theorem State.setDie_health (s : State) (d : DieId) (x : Die) : (s.setDie d x).health = s.health := rfl
@[simp] theorem State.setDie_sec (s : State) (d : DieId) (x : Die) : (s.setDie d x).sec = s.sec := rfl
@[simp] theorem State.setDie_quires (s : State) (d : DieId) (x : Die) : (s.setDie d x).quires = s.quires := rfl
@[simp] theorem State.setDie_time (s : State) (d : DieId) (x : Die) : (s.setDie d x).time = s.time := rfl
@[simp] theorem State.setDie_gut (s : State) (d : DieId) (x : Die) : (s.setDie d x).gut = s.gut := rfl
@[simp] theorem State.setDie_frz (s : State) (d : DieId) (x : Die) : (s.setDie d x).frz = s.frz := rfl
@[simp] theorem State.setDie_log (s : State) (d : DieId) (x : Die) : (s.setDie d x).log = s.log := rfl
@[simp] theorem State.setDie_topo (s : State) (d : DieId) (x : Die) : (s.setDie d x).topo = s.topo := rfl
@[simp] theorem State.setDie_host (s : State) (d : DieId) (x : Die) : (s.setDie d x).host = s.host := rfl
@[simp] theorem State.setDie_can (s : State) (d : DieId) (x : Die) : (s.setDie d x).can = s.can := rfl
@[simp] theorem State.setDie_power (s : State) (d : DieId) (x : Die) : (s.setDie d x).power = s.power := rfl
@[simp] theorem State.setDie_boot (s : State) (d : DieId) (x : Die) : (s.setDie d x).boot = s.boot := rfl
@[simp] theorem State.setDie_flash (s : State) (d : DieId) (x : Die) : (s.setDie d x).flash = s.flash := rfl
@[simp] theorem State.setDie_gov (s : State) (d : DieId) (x : Die) : (s.setDie d x).gov = s.gov := rfl
@[simp] theorem State.setDie_occ (s : State) (d : DieId) (x : Die) : (s.setDie d x).occ = s.occ := rfl
@[simp] theorem State.setDie_pm (s : State) (d : DieId) (x : Die) : (s.setDie d x).pm = s.pm := rfl
@[simp] theorem State.setDie_tap (s : State) (d : DieId) (x : Die) : (s.setDie d x).tap = s.tap := rfl
@[simp] theorem State.setDie_dict (s : State) (d : DieId) (x : Die) : (s.setDie d x).dict = s.dict := rfl

/-! ### updDie -/

@[simp] theorem State.updDie_pending (s : State) (d : DieId) (f : Die → Die) : (s.updDie d f).pending = s.pending := rfl
@[simp] theorem State.updDie_free (s : State) (d : DieId) (f : Die → Die) : (s.updDie d f).free = s.free := rfl
@[simp] theorem State.updDie_mono (s : State) (d : DieId) (f : Die → Die) : (s.updDie d f).mono = s.mono := rfl
@[simp] theorem State.updDie_endValid (s : State) (d : DieId) (f : Die → Die) : (s.updDie d f).endValid = s.endValid := rfl
@[simp] theorem State.updDie_endFt (s : State) (d : DieId) (f : Die → Die) : (s.updDie d f).endFt = s.endFt := rfl
@[simp] theorem State.updDie_wire (s : State) (d : DieId) (f : Die → Die) : (s.updDie d f).wire = s.wire := rfl
@[simp] theorem State.updDie_ports (s : State) (d : DieId) (f : Die → Die) : (s.updDie d f).ports = s.ports := rfl
@[simp] theorem State.updDie_combs (s : State) (d : DieId) (f : Die → Die) : (s.updDie d f).combs = s.combs := rfl
@[simp] theorem State.updDie_savedAt (s : State) (d : DieId) (f : Die → Die) : (s.updDie d f).savedAt = s.savedAt := rfl
@[simp] theorem State.updDie_bridges (s : State) (d : DieId) (f : Die → Die) : (s.updDie d f).bridges = s.bridges := rfl
@[simp] theorem State.updDie_src (s : State) (d : DieId) (f : Die → Die) : (s.updDie d f).src = s.src := rfl
@[simp] theorem State.updDie_nextOp (s : State) (d : DieId) (f : Die → Die) : (s.updDie d f).nextOp = s.nextOp := rfl
@[simp] theorem State.updDie_combines (s : State) (d : DieId) (f : Die → Die) : (s.updDie d f).combines = s.combines := rfl
@[simp] theorem State.updDie_ctlFt (s : State) (d : DieId) (f : Die → Die) : (s.updDie d f).ctlFt = s.ctlFt := rfl
@[simp] theorem State.updDie_edgeFt (s : State) (d : DieId) (f : Die → Die) : (s.updDie d f).edgeFt = s.edgeFt := rfl
@[simp] theorem State.updDie_pause (s : State) (d : DieId) (f : Die → Die) : (s.updDie d f).pause = s.pause := rfl
@[simp] theorem State.updDie_holder (s : State) (d : DieId) (f : Die → Die) : (s.updDie d f).holder = s.holder := rfl
@[simp] theorem State.updDie_disabled (s : State) (d : DieId) (f : Die → Die) : (s.updDie d f).disabled = s.disabled := rfl
@[simp] theorem State.updDie_vendor (s : State) (d : DieId) (f : Die → Die) : (s.updDie d f).vendor = s.vendor := rfl
@[simp] theorem State.updDie_rom (s : State) (d : DieId) (f : Die → Die) : (s.updDie d f).rom = s.rom := rfl
@[simp] theorem State.updDie_leaseEpoch (s : State) (d : DieId) (f : Die → Die) : (s.updDie d f).leaseEpoch = s.leaseEpoch := rfl
@[simp] theorem State.updDie_mgrEpoch (s : State) (d : DieId) (f : Die → Die) : (s.updDie d f).mgrEpoch = s.mgrEpoch := rfl
@[simp] theorem State.updDie_mgr (s : State) (d : DieId) (f : Die → Die) : (s.updDie d f).mgr = s.mgr := rfl
@[simp] theorem State.updDie_health (s : State) (d : DieId) (f : Die → Die) : (s.updDie d f).health = s.health := rfl
@[simp] theorem State.updDie_sec (s : State) (d : DieId) (f : Die → Die) : (s.updDie d f).sec = s.sec := rfl
@[simp] theorem State.updDie_quires (s : State) (d : DieId) (f : Die → Die) : (s.updDie d f).quires = s.quires := rfl
@[simp] theorem State.updDie_time (s : State) (d : DieId) (f : Die → Die) : (s.updDie d f).time = s.time := rfl
@[simp] theorem State.updDie_gut (s : State) (d : DieId) (f : Die → Die) : (s.updDie d f).gut = s.gut := rfl
@[simp] theorem State.updDie_frz (s : State) (d : DieId) (f : Die → Die) : (s.updDie d f).frz = s.frz := rfl
@[simp] theorem State.updDie_log (s : State) (d : DieId) (f : Die → Die) : (s.updDie d f).log = s.log := rfl
@[simp] theorem State.updDie_topo (s : State) (d : DieId) (f : Die → Die) : (s.updDie d f).topo = s.topo := rfl
@[simp] theorem State.updDie_host (s : State) (d : DieId) (f : Die → Die) : (s.updDie d f).host = s.host := rfl
@[simp] theorem State.updDie_can (s : State) (d : DieId) (f : Die → Die) : (s.updDie d f).can = s.can := rfl
@[simp] theorem State.updDie_power (s : State) (d : DieId) (f : Die → Die) : (s.updDie d f).power = s.power := rfl
@[simp] theorem State.updDie_boot (s : State) (d : DieId) (f : Die → Die) : (s.updDie d f).boot = s.boot := rfl
@[simp] theorem State.updDie_flash (s : State) (d : DieId) (f : Die → Die) : (s.updDie d f).flash = s.flash := rfl
@[simp] theorem State.updDie_gov (s : State) (d : DieId) (f : Die → Die) : (s.updDie d f).gov = s.gov := rfl
@[simp] theorem State.updDie_occ (s : State) (d : DieId) (f : Die → Die) : (s.updDie d f).occ = s.occ := rfl
@[simp] theorem State.updDie_pm (s : State) (d : DieId) (f : Die → Die) : (s.updDie d f).pm = s.pm := rfl
@[simp] theorem State.updDie_tap (s : State) (d : DieId) (f : Die → Die) : (s.updDie d f).tap = s.tap := rfl
@[simp] theorem State.updDie_dict (s : State) (d : DieId) (f : Die → Die) : (s.updDie d f).dict = s.dict := rfl

/-! ### updPort -/

@[simp] theorem State.updPort_pending (s : State) (p : PortId) (f : Port → Port) : (s.updPort p f).pending = s.pending := rfl
@[simp] theorem State.updPort_free (s : State) (p : PortId) (f : Port → Port) : (s.updPort p f).free = s.free := rfl
@[simp] theorem State.updPort_mono (s : State) (p : PortId) (f : Port → Port) : (s.updPort p f).mono = s.mono := rfl
@[simp] theorem State.updPort_endValid (s : State) (p : PortId) (f : Port → Port) : (s.updPort p f).endValid = s.endValid := rfl
@[simp] theorem State.updPort_endFt (s : State) (p : PortId) (f : Port → Port) : (s.updPort p f).endFt = s.endFt := rfl
@[simp] theorem State.updPort_wire (s : State) (p : PortId) (f : Port → Port) : (s.updPort p f).wire = s.wire := rfl
@[simp] theorem State.updPort_dies (s : State) (p : PortId) (f : Port → Port) : (s.updPort p f).dies = s.dies := rfl
@[simp] theorem State.updPort_combs (s : State) (p : PortId) (f : Port → Port) : (s.updPort p f).combs = s.combs := rfl
@[simp] theorem State.updPort_savedAt (s : State) (p : PortId) (f : Port → Port) : (s.updPort p f).savedAt = s.savedAt := rfl
@[simp] theorem State.updPort_bridges (s : State) (p : PortId) (f : Port → Port) : (s.updPort p f).bridges = s.bridges := rfl
@[simp] theorem State.updPort_src (s : State) (p : PortId) (f : Port → Port) : (s.updPort p f).src = s.src := rfl
@[simp] theorem State.updPort_nextOp (s : State) (p : PortId) (f : Port → Port) : (s.updPort p f).nextOp = s.nextOp := rfl
@[simp] theorem State.updPort_combines (s : State) (p : PortId) (f : Port → Port) : (s.updPort p f).combines = s.combines := rfl
@[simp] theorem State.updPort_ctlFt (s : State) (p : PortId) (f : Port → Port) : (s.updPort p f).ctlFt = s.ctlFt := rfl
@[simp] theorem State.updPort_edgeFt (s : State) (p : PortId) (f : Port → Port) : (s.updPort p f).edgeFt = s.edgeFt := rfl
@[simp] theorem State.updPort_pause (s : State) (p : PortId) (f : Port → Port) : (s.updPort p f).pause = s.pause := rfl
@[simp] theorem State.updPort_holder (s : State) (p : PortId) (f : Port → Port) : (s.updPort p f).holder = s.holder := rfl
@[simp] theorem State.updPort_disabled (s : State) (p : PortId) (f : Port → Port) : (s.updPort p f).disabled = s.disabled := rfl
@[simp] theorem State.updPort_vendor (s : State) (p : PortId) (f : Port → Port) : (s.updPort p f).vendor = s.vendor := rfl
@[simp] theorem State.updPort_rom (s : State) (p : PortId) (f : Port → Port) : (s.updPort p f).rom = s.rom := rfl
@[simp] theorem State.updPort_leaseEpoch (s : State) (p : PortId) (f : Port → Port) : (s.updPort p f).leaseEpoch = s.leaseEpoch := rfl
@[simp] theorem State.updPort_mgrEpoch (s : State) (p : PortId) (f : Port → Port) : (s.updPort p f).mgrEpoch = s.mgrEpoch := rfl
@[simp] theorem State.updPort_mgr (s : State) (p : PortId) (f : Port → Port) : (s.updPort p f).mgr = s.mgr := rfl
@[simp] theorem State.updPort_health (s : State) (p : PortId) (f : Port → Port) : (s.updPort p f).health = s.health := rfl
@[simp] theorem State.updPort_sec (s : State) (p : PortId) (f : Port → Port) : (s.updPort p f).sec = s.sec := rfl
@[simp] theorem State.updPort_quires (s : State) (p : PortId) (f : Port → Port) : (s.updPort p f).quires = s.quires := rfl
@[simp] theorem State.updPort_time (s : State) (p : PortId) (f : Port → Port) : (s.updPort p f).time = s.time := rfl
@[simp] theorem State.updPort_gut (s : State) (p : PortId) (f : Port → Port) : (s.updPort p f).gut = s.gut := rfl
@[simp] theorem State.updPort_frz (s : State) (p : PortId) (f : Port → Port) : (s.updPort p f).frz = s.frz := rfl
@[simp] theorem State.updPort_log (s : State) (p : PortId) (f : Port → Port) : (s.updPort p f).log = s.log := rfl
@[simp] theorem State.updPort_topo (s : State) (p : PortId) (f : Port → Port) : (s.updPort p f).topo = s.topo := rfl
@[simp] theorem State.updPort_host (s : State) (p : PortId) (f : Port → Port) : (s.updPort p f).host = s.host := rfl
@[simp] theorem State.updPort_can (s : State) (p : PortId) (f : Port → Port) : (s.updPort p f).can = s.can := rfl
@[simp] theorem State.updPort_power (s : State) (p : PortId) (f : Port → Port) : (s.updPort p f).power = s.power := rfl
@[simp] theorem State.updPort_boot (s : State) (p : PortId) (f : Port → Port) : (s.updPort p f).boot = s.boot := rfl
@[simp] theorem State.updPort_flash (s : State) (p : PortId) (f : Port → Port) : (s.updPort p f).flash = s.flash := rfl
@[simp] theorem State.updPort_gov (s : State) (p : PortId) (f : Port → Port) : (s.updPort p f).gov = s.gov := rfl
@[simp] theorem State.updPort_occ (s : State) (p : PortId) (f : Port → Port) : (s.updPort p f).occ = s.occ := rfl
@[simp] theorem State.updPort_pm (s : State) (p : PortId) (f : Port → Port) : (s.updPort p f).pm = s.pm := rfl
@[simp] theorem State.updPort_tap (s : State) (p : PortId) (f : Port → Port) : (s.updPort p f).tap = s.tap := rfl
@[simp] theorem State.updPort_dict (s : State) (p : PortId) (f : Port → Port) : (s.updPort p f).dict = s.dict := rfl

/-! ### updQuire -/

@[simp] theorem State.updQuire_pending (s : State) (k : Fin 4) (f : Quire → Quire) : (s.updQuire k f).pending = s.pending := rfl
@[simp] theorem State.updQuire_free (s : State) (k : Fin 4) (f : Quire → Quire) : (s.updQuire k f).free = s.free := rfl
@[simp] theorem State.updQuire_mono (s : State) (k : Fin 4) (f : Quire → Quire) : (s.updQuire k f).mono = s.mono := rfl
@[simp] theorem State.updQuire_endValid (s : State) (k : Fin 4) (f : Quire → Quire) : (s.updQuire k f).endValid = s.endValid := rfl
@[simp] theorem State.updQuire_endFt (s : State) (k : Fin 4) (f : Quire → Quire) : (s.updQuire k f).endFt = s.endFt := rfl
@[simp] theorem State.updQuire_wire (s : State) (k : Fin 4) (f : Quire → Quire) : (s.updQuire k f).wire = s.wire := rfl
@[simp] theorem State.updQuire_dies (s : State) (k : Fin 4) (f : Quire → Quire) : (s.updQuire k f).dies = s.dies := rfl
@[simp] theorem State.updQuire_ports (s : State) (k : Fin 4) (f : Quire → Quire) : (s.updQuire k f).ports = s.ports := rfl
@[simp] theorem State.updQuire_combs (s : State) (k : Fin 4) (f : Quire → Quire) : (s.updQuire k f).combs = s.combs := rfl
@[simp] theorem State.updQuire_savedAt (s : State) (k : Fin 4) (f : Quire → Quire) : (s.updQuire k f).savedAt = s.savedAt := rfl
@[simp] theorem State.updQuire_bridges (s : State) (k : Fin 4) (f : Quire → Quire) : (s.updQuire k f).bridges = s.bridges := rfl
@[simp] theorem State.updQuire_src (s : State) (k : Fin 4) (f : Quire → Quire) : (s.updQuire k f).src = s.src := rfl
@[simp] theorem State.updQuire_nextOp (s : State) (k : Fin 4) (f : Quire → Quire) : (s.updQuire k f).nextOp = s.nextOp := rfl
@[simp] theorem State.updQuire_combines (s : State) (k : Fin 4) (f : Quire → Quire) : (s.updQuire k f).combines = s.combines := rfl
@[simp] theorem State.updQuire_ctlFt (s : State) (k : Fin 4) (f : Quire → Quire) : (s.updQuire k f).ctlFt = s.ctlFt := rfl
@[simp] theorem State.updQuire_edgeFt (s : State) (k : Fin 4) (f : Quire → Quire) : (s.updQuire k f).edgeFt = s.edgeFt := rfl
@[simp] theorem State.updQuire_pause (s : State) (k : Fin 4) (f : Quire → Quire) : (s.updQuire k f).pause = s.pause := rfl
@[simp] theorem State.updQuire_holder (s : State) (k : Fin 4) (f : Quire → Quire) : (s.updQuire k f).holder = s.holder := rfl
@[simp] theorem State.updQuire_disabled (s : State) (k : Fin 4) (f : Quire → Quire) : (s.updQuire k f).disabled = s.disabled := rfl
@[simp] theorem State.updQuire_vendor (s : State) (k : Fin 4) (f : Quire → Quire) : (s.updQuire k f).vendor = s.vendor := rfl
@[simp] theorem State.updQuire_rom (s : State) (k : Fin 4) (f : Quire → Quire) : (s.updQuire k f).rom = s.rom := rfl
@[simp] theorem State.updQuire_leaseEpoch (s : State) (k : Fin 4) (f : Quire → Quire) : (s.updQuire k f).leaseEpoch = s.leaseEpoch := rfl
@[simp] theorem State.updQuire_mgrEpoch (s : State) (k : Fin 4) (f : Quire → Quire) : (s.updQuire k f).mgrEpoch = s.mgrEpoch := rfl
@[simp] theorem State.updQuire_mgr (s : State) (k : Fin 4) (f : Quire → Quire) : (s.updQuire k f).mgr = s.mgr := rfl
@[simp] theorem State.updQuire_health (s : State) (k : Fin 4) (f : Quire → Quire) : (s.updQuire k f).health = s.health := rfl
@[simp] theorem State.updQuire_sec (s : State) (k : Fin 4) (f : Quire → Quire) : (s.updQuire k f).sec = s.sec := rfl
@[simp] theorem State.updQuire_time (s : State) (k : Fin 4) (f : Quire → Quire) : (s.updQuire k f).time = s.time := rfl
@[simp] theorem State.updQuire_gut (s : State) (k : Fin 4) (f : Quire → Quire) : (s.updQuire k f).gut = s.gut := rfl
@[simp] theorem State.updQuire_frz (s : State) (k : Fin 4) (f : Quire → Quire) : (s.updQuire k f).frz = s.frz := rfl
@[simp] theorem State.updQuire_log (s : State) (k : Fin 4) (f : Quire → Quire) : (s.updQuire k f).log = s.log := rfl
@[simp] theorem State.updQuire_topo (s : State) (k : Fin 4) (f : Quire → Quire) : (s.updQuire k f).topo = s.topo := rfl
@[simp] theorem State.updQuire_host (s : State) (k : Fin 4) (f : Quire → Quire) : (s.updQuire k f).host = s.host := rfl
@[simp] theorem State.updQuire_can (s : State) (k : Fin 4) (f : Quire → Quire) : (s.updQuire k f).can = s.can := rfl
@[simp] theorem State.updQuire_power (s : State) (k : Fin 4) (f : Quire → Quire) : (s.updQuire k f).power = s.power := rfl
@[simp] theorem State.updQuire_boot (s : State) (k : Fin 4) (f : Quire → Quire) : (s.updQuire k f).boot = s.boot := rfl
@[simp] theorem State.updQuire_flash (s : State) (k : Fin 4) (f : Quire → Quire) : (s.updQuire k f).flash = s.flash := rfl
@[simp] theorem State.updQuire_gov (s : State) (k : Fin 4) (f : Quire → Quire) : (s.updQuire k f).gov = s.gov := rfl
@[simp] theorem State.updQuire_occ (s : State) (k : Fin 4) (f : Quire → Quire) : (s.updQuire k f).occ = s.occ := rfl
@[simp] theorem State.updQuire_pm (s : State) (k : Fin 4) (f : Quire → Quire) : (s.updQuire k f).pm = s.pm := rfl
@[simp] theorem State.updQuire_tap (s : State) (k : Fin 4) (f : Quire → Quire) : (s.updQuire k f).tap = s.tap := rfl
@[simp] theorem State.updQuire_dict (s : State) (k : Fin 4) (f : Quire → Quire) : (s.updQuire k f).dict = s.dict := rfl

/-! ### updCtx -/

@[simp] theorem State.updCtx_pending (s : State) (d : DieId) (c : CtxId) (f : Ctx → Ctx) : (s.updCtx d c f).pending = s.pending := rfl
@[simp] theorem State.updCtx_free (s : State) (d : DieId) (c : CtxId) (f : Ctx → Ctx) : (s.updCtx d c f).free = s.free := rfl
@[simp] theorem State.updCtx_mono (s : State) (d : DieId) (c : CtxId) (f : Ctx → Ctx) : (s.updCtx d c f).mono = s.mono := rfl
@[simp] theorem State.updCtx_endValid (s : State) (d : DieId) (c : CtxId) (f : Ctx → Ctx) : (s.updCtx d c f).endValid = s.endValid := rfl
@[simp] theorem State.updCtx_endFt (s : State) (d : DieId) (c : CtxId) (f : Ctx → Ctx) : (s.updCtx d c f).endFt = s.endFt := rfl
@[simp] theorem State.updCtx_wire (s : State) (d : DieId) (c : CtxId) (f : Ctx → Ctx) : (s.updCtx d c f).wire = s.wire := rfl
@[simp] theorem State.updCtx_ports (s : State) (d : DieId) (c : CtxId) (f : Ctx → Ctx) : (s.updCtx d c f).ports = s.ports := rfl
@[simp] theorem State.updCtx_combs (s : State) (d : DieId) (c : CtxId) (f : Ctx → Ctx) : (s.updCtx d c f).combs = s.combs := rfl
@[simp] theorem State.updCtx_savedAt (s : State) (d : DieId) (c : CtxId) (f : Ctx → Ctx) : (s.updCtx d c f).savedAt = s.savedAt := rfl
@[simp] theorem State.updCtx_bridges (s : State) (d : DieId) (c : CtxId) (f : Ctx → Ctx) : (s.updCtx d c f).bridges = s.bridges := rfl
@[simp] theorem State.updCtx_src (s : State) (d : DieId) (c : CtxId) (f : Ctx → Ctx) : (s.updCtx d c f).src = s.src := rfl
@[simp] theorem State.updCtx_nextOp (s : State) (d : DieId) (c : CtxId) (f : Ctx → Ctx) : (s.updCtx d c f).nextOp = s.nextOp := rfl
@[simp] theorem State.updCtx_combines (s : State) (d : DieId) (c : CtxId) (f : Ctx → Ctx) : (s.updCtx d c f).combines = s.combines := rfl
@[simp] theorem State.updCtx_ctlFt (s : State) (d : DieId) (c : CtxId) (f : Ctx → Ctx) : (s.updCtx d c f).ctlFt = s.ctlFt := rfl
@[simp] theorem State.updCtx_edgeFt (s : State) (d : DieId) (c : CtxId) (f : Ctx → Ctx) : (s.updCtx d c f).edgeFt = s.edgeFt := rfl
@[simp] theorem State.updCtx_pause (s : State) (d : DieId) (c : CtxId) (f : Ctx → Ctx) : (s.updCtx d c f).pause = s.pause := rfl
@[simp] theorem State.updCtx_holder (s : State) (d : DieId) (c : CtxId) (f : Ctx → Ctx) : (s.updCtx d c f).holder = s.holder := rfl
@[simp] theorem State.updCtx_disabled (s : State) (d : DieId) (c : CtxId) (f : Ctx → Ctx) : (s.updCtx d c f).disabled = s.disabled := rfl
@[simp] theorem State.updCtx_vendor (s : State) (d : DieId) (c : CtxId) (f : Ctx → Ctx) : (s.updCtx d c f).vendor = s.vendor := rfl
@[simp] theorem State.updCtx_rom (s : State) (d : DieId) (c : CtxId) (f : Ctx → Ctx) : (s.updCtx d c f).rom = s.rom := rfl
@[simp] theorem State.updCtx_leaseEpoch (s : State) (d : DieId) (c : CtxId) (f : Ctx → Ctx) : (s.updCtx d c f).leaseEpoch = s.leaseEpoch := rfl
@[simp] theorem State.updCtx_mgrEpoch (s : State) (d : DieId) (c : CtxId) (f : Ctx → Ctx) : (s.updCtx d c f).mgrEpoch = s.mgrEpoch := rfl
@[simp] theorem State.updCtx_mgr (s : State) (d : DieId) (c : CtxId) (f : Ctx → Ctx) : (s.updCtx d c f).mgr = s.mgr := rfl
@[simp] theorem State.updCtx_health (s : State) (d : DieId) (c : CtxId) (f : Ctx → Ctx) : (s.updCtx d c f).health = s.health := rfl
@[simp] theorem State.updCtx_sec (s : State) (d : DieId) (c : CtxId) (f : Ctx → Ctx) : (s.updCtx d c f).sec = s.sec := rfl
@[simp] theorem State.updCtx_quires (s : State) (d : DieId) (c : CtxId) (f : Ctx → Ctx) : (s.updCtx d c f).quires = s.quires := rfl
@[simp] theorem State.updCtx_time (s : State) (d : DieId) (c : CtxId) (f : Ctx → Ctx) : (s.updCtx d c f).time = s.time := rfl
@[simp] theorem State.updCtx_gut (s : State) (d : DieId) (c : CtxId) (f : Ctx → Ctx) : (s.updCtx d c f).gut = s.gut := rfl
@[simp] theorem State.updCtx_frz (s : State) (d : DieId) (c : CtxId) (f : Ctx → Ctx) : (s.updCtx d c f).frz = s.frz := rfl
@[simp] theorem State.updCtx_log (s : State) (d : DieId) (c : CtxId) (f : Ctx → Ctx) : (s.updCtx d c f).log = s.log := rfl
@[simp] theorem State.updCtx_topo (s : State) (d : DieId) (c : CtxId) (f : Ctx → Ctx) : (s.updCtx d c f).topo = s.topo := rfl
@[simp] theorem State.updCtx_host (s : State) (d : DieId) (c : CtxId) (f : Ctx → Ctx) : (s.updCtx d c f).host = s.host := rfl
@[simp] theorem State.updCtx_can (s : State) (d : DieId) (c : CtxId) (f : Ctx → Ctx) : (s.updCtx d c f).can = s.can := rfl
@[simp] theorem State.updCtx_power (s : State) (d : DieId) (c : CtxId) (f : Ctx → Ctx) : (s.updCtx d c f).power = s.power := rfl
@[simp] theorem State.updCtx_boot (s : State) (d : DieId) (c : CtxId) (f : Ctx → Ctx) : (s.updCtx d c f).boot = s.boot := rfl
@[simp] theorem State.updCtx_flash (s : State) (d : DieId) (c : CtxId) (f : Ctx → Ctx) : (s.updCtx d c f).flash = s.flash := rfl
@[simp] theorem State.updCtx_gov (s : State) (d : DieId) (c : CtxId) (f : Ctx → Ctx) : (s.updCtx d c f).gov = s.gov := rfl
@[simp] theorem State.updCtx_occ (s : State) (d : DieId) (c : CtxId) (f : Ctx → Ctx) : (s.updCtx d c f).occ = s.occ := rfl
@[simp] theorem State.updCtx_pm (s : State) (d : DieId) (c : CtxId) (f : Ctx → Ctx) : (s.updCtx d c f).pm = s.pm := rfl
@[simp] theorem State.updCtx_tap (s : State) (d : DieId) (c : CtxId) (f : Ctx → Ctx) : (s.updCtx d c f).tap = s.tap := rfl
@[simp] theorem State.updCtx_dict (s : State) (d : DieId) (c : CtxId) (f : Ctx → Ctx) : (s.updCtx d c f).dict = s.dict := rfl

/-! ### updUnit -/

@[simp] theorem State.updUnit_pending (s : State) (d : DieId) (u : UnitId) (f : UnitSt → UnitSt) : (s.updUnit d u f).pending = s.pending := rfl
@[simp] theorem State.updUnit_free (s : State) (d : DieId) (u : UnitId) (f : UnitSt → UnitSt) : (s.updUnit d u f).free = s.free := rfl
@[simp] theorem State.updUnit_mono (s : State) (d : DieId) (u : UnitId) (f : UnitSt → UnitSt) : (s.updUnit d u f).mono = s.mono := rfl
@[simp] theorem State.updUnit_endValid (s : State) (d : DieId) (u : UnitId) (f : UnitSt → UnitSt) : (s.updUnit d u f).endValid = s.endValid := rfl
@[simp] theorem State.updUnit_endFt (s : State) (d : DieId) (u : UnitId) (f : UnitSt → UnitSt) : (s.updUnit d u f).endFt = s.endFt := rfl
@[simp] theorem State.updUnit_wire (s : State) (d : DieId) (u : UnitId) (f : UnitSt → UnitSt) : (s.updUnit d u f).wire = s.wire := rfl
@[simp] theorem State.updUnit_ports (s : State) (d : DieId) (u : UnitId) (f : UnitSt → UnitSt) : (s.updUnit d u f).ports = s.ports := rfl
@[simp] theorem State.updUnit_combs (s : State) (d : DieId) (u : UnitId) (f : UnitSt → UnitSt) : (s.updUnit d u f).combs = s.combs := rfl
@[simp] theorem State.updUnit_savedAt (s : State) (d : DieId) (u : UnitId) (f : UnitSt → UnitSt) : (s.updUnit d u f).savedAt = s.savedAt := rfl
@[simp] theorem State.updUnit_bridges (s : State) (d : DieId) (u : UnitId) (f : UnitSt → UnitSt) : (s.updUnit d u f).bridges = s.bridges := rfl
@[simp] theorem State.updUnit_src (s : State) (d : DieId) (u : UnitId) (f : UnitSt → UnitSt) : (s.updUnit d u f).src = s.src := rfl
@[simp] theorem State.updUnit_nextOp (s : State) (d : DieId) (u : UnitId) (f : UnitSt → UnitSt) : (s.updUnit d u f).nextOp = s.nextOp := rfl
@[simp] theorem State.updUnit_combines (s : State) (d : DieId) (u : UnitId) (f : UnitSt → UnitSt) : (s.updUnit d u f).combines = s.combines := rfl
@[simp] theorem State.updUnit_ctlFt (s : State) (d : DieId) (u : UnitId) (f : UnitSt → UnitSt) : (s.updUnit d u f).ctlFt = s.ctlFt := rfl
@[simp] theorem State.updUnit_edgeFt (s : State) (d : DieId) (u : UnitId) (f : UnitSt → UnitSt) : (s.updUnit d u f).edgeFt = s.edgeFt := rfl
@[simp] theorem State.updUnit_pause (s : State) (d : DieId) (u : UnitId) (f : UnitSt → UnitSt) : (s.updUnit d u f).pause = s.pause := rfl
@[simp] theorem State.updUnit_holder (s : State) (d : DieId) (u : UnitId) (f : UnitSt → UnitSt) : (s.updUnit d u f).holder = s.holder := rfl
@[simp] theorem State.updUnit_disabled (s : State) (d : DieId) (u : UnitId) (f : UnitSt → UnitSt) : (s.updUnit d u f).disabled = s.disabled := rfl
@[simp] theorem State.updUnit_vendor (s : State) (d : DieId) (u : UnitId) (f : UnitSt → UnitSt) : (s.updUnit d u f).vendor = s.vendor := rfl
@[simp] theorem State.updUnit_rom (s : State) (d : DieId) (u : UnitId) (f : UnitSt → UnitSt) : (s.updUnit d u f).rom = s.rom := rfl
@[simp] theorem State.updUnit_leaseEpoch (s : State) (d : DieId) (u : UnitId) (f : UnitSt → UnitSt) : (s.updUnit d u f).leaseEpoch = s.leaseEpoch := rfl
@[simp] theorem State.updUnit_mgrEpoch (s : State) (d : DieId) (u : UnitId) (f : UnitSt → UnitSt) : (s.updUnit d u f).mgrEpoch = s.mgrEpoch := rfl
@[simp] theorem State.updUnit_mgr (s : State) (d : DieId) (u : UnitId) (f : UnitSt → UnitSt) : (s.updUnit d u f).mgr = s.mgr := rfl
@[simp] theorem State.updUnit_health (s : State) (d : DieId) (u : UnitId) (f : UnitSt → UnitSt) : (s.updUnit d u f).health = s.health := rfl
@[simp] theorem State.updUnit_sec (s : State) (d : DieId) (u : UnitId) (f : UnitSt → UnitSt) : (s.updUnit d u f).sec = s.sec := rfl
@[simp] theorem State.updUnit_quires (s : State) (d : DieId) (u : UnitId) (f : UnitSt → UnitSt) : (s.updUnit d u f).quires = s.quires := rfl
@[simp] theorem State.updUnit_time (s : State) (d : DieId) (u : UnitId) (f : UnitSt → UnitSt) : (s.updUnit d u f).time = s.time := rfl
@[simp] theorem State.updUnit_gut (s : State) (d : DieId) (u : UnitId) (f : UnitSt → UnitSt) : (s.updUnit d u f).gut = s.gut := rfl
@[simp] theorem State.updUnit_frz (s : State) (d : DieId) (u : UnitId) (f : UnitSt → UnitSt) : (s.updUnit d u f).frz = s.frz := rfl
@[simp] theorem State.updUnit_log (s : State) (d : DieId) (u : UnitId) (f : UnitSt → UnitSt) : (s.updUnit d u f).log = s.log := rfl
@[simp] theorem State.updUnit_topo (s : State) (d : DieId) (u : UnitId) (f : UnitSt → UnitSt) : (s.updUnit d u f).topo = s.topo := rfl
@[simp] theorem State.updUnit_host (s : State) (d : DieId) (u : UnitId) (f : UnitSt → UnitSt) : (s.updUnit d u f).host = s.host := rfl
@[simp] theorem State.updUnit_can (s : State) (d : DieId) (u : UnitId) (f : UnitSt → UnitSt) : (s.updUnit d u f).can = s.can := rfl
@[simp] theorem State.updUnit_power (s : State) (d : DieId) (u : UnitId) (f : UnitSt → UnitSt) : (s.updUnit d u f).power = s.power := rfl
@[simp] theorem State.updUnit_boot (s : State) (d : DieId) (u : UnitId) (f : UnitSt → UnitSt) : (s.updUnit d u f).boot = s.boot := rfl
@[simp] theorem State.updUnit_flash (s : State) (d : DieId) (u : UnitId) (f : UnitSt → UnitSt) : (s.updUnit d u f).flash = s.flash := rfl
@[simp] theorem State.updUnit_gov (s : State) (d : DieId) (u : UnitId) (f : UnitSt → UnitSt) : (s.updUnit d u f).gov = s.gov := rfl
@[simp] theorem State.updUnit_occ (s : State) (d : DieId) (u : UnitId) (f : UnitSt → UnitSt) : (s.updUnit d u f).occ = s.occ := rfl
@[simp] theorem State.updUnit_pm (s : State) (d : DieId) (u : UnitId) (f : UnitSt → UnitSt) : (s.updUnit d u f).pm = s.pm := rfl
@[simp] theorem State.updUnit_tap (s : State) (d : DieId) (u : UnitId) (f : UnitSt → UnitSt) : (s.updUnit d u f).tap = s.tap := rfl
@[simp] theorem State.updUnit_dict (s : State) (d : DieId) (u : UnitId) (f : UnitSt → UnitSt) : (s.updUnit d u f).dict = s.dict := rfl

/-! ### updQueue -/

@[simp] theorem State.updQueue_pending (s : State) (q : QueueId) (f : Queue → Queue) : (s.updQueue q f).pending = s.pending := rfl
@[simp] theorem State.updQueue_free (s : State) (q : QueueId) (f : Queue → Queue) : (s.updQueue q f).free = s.free := rfl
@[simp] theorem State.updQueue_mono (s : State) (q : QueueId) (f : Queue → Queue) : (s.updQueue q f).mono = s.mono := rfl
@[simp] theorem State.updQueue_endValid (s : State) (q : QueueId) (f : Queue → Queue) : (s.updQueue q f).endValid = s.endValid := rfl
@[simp] theorem State.updQueue_endFt (s : State) (q : QueueId) (f : Queue → Queue) : (s.updQueue q f).endFt = s.endFt := rfl
@[simp] theorem State.updQueue_wire (s : State) (q : QueueId) (f : Queue → Queue) : (s.updQueue q f).wire = s.wire := rfl
@[simp] theorem State.updQueue_ports (s : State) (q : QueueId) (f : Queue → Queue) : (s.updQueue q f).ports = s.ports := rfl
@[simp] theorem State.updQueue_combs (s : State) (q : QueueId) (f : Queue → Queue) : (s.updQueue q f).combs = s.combs := rfl
@[simp] theorem State.updQueue_savedAt (s : State) (q : QueueId) (f : Queue → Queue) : (s.updQueue q f).savedAt = s.savedAt := rfl
@[simp] theorem State.updQueue_bridges (s : State) (q : QueueId) (f : Queue → Queue) : (s.updQueue q f).bridges = s.bridges := rfl
@[simp] theorem State.updQueue_src (s : State) (q : QueueId) (f : Queue → Queue) : (s.updQueue q f).src = s.src := rfl
@[simp] theorem State.updQueue_nextOp (s : State) (q : QueueId) (f : Queue → Queue) : (s.updQueue q f).nextOp = s.nextOp := rfl
@[simp] theorem State.updQueue_combines (s : State) (q : QueueId) (f : Queue → Queue) : (s.updQueue q f).combines = s.combines := rfl
@[simp] theorem State.updQueue_ctlFt (s : State) (q : QueueId) (f : Queue → Queue) : (s.updQueue q f).ctlFt = s.ctlFt := rfl
@[simp] theorem State.updQueue_edgeFt (s : State) (q : QueueId) (f : Queue → Queue) : (s.updQueue q f).edgeFt = s.edgeFt := rfl
@[simp] theorem State.updQueue_pause (s : State) (q : QueueId) (f : Queue → Queue) : (s.updQueue q f).pause = s.pause := rfl
@[simp] theorem State.updQueue_holder (s : State) (q : QueueId) (f : Queue → Queue) : (s.updQueue q f).holder = s.holder := rfl
@[simp] theorem State.updQueue_disabled (s : State) (q : QueueId) (f : Queue → Queue) : (s.updQueue q f).disabled = s.disabled := rfl
@[simp] theorem State.updQueue_vendor (s : State) (q : QueueId) (f : Queue → Queue) : (s.updQueue q f).vendor = s.vendor := rfl
@[simp] theorem State.updQueue_rom (s : State) (q : QueueId) (f : Queue → Queue) : (s.updQueue q f).rom = s.rom := rfl
@[simp] theorem State.updQueue_leaseEpoch (s : State) (q : QueueId) (f : Queue → Queue) : (s.updQueue q f).leaseEpoch = s.leaseEpoch := rfl
@[simp] theorem State.updQueue_mgrEpoch (s : State) (q : QueueId) (f : Queue → Queue) : (s.updQueue q f).mgrEpoch = s.mgrEpoch := rfl
@[simp] theorem State.updQueue_mgr (s : State) (q : QueueId) (f : Queue → Queue) : (s.updQueue q f).mgr = s.mgr := rfl
@[simp] theorem State.updQueue_health (s : State) (q : QueueId) (f : Queue → Queue) : (s.updQueue q f).health = s.health := rfl
@[simp] theorem State.updQueue_sec (s : State) (q : QueueId) (f : Queue → Queue) : (s.updQueue q f).sec = s.sec := rfl
@[simp] theorem State.updQueue_quires (s : State) (q : QueueId) (f : Queue → Queue) : (s.updQueue q f).quires = s.quires := rfl
@[simp] theorem State.updQueue_time (s : State) (q : QueueId) (f : Queue → Queue) : (s.updQueue q f).time = s.time := rfl
@[simp] theorem State.updQueue_gut (s : State) (q : QueueId) (f : Queue → Queue) : (s.updQueue q f).gut = s.gut := rfl
@[simp] theorem State.updQueue_frz (s : State) (q : QueueId) (f : Queue → Queue) : (s.updQueue q f).frz = s.frz := rfl
@[simp] theorem State.updQueue_log (s : State) (q : QueueId) (f : Queue → Queue) : (s.updQueue q f).log = s.log := rfl
@[simp] theorem State.updQueue_topo (s : State) (q : QueueId) (f : Queue → Queue) : (s.updQueue q f).topo = s.topo := rfl
@[simp] theorem State.updQueue_host (s : State) (q : QueueId) (f : Queue → Queue) : (s.updQueue q f).host = s.host := rfl
@[simp] theorem State.updQueue_can (s : State) (q : QueueId) (f : Queue → Queue) : (s.updQueue q f).can = s.can := rfl
@[simp] theorem State.updQueue_power (s : State) (q : QueueId) (f : Queue → Queue) : (s.updQueue q f).power = s.power := rfl
@[simp] theorem State.updQueue_boot (s : State) (q : QueueId) (f : Queue → Queue) : (s.updQueue q f).boot = s.boot := rfl
@[simp] theorem State.updQueue_flash (s : State) (q : QueueId) (f : Queue → Queue) : (s.updQueue q f).flash = s.flash := rfl
@[simp] theorem State.updQueue_gov (s : State) (q : QueueId) (f : Queue → Queue) : (s.updQueue q f).gov = s.gov := rfl
@[simp] theorem State.updQueue_occ (s : State) (q : QueueId) (f : Queue → Queue) : (s.updQueue q f).occ = s.occ := rfl
@[simp] theorem State.updQueue_pm (s : State) (q : QueueId) (f : Queue → Queue) : (s.updQueue q f).pm = s.pm := rfl
@[simp] theorem State.updQueue_tap (s : State) (q : QueueId) (f : Queue → Queue) : (s.updQueue q f).tap = s.tap := rfl
@[simp] theorem State.updQueue_dict (s : State) (q : QueueId) (f : Queue → Queue) : (s.updQueue q f).dict = s.dict := rfl

/-! ### updChan -/

@[simp] theorem State.updChan_pending (s : State) (c : ChanId) (f : Channel → Channel) : (s.updChan c f).pending = s.pending := rfl
@[simp] theorem State.updChan_free (s : State) (c : ChanId) (f : Channel → Channel) : (s.updChan c f).free = s.free := rfl
@[simp] theorem State.updChan_mono (s : State) (c : ChanId) (f : Channel → Channel) : (s.updChan c f).mono = s.mono := rfl
@[simp] theorem State.updChan_endValid (s : State) (c : ChanId) (f : Channel → Channel) : (s.updChan c f).endValid = s.endValid := rfl
@[simp] theorem State.updChan_endFt (s : State) (c : ChanId) (f : Channel → Channel) : (s.updChan c f).endFt = s.endFt := rfl
@[simp] theorem State.updChan_wire (s : State) (c : ChanId) (f : Channel → Channel) : (s.updChan c f).wire = s.wire := rfl
@[simp] theorem State.updChan_dies (s : State) (c : ChanId) (f : Channel → Channel) : (s.updChan c f).dies = s.dies := rfl
@[simp] theorem State.updChan_ports (s : State) (c : ChanId) (f : Channel → Channel) : (s.updChan c f).ports = s.ports := rfl
@[simp] theorem State.updChan_combs (s : State) (c : ChanId) (f : Channel → Channel) : (s.updChan c f).combs = s.combs := rfl
@[simp] theorem State.updChan_savedAt (s : State) (c : ChanId) (f : Channel → Channel) : (s.updChan c f).savedAt = s.savedAt := rfl
@[simp] theorem State.updChan_bridges (s : State) (c : ChanId) (f : Channel → Channel) : (s.updChan c f).bridges = s.bridges := rfl
@[simp] theorem State.updChan_src (s : State) (c : ChanId) (f : Channel → Channel) : (s.updChan c f).src = s.src := rfl
@[simp] theorem State.updChan_nextOp (s : State) (c : ChanId) (f : Channel → Channel) : (s.updChan c f).nextOp = s.nextOp := rfl
@[simp] theorem State.updChan_combines (s : State) (c : ChanId) (f : Channel → Channel) : (s.updChan c f).combines = s.combines := rfl
@[simp] theorem State.updChan_ctlFt (s : State) (c : ChanId) (f : Channel → Channel) : (s.updChan c f).ctlFt = s.ctlFt := rfl
@[simp] theorem State.updChan_edgeFt (s : State) (c : ChanId) (f : Channel → Channel) : (s.updChan c f).edgeFt = s.edgeFt := rfl
@[simp] theorem State.updChan_pause (s : State) (c : ChanId) (f : Channel → Channel) : (s.updChan c f).pause = s.pause := rfl
@[simp] theorem State.updChan_holder (s : State) (c : ChanId) (f : Channel → Channel) : (s.updChan c f).holder = s.holder := rfl
@[simp] theorem State.updChan_disabled (s : State) (c : ChanId) (f : Channel → Channel) : (s.updChan c f).disabled = s.disabled := rfl
@[simp] theorem State.updChan_vendor (s : State) (c : ChanId) (f : Channel → Channel) : (s.updChan c f).vendor = s.vendor := rfl
@[simp] theorem State.updChan_rom (s : State) (c : ChanId) (f : Channel → Channel) : (s.updChan c f).rom = s.rom := rfl
@[simp] theorem State.updChan_leaseEpoch (s : State) (c : ChanId) (f : Channel → Channel) : (s.updChan c f).leaseEpoch = s.leaseEpoch := rfl
@[simp] theorem State.updChan_mgrEpoch (s : State) (c : ChanId) (f : Channel → Channel) : (s.updChan c f).mgrEpoch = s.mgrEpoch := rfl
@[simp] theorem State.updChan_mgr (s : State) (c : ChanId) (f : Channel → Channel) : (s.updChan c f).mgr = s.mgr := rfl
@[simp] theorem State.updChan_health (s : State) (c : ChanId) (f : Channel → Channel) : (s.updChan c f).health = s.health := rfl
@[simp] theorem State.updChan_sec (s : State) (c : ChanId) (f : Channel → Channel) : (s.updChan c f).sec = s.sec := rfl
@[simp] theorem State.updChan_quires (s : State) (c : ChanId) (f : Channel → Channel) : (s.updChan c f).quires = s.quires := rfl
@[simp] theorem State.updChan_time (s : State) (c : ChanId) (f : Channel → Channel) : (s.updChan c f).time = s.time := rfl
@[simp] theorem State.updChan_gut (s : State) (c : ChanId) (f : Channel → Channel) : (s.updChan c f).gut = s.gut := rfl
@[simp] theorem State.updChan_frz (s : State) (c : ChanId) (f : Channel → Channel) : (s.updChan c f).frz = s.frz := rfl
@[simp] theorem State.updChan_log (s : State) (c : ChanId) (f : Channel → Channel) : (s.updChan c f).log = s.log := rfl
@[simp] theorem State.updChan_topo (s : State) (c : ChanId) (f : Channel → Channel) : (s.updChan c f).topo = s.topo := rfl
@[simp] theorem State.updChan_can (s : State) (c : ChanId) (f : Channel → Channel) : (s.updChan c f).can = s.can := rfl
@[simp] theorem State.updChan_power (s : State) (c : ChanId) (f : Channel → Channel) : (s.updChan c f).power = s.power := rfl
@[simp] theorem State.updChan_boot (s : State) (c : ChanId) (f : Channel → Channel) : (s.updChan c f).boot = s.boot := rfl
@[simp] theorem State.updChan_flash (s : State) (c : ChanId) (f : Channel → Channel) : (s.updChan c f).flash = s.flash := rfl
@[simp] theorem State.updChan_gov (s : State) (c : ChanId) (f : Channel → Channel) : (s.updChan c f).gov = s.gov := rfl
@[simp] theorem State.updChan_occ (s : State) (c : ChanId) (f : Channel → Channel) : (s.updChan c f).occ = s.occ := rfl
@[simp] theorem State.updChan_pm (s : State) (c : ChanId) (f : Channel → Channel) : (s.updChan c f).pm = s.pm := rfl
@[simp] theorem State.updChan_tap (s : State) (c : ChanId) (f : Channel → Channel) : (s.updChan c f).tap = s.tap := rfl
@[simp] theorem State.updChan_dict (s : State) (c : ChanId) (f : Channel → Channel) : (s.updChan c f).dict = s.dict := rfl

/-! ### send -/

@[simp] theorem State.send_pending (s : State) (o : Out) : (s.send o).pending = s.pending := rfl
@[simp] theorem State.send_free (s : State) (o : Out) : (s.send o).free = s.free := rfl
@[simp] theorem State.send_mono (s : State) (o : Out) : (s.send o).mono = s.mono := rfl
@[simp] theorem State.send_endValid (s : State) (o : Out) : (s.send o).endValid = s.endValid := rfl
@[simp] theorem State.send_endFt (s : State) (o : Out) : (s.send o).endFt = s.endFt := rfl
@[simp] theorem State.send_dies (s : State) (o : Out) : (s.send o).dies = s.dies := rfl
@[simp] theorem State.send_ports (s : State) (o : Out) : (s.send o).ports = s.ports := rfl
@[simp] theorem State.send_combs (s : State) (o : Out) : (s.send o).combs = s.combs := rfl
@[simp] theorem State.send_savedAt (s : State) (o : Out) : (s.send o).savedAt = s.savedAt := rfl
@[simp] theorem State.send_bridges (s : State) (o : Out) : (s.send o).bridges = s.bridges := rfl
@[simp] theorem State.send_src (s : State) (o : Out) : (s.send o).src = s.src := rfl
@[simp] theorem State.send_nextOp (s : State) (o : Out) : (s.send o).nextOp = s.nextOp := rfl
@[simp] theorem State.send_combines (s : State) (o : Out) : (s.send o).combines = s.combines := rfl
@[simp] theorem State.send_ctlFt (s : State) (o : Out) : (s.send o).ctlFt = s.ctlFt := rfl
@[simp] theorem State.send_edgeFt (s : State) (o : Out) : (s.send o).edgeFt = s.edgeFt := rfl
@[simp] theorem State.send_pause (s : State) (o : Out) : (s.send o).pause = s.pause := rfl
@[simp] theorem State.send_holder (s : State) (o : Out) : (s.send o).holder = s.holder := rfl
@[simp] theorem State.send_disabled (s : State) (o : Out) : (s.send o).disabled = s.disabled := rfl
@[simp] theorem State.send_vendor (s : State) (o : Out) : (s.send o).vendor = s.vendor := rfl
@[simp] theorem State.send_rom (s : State) (o : Out) : (s.send o).rom = s.rom := rfl
@[simp] theorem State.send_leaseEpoch (s : State) (o : Out) : (s.send o).leaseEpoch = s.leaseEpoch := rfl
@[simp] theorem State.send_mgrEpoch (s : State) (o : Out) : (s.send o).mgrEpoch = s.mgrEpoch := rfl
@[simp] theorem State.send_mgr (s : State) (o : Out) : (s.send o).mgr = s.mgr := rfl
@[simp] theorem State.send_health (s : State) (o : Out) : (s.send o).health = s.health := rfl
@[simp] theorem State.send_sec (s : State) (o : Out) : (s.send o).sec = s.sec := rfl
@[simp] theorem State.send_quires (s : State) (o : Out) : (s.send o).quires = s.quires := rfl
@[simp] theorem State.send_time (s : State) (o : Out) : (s.send o).time = s.time := rfl
@[simp] theorem State.send_gut (s : State) (o : Out) : (s.send o).gut = s.gut := rfl
@[simp] theorem State.send_frz (s : State) (o : Out) : (s.send o).frz = s.frz := rfl
@[simp] theorem State.send_log (s : State) (o : Out) : (s.send o).log = s.log := rfl
@[simp] theorem State.send_topo (s : State) (o : Out) : (s.send o).topo = s.topo := rfl
@[simp] theorem State.send_host (s : State) (o : Out) : (s.send o).host = s.host := rfl
@[simp] theorem State.send_can (s : State) (o : Out) : (s.send o).can = s.can := rfl
@[simp] theorem State.send_power (s : State) (o : Out) : (s.send o).power = s.power := rfl
@[simp] theorem State.send_boot (s : State) (o : Out) : (s.send o).boot = s.boot := rfl
@[simp] theorem State.send_flash (s : State) (o : Out) : (s.send o).flash = s.flash := rfl
@[simp] theorem State.send_gov (s : State) (o : Out) : (s.send o).gov = s.gov := rfl
@[simp] theorem State.send_occ (s : State) (o : Out) : (s.send o).occ = s.occ := rfl
@[simp] theorem State.send_pm (s : State) (o : Out) : (s.send o).pm = s.pm := rfl
@[simp] theorem State.send_tap (s : State) (o : Out) : (s.send o).tap = s.tap := rfl
@[simp] theorem State.send_dict (s : State) (o : Out) : (s.send o).dict = s.dict := rfl

/-! ### sendAll -/

@[simp] theorem State.sendAll_pending (s : State) (os : List Out) : (s.sendAll os).pending = s.pending := rfl
@[simp] theorem State.sendAll_free (s : State) (os : List Out) : (s.sendAll os).free = s.free := rfl
@[simp] theorem State.sendAll_mono (s : State) (os : List Out) : (s.sendAll os).mono = s.mono := rfl
@[simp] theorem State.sendAll_endValid (s : State) (os : List Out) : (s.sendAll os).endValid = s.endValid := rfl
@[simp] theorem State.sendAll_endFt (s : State) (os : List Out) : (s.sendAll os).endFt = s.endFt := rfl
@[simp] theorem State.sendAll_dies (s : State) (os : List Out) : (s.sendAll os).dies = s.dies := rfl
@[simp] theorem State.sendAll_ports (s : State) (os : List Out) : (s.sendAll os).ports = s.ports := rfl
@[simp] theorem State.sendAll_combs (s : State) (os : List Out) : (s.sendAll os).combs = s.combs := rfl
@[simp] theorem State.sendAll_savedAt (s : State) (os : List Out) : (s.sendAll os).savedAt = s.savedAt := rfl
@[simp] theorem State.sendAll_bridges (s : State) (os : List Out) : (s.sendAll os).bridges = s.bridges := rfl
@[simp] theorem State.sendAll_src (s : State) (os : List Out) : (s.sendAll os).src = s.src := rfl
@[simp] theorem State.sendAll_nextOp (s : State) (os : List Out) : (s.sendAll os).nextOp = s.nextOp := rfl
@[simp] theorem State.sendAll_combines (s : State) (os : List Out) : (s.sendAll os).combines = s.combines := rfl
@[simp] theorem State.sendAll_ctlFt (s : State) (os : List Out) : (s.sendAll os).ctlFt = s.ctlFt := rfl
@[simp] theorem State.sendAll_edgeFt (s : State) (os : List Out) : (s.sendAll os).edgeFt = s.edgeFt := rfl
@[simp] theorem State.sendAll_pause (s : State) (os : List Out) : (s.sendAll os).pause = s.pause := rfl
@[simp] theorem State.sendAll_holder (s : State) (os : List Out) : (s.sendAll os).holder = s.holder := rfl
@[simp] theorem State.sendAll_disabled (s : State) (os : List Out) : (s.sendAll os).disabled = s.disabled := rfl
@[simp] theorem State.sendAll_vendor (s : State) (os : List Out) : (s.sendAll os).vendor = s.vendor := rfl
@[simp] theorem State.sendAll_rom (s : State) (os : List Out) : (s.sendAll os).rom = s.rom := rfl
@[simp] theorem State.sendAll_leaseEpoch (s : State) (os : List Out) : (s.sendAll os).leaseEpoch = s.leaseEpoch := rfl
@[simp] theorem State.sendAll_mgrEpoch (s : State) (os : List Out) : (s.sendAll os).mgrEpoch = s.mgrEpoch := rfl
@[simp] theorem State.sendAll_mgr (s : State) (os : List Out) : (s.sendAll os).mgr = s.mgr := rfl
@[simp] theorem State.sendAll_health (s : State) (os : List Out) : (s.sendAll os).health = s.health := rfl
@[simp] theorem State.sendAll_sec (s : State) (os : List Out) : (s.sendAll os).sec = s.sec := rfl
@[simp] theorem State.sendAll_quires (s : State) (os : List Out) : (s.sendAll os).quires = s.quires := rfl
@[simp] theorem State.sendAll_time (s : State) (os : List Out) : (s.sendAll os).time = s.time := rfl
@[simp] theorem State.sendAll_gut (s : State) (os : List Out) : (s.sendAll os).gut = s.gut := rfl
@[simp] theorem State.sendAll_frz (s : State) (os : List Out) : (s.sendAll os).frz = s.frz := rfl
@[simp] theorem State.sendAll_log (s : State) (os : List Out) : (s.sendAll os).log = s.log := rfl
@[simp] theorem State.sendAll_topo (s : State) (os : List Out) : (s.sendAll os).topo = s.topo := rfl
@[simp] theorem State.sendAll_host (s : State) (os : List Out) : (s.sendAll os).host = s.host := rfl
@[simp] theorem State.sendAll_can (s : State) (os : List Out) : (s.sendAll os).can = s.can := rfl
@[simp] theorem State.sendAll_power (s : State) (os : List Out) : (s.sendAll os).power = s.power := rfl
@[simp] theorem State.sendAll_boot (s : State) (os : List Out) : (s.sendAll os).boot = s.boot := rfl
@[simp] theorem State.sendAll_flash (s : State) (os : List Out) : (s.sendAll os).flash = s.flash := rfl
@[simp] theorem State.sendAll_gov (s : State) (os : List Out) : (s.sendAll os).gov = s.gov := rfl
@[simp] theorem State.sendAll_occ (s : State) (os : List Out) : (s.sendAll os).occ = s.occ := rfl
@[simp] theorem State.sendAll_pm (s : State) (os : List Out) : (s.sendAll os).pm = s.pm := rfl
@[simp] theorem State.sendAll_tap (s : State) (os : List Out) : (s.sendAll os).tap = s.tap := rfl
@[simp] theorem State.sendAll_dict (s : State) (os : List Out) : (s.sendAll os).dict = s.dict := rfl

/-! ### Die.updCtx -/

@[simp] theorem Die.updCtx_ft (x : Die) (c : CtxId) (f : Ctx → Ctx) : (x.updCtx c f).ft = x.ft := rfl
@[simp] theorem Die.updCtx_cycles (x : Die) (c : CtxId) (f : Ctx → Ctx) : (x.updCtx c f).cycles = x.cycles := rfl
@[simp] theorem Die.updCtx_cyclePhase (x : Die) (c : CtxId) (f : Ctx → Ctx) : (x.updCtx c f).cyclePhase = x.cyclePhase := rfl
@[simp] theorem Die.updCtx_startPair (x : Die) (c : CtxId) (f : Ctx → Ctx) : (x.updCtx c f).startPair = x.startPair := rfl
@[simp] theorem Die.updCtx_presence (x : Die) (c : CtxId) (f : Ctx → Ctx) : (x.updCtx c f).presence = x.presence := rfl
@[simp] theorem Die.updCtx_quire (x : Die) (c : CtxId) (f : Ctx → Ctx) : (x.updCtx c f).quire = x.quire := rfl
@[simp] theorem Die.updCtx_lastQuire (x : Die) (c : CtxId) (f : Ctx → Ctx) : (x.updCtx c f).lastQuire = x.lastQuire := rfl
@[simp] theorem Die.updCtx_zeroing (x : Die) (c : CtxId) (f : Ctx → Ctx) : (x.updCtx c f).zeroing = x.zeroing := rfl
@[simp] theorem Die.updCtx_joining (x : Die) (c : CtxId) (f : Ctx → Ctx) : (x.updCtx c f).joining = x.joining := rfl
@[simp] theorem Die.updCtx_left (x : Die) (c : CtxId) (f : Ctx → Ctx) : (x.updCtx c f).left = x.left := rfl
@[simp] theorem Die.updCtx_epoch (x : Die) (c : CtxId) (f : Ctx → Ctx) : (x.updCtx c f).epoch = x.epoch := rfl
@[simp] theorem Die.updCtx_boundary (x : Die) (c : CtxId) (f : Ctx → Ctx) : (x.updCtx c f).boundary = x.boundary := rfl
@[simp] theorem Die.updCtx_so (x : Die) (c : CtxId) (f : Ctx → Ctx) : (x.updCtx c f).so = x.so := rfl
@[simp] theorem Die.updCtx_rel (x : Die) (c : CtxId) (f : Ctx → Ctx) : (x.updCtx c f).rel = x.rel := rfl
@[simp] theorem Die.updCtx_unit (x : Die) (c : CtxId) (f : Ctx → Ctx) : (x.updCtx c f).unit = x.unit := rfl
@[simp] theorem Die.updCtx_mx (x : Die) (c : CtxId) (f : Ctx → Ctx) : (x.updCtx c f).mx = x.mx := rfl
@[simp] theorem Die.updCtx_flags (x : Die) (c : CtxId) (f : Ctx → Ctx) : (x.updCtx c f).flags = x.flags := rfl
@[simp] theorem Die.updCtx_testLast (x : Die) (c : CtxId) (f : Ctx → Ctx) : (x.updCtx c f).testLast = x.testLast := rfl
@[simp] theorem Die.updCtx_roundFt (x : Die) (c : CtxId) (f : Ctx → Ctx) : (x.updCtx c f).roundFt = x.roundFt := rfl
@[simp] theorem Die.updCtx_intakeFrozen (x : Die) (c : CtxId) (f : Ctx → Ctx) : (x.updCtx c f).intakeFrozen = x.intakeFrozen := rfl
@[simp] theorem Die.updCtx_leaseEpoch (x : Die) (c : CtxId) (f : Ctx → Ctx) : (x.updCtx c f).leaseEpoch = x.leaseEpoch := rfl
@[simp] theorem Die.updCtx_leaseHolder (x : Die) (c : CtxId) (f : Ctx → Ctx) : (x.updCtx c f).leaseHolder = x.leaseHolder := rfl
@[simp] theorem Die.updCtx_renewedAt (x : Die) (c : CtxId) (f : Ctx → Ctx) : (x.updCtx c f).renewedAt = x.renewedAt := rfl
@[simp] theorem Die.updCtx_leaseLimit (x : Die) (c : CtxId) (f : Ctx → Ctx) : (x.updCtx c f).leaseLimit = x.leaseLimit := rfl
@[simp] theorem Die.updCtx_leaseExpired (x : Die) (c : CtxId) (f : Ctx → Ctx) : (x.updCtx c f).leaseExpired = x.leaseExpired := rfl
@[simp] theorem Die.updCtx_dram (x : Die) (c : CtxId) (f : Ctx → Ctx) : (x.updCtx c f).dram = x.dram := rfl
@[simp] theorem Die.updCtx_sram (x : Die) (c : CtxId) (f : Ctx → Ctx) : (x.updCtx c f).sram = x.sram := rfl
@[simp] theorem Die.updCtx_badDram (x : Die) (c : CtxId) (f : Ctx → Ctx) : (x.updCtx c f).badDram = x.badDram := rfl
@[simp] theorem Die.updCtx_badSram (x : Die) (c : CtxId) (f : Ctx → Ctx) : (x.updCtx c f).badSram = x.badSram := rfl
@[simp] theorem Die.updCtx_corrected (x : Die) (c : CtxId) (f : Ctx → Ctx) : (x.updCtx c f).corrected = x.corrected := rfl
@[simp] theorem Die.updCtx_chanMap (x : Die) (c : CtxId) (f : Ctx → Ctx) : (x.updCtx c f).chanMap = x.chanMap := rfl
@[simp] theorem Die.updCtx_memCounts (x : Die) (c : CtxId) (f : Ctx → Ctx) : (x.updCtx c f).memCounts = x.memCounts := rfl
@[simp] theorem Die.updCtx_dirty (x : Die) (c : CtxId) (f : Ctx → Ctx) : (x.updCtx c f).dirty = x.dirty := rfl
@[simp] theorem Die.updCtx_copied (x : Die) (c : CtxId) (f : Ctx → Ctx) : (x.updCtx c f).copied = x.copied := rfl
@[simp] theorem Die.updCtx_slots (x : Die) (c : CtxId) (f : Ctx → Ctx) : (x.updCtx c f).slots = x.slots := rfl
@[simp] theorem Die.updCtx_splan (x : Die) (c : CtxId) (f : Ctx → Ctx) : (x.updCtx c f).splan = x.splan := rfl
@[simp] theorem Die.updCtx_splanBad (x : Die) (c : CtxId) (f : Ctx → Ctx) : (x.updCtx c f).splanBad = x.splanBad := rfl
@[simp] theorem Die.updCtx_snapNew (x : Die) (c : CtxId) (f : Ctx → Ctx) : (x.updCtx c f).snapNew = x.snapNew := rfl
@[simp] theorem Die.updCtx_snapOld (x : Die) (c : CtxId) (f : Ctx → Ctx) : (x.updCtx c f).snapOld = x.snapOld := rfl
@[simp] theorem Die.updCtx_tracked (x : Die) (c : CtxId) (f : Ctx → Ctx) : (x.updCtx c f).tracked = x.tracked := rfl
@[simp] theorem Die.updCtx_recs (x : Die) (c : CtxId) (f : Ctx → Ctx) : (x.updCtx c f).recs = x.recs := rfl
@[simp] theorem Die.updCtx_results (x : Die) (c : CtxId) (f : Ctx → Ctx) : (x.updCtx c f).results = x.results := rfl
@[simp] theorem Die.updCtx_horizon (x : Die) (c : CtxId) (f : Ctx → Ctx) : (x.updCtx c f).horizon = x.horizon := rfl
@[simp] theorem Die.updCtx_inbound (x : Die) (c : CtxId) (f : Ctx → Ctx) : (x.updCtx c f).inbound = x.inbound := rfl
@[simp] theorem Die.updCtx_hotAt (x : Die) (c : CtxId) (f : Ctx → Ctx) : (x.updCtx c f).hotAt = x.hotAt := rfl
@[simp] theorem Die.updCtx_cutHold (x : Die) (c : CtxId) (f : Ctx → Ctx) : (x.updCtx c f).cutHold = x.cutHold := rfl
@[simp] theorem Die.updCtx_latent (x : Die) (c : CtxId) (f : Ctx → Ctx) : (x.updCtx c f).latent = x.latent := rfl
@[simp] theorem Die.updCtx_remCounts (x : Die) (c : CtxId) (f : Ctx → Ctx) : (x.updCtx c f).remCounts = x.remCounts := rfl
@[simp] theorem Die.updCtx_copy (x : Die) (c : CtxId) (f : Ctx → Ctx) : (x.updCtx c f).copy = x.copy := rfl
@[simp] theorem Die.updCtx_lanes (x : Die) (c : CtxId) (f : Ctx → Ctx) : (x.updCtx c f).lanes = x.lanes := rfl
@[simp] theorem Die.updCtx_temp (x : Die) (c : CtxId) (f : Ctx → Ctx) : (x.updCtx c f).temp = x.temp := rfl
@[simp] theorem Die.updCtx_band (x : Die) (c : CtxId) (f : Ctx → Ctx) : (x.updCtx c f).band = x.band := rfl
@[simp] theorem Die.updCtx_step (x : Die) (c : CtxId) (f : Ctx → Ctx) : (x.updCtx c f).step = x.step := rfl
@[simp] theorem Die.updCtx_residency (x : Die) (c : CtxId) (f : Ctx → Ctx) : (x.updCtx c f).residency = x.residency := rfl
@[simp] theorem Die.updCtx_tempAt (x : Die) (c : CtxId) (f : Ctx → Ctx) : (x.updCtx c f).tempAt = x.tempAt := rfl
@[simp] theorem Die.updCtx_retrain (x : Die) (c : CtxId) (f : Ctx → Ctx) : (x.updCtx c f).retrain = x.retrain := rfl
@[simp] theorem Die.updCtx_retrainFrom (x : Die) (c : CtxId) (f : Ctx → Ctx) : (x.updCtx c f).retrainFrom = x.retrainFrom := rfl
@[simp] theorem Die.updCtx_retrainWait (x : Die) (c : CtxId) (f : Ctx → Ctx) : (x.updCtx c f).retrainWait = x.retrainWait := rfl
@[simp] theorem Die.updCtx_selfRefresh (x : Die) (c : CtxId) (f : Ctx → Ctx) : (x.updCtx c f).selfRefresh = x.selfRefresh := rfl
@[simp] theorem Die.updCtx_retrains (x : Die) (c : CtxId) (f : Ctx → Ctx) : (x.updCtx c f).retrains = x.retrains := rfl
@[simp] theorem Die.updCtx_trainAt (x : Die) (c : CtxId) (f : Ctx → Ctx) : (x.updCtx c f).trainAt = x.trainAt := rfl
@[simp] theorem Die.updCtx_trainFails (x : Die) (c : CtxId) (f : Ctx → Ctx) : (x.updCtx c f).trainFails = x.trainFails := rfl
@[simp] theorem Die.updCtx_resetAt (x : Die) (c : CtxId) (f : Ctx → Ctx) : (x.updCtx c f).resetAt = x.resetAt := rfl
@[simp] theorem Die.updCtx_heldDown (x : Die) (c : CtxId) (f : Ctx → Ctx) : (x.updCtx c f).heldDown = x.heldDown := rfl
@[simp] theorem Die.updCtx_peaks (x : Die) (c : CtxId) (f : Ctx → Ctx) : (x.updCtx c f).peaks = x.peaks := rfl
@[simp] theorem Die.updCtx_trace (x : Die) (c : CtxId) (f : Ctx → Ctx) : (x.updCtx c f).trace = x.trace := rfl
@[simp] theorem Die.updCtx_collCounts (x : Die) (c : CtxId) (f : Ctx → Ctx) : (x.updCtx c f).collCounts = x.collCounts := rfl

/-! ### Reading back -/

@[simp] theorem State.send_wire (s : State) (o : Out) : (s.send o).wire = s.wire ++ [o] := rfl

@[simp] theorem State.sendAll_wire (s : State) (os : List Out) : (s.sendAll os).wire = s.wire ++ os := rfl

theorem State.die_setDie (s : State) (d e : DieId) (x : Die) : (s.setDie d x).die e = if e = d then x else s.die e := by
  simp only [State.die, State.setDie, Fin.getElem_fin, Vector.getElem_set, Fin.ext_iff, eq_comm]

theorem State.die_updDie (s : State) (d e : DieId) (f : Die → Die) : (s.updDie d f).die e = if e = d then f (s.die d) else s.die e := by
  simp only [State.updDie, State.die_setDie]

@[simp] theorem State.die_setDie_self (s : State) (d : DieId) (x : Die) : (s.setDie d x).die d = x := by simp [State.die_setDie]

@[simp] theorem State.die_updDie_self (s : State) (d : DieId) (f : Die → Die) : (s.updDie d f).die d = f (s.die d) := by
  simp [State.die_updDie]

theorem State.port_updPort (s : State) (p r : PortId) (f : Port → Port) :
    (s.updPort p f).port r = if r = p then f (s.port p) else s.port r := by
  simp only [State.port, State.updPort, Fin.getElem_fin, Vector.getElem_set, Fin.ext_iff, eq_comm]

@[simp] theorem State.port_updPort_self (s : State) (p : PortId) (f : Port → Port) : (s.updPort p f).port p = f (s.port p) := by
  simp [State.port_updPort]

theorem State.quire_updQuire (s : State) (k j : Fin 4) (f : Quire → Quire) :
    (s.updQuire k f).quire j = if j = k then f (s.quire k) else s.quire j := by
  simp only [State.quire, State.updQuire, Fin.getElem_fin, Vector.getElem_set, Fin.ext_iff, eq_comm]

@[simp] theorem State.quire_updQuire_self (s : State) (k : Fin 4) (f : Quire → Quire) : (s.updQuire k f).quire k = f (s.quire k) := by
  simp [State.quire_updQuire]

theorem State.chan_updChan (s : State) (c e : ChanId) (f : Channel → Channel) :
    (s.updChan c f).chan e = if e = c then f (s.chan c) else s.chan e := by
  simp only [State.chan, State.updChan, Fin.getElem_fin, Vector.getElem_set, Fin.ext_iff, eq_comm]

@[simp] theorem State.chan_updChan_self (s : State) (c : ChanId) (f : Channel → Channel) : (s.updChan c f).chan c = f (s.chan c) := by
  simp [State.chan_updChan]

theorem Die.getCtx_updCtx (x : Die) (c e : CtxId) (f : Ctx → Ctx) :
    (x.updCtx c f).getCtx e = if e = c then f (x.getCtx c) else x.getCtx e := by
  simp only [Die.getCtx, Die.updCtx, Fin.getElem_fin, Vector.getElem_set, Fin.ext_iff, eq_comm]

theorem State.getCtx_updCtx (s : State) (d e : DieId) (c k : CtxId) (f : Ctx → Ctx) :
    (s.updCtx d c f).getCtx e k = if e = d ∧ k = c then f (s.getCtx d c) else s.getCtx e k := by
  simp only [State.getCtx, State.updCtx, State.die_updDie]
  by_cases h : e = d
  · subst h; simp [Die.getCtx_updCtx]
  · simp [h]

@[simp] theorem State.getCtx_updCtx_self (s : State) (d : DieId) (c : CtxId) (f : Ctx → Ctx) :
    (s.updCtx d c f).getCtx d c = f (s.getCtx d c) := by simp [State.getCtx_updCtx]

theorem State.queue_updQueue (s : State) (q r : QueueId) (f : Queue → Queue) :
    (s.updQueue q f).queue r = if r = q then f (s.queue q) else s.queue r := by
  obtain ⟨d, c, k⟩ := q
  obtain ⟨d', c', k'⟩ := r
  simp only [State.queue, State.updQueue, State.getCtx_updCtx, QueueId.mk.injEq]
  by_cases h : d' = d ∧ c' = c
  · obtain ⟨rfl, rfl⟩ := h
    simp only [and_self, if_true, true_and, Fin.getElem_fin, Vector.getElem_set, Fin.ext_iff, eq_comm]
  · have h' : ¬(d' = d ∧ c' = c ∧ k' = k) := fun e => h ⟨e.1, e.2.1⟩
    simp only [if_neg h, if_neg h']

@[simp] theorem State.queue_updQueue_self (s : State) (q : QueueId) (f : Queue → Queue) : (s.updQueue q f).queue q = f (s.queue q) := by
  simp [State.queue_updQueue]

theorem State.getUnit_updUnit (s : State) (d e : DieId) (u v : UnitId) (f : UnitSt → UnitSt) :
    (s.updUnit d u f).getUnit e v = if e = d ∧ v = u then f (s.getUnit d u) else s.getUnit e v := by
  simp only [State.getUnit, State.updUnit, State.die_updDie]
  by_cases h : e = d
  · subst h; simp [Vector.getElem_set, Fin.ext_iff, eq_comm]
  · simp [h]

end Sys2Proof.Machine
end

