-- ==== Sys2Proof/Laws/Ops.lean ====
section
/-! SUPPORT. What the shared operations can do: the trace and event operations touch only the trace, the log, the wire and the
mark of an invalid interval. -/

namespace Sys2Proof.Machine

/-! ### Trace, events and reports -/

/-- What recording an event may change: the trace of dies, the invalid mark of quires, the log and the wire. -/
def State.Quiet (s t : State) : Prop :=
  t = { s with dies := t.dies, quires := t.quires, log := t.log, wire := t.wire }
    ∧ (∀ d, t.die d = { s.die d with trace := (t.die d).trace })
    ∧ ∀ k, t.quire k = { s.quire k with invalid := (t.quire k).invalid }

theorem State.Quiet.refl (s : State) : s.Quiet s := ⟨rfl, fun _ => rfl, fun _ => rfl⟩

theorem State.Quiet.trans {s t u : State} (h : s.Quiet t) (g : t.Quiet u) : s.Quiet u := by
  obtain ⟨h1, h2, h3⟩ := h
  obtain ⟨g1, g2, g3⟩ := g
  refine ⟨?_, fun d => ?_, fun k => ?_⟩
  · rw [g1, h1]
  · rw [g2, h2]
  · rw [g3, h3]

theorem State.Quiet.getCtx {s t : State} (h : s.Quiet t) (d : DieId) (c : CtxId) : t.getCtx d c = s.getCtx d c := by
  simp only [State.getCtx, Die.getCtx]; rw [h.2.1 d]

theorem State.Quiet.queue {s t : State} (h : s.Quiet t) (q : QueueId) : t.queue q = s.queue q := by
  simp only [State.queue, h.getCtx]

theorem State.Quiet.byteAt {s t : State} (h : s.Quiet t) (p : Place) : t.byteAt p = s.byteAt p := by
  simp only [State.byteAt, Die.mem]; rw [h.2.1 p.die]

theorem State.Quiet.obj {s t : State} (h : s.Quiet t) (d : DieId) (o : Nat) : (t.die d).obj o = (s.die d).obj o := by
  simp only [Die.obj]; rw [h.2.1 d]

theorem State.Quiet.now {s t : State} (h : s.Quiet t) : t.now = s.now := by rw [h.1]; rfl

theorem State.Quiet.dict {s t : State} (h : s.Quiet t) : t.dict = s.dict := by rw [h.1]

theorem State.Quiet.pending {s t : State} (h : s.Quiet t) : t.pending = s.pending := by rw [h.1]

theorem State.emit_quiet (s : State) (d : DieId) (ty cls u c p : Nat) : s.Quiet (s.emit d ty cls u c p) := by
  unfold State.emit
  split
  · refine ⟨rfl, fun e => ?_, fun _ => rfl⟩
    simp only [State.die_updDie]
    split
    · next h => rw [h]
    · rfl
  · exact .refl s

theorem State.emitEvent_quiet (s : State) (code u : Nat) (c : Option Nat) : s.Quiet (s.emitEvent code u c) := by
  unfold State.emitEvent
  split
  · exact State.emit_quiet ..
  · exact .refl s

theorem State.send_quiet (s : State) (o : Out) : s.Quiet (s.send o) := ⟨rfl, fun _ => rfl, fun _ => rfl⟩

theorem State.sendMgmt_quiet (s : State) (c : CtlId) (o : Out) : s.Quiet (s.sendMgmt c o) := by
  unfold State.sendMgmt; split
  · exact State.send_quiet ..
  · exact .refl s

@[simp] theorem State.sendMgmt_quires (s : State) (c : CtlId) (o : Out) : (s.sendMgmt c o).quires = s.quires := by
  unfold State.sendMgmt; split <;> rfl

theorem State.sendAll_quiet (s : State) (os : List Out) : s.Quiet (s.sendAll os) := ⟨rfl, fun _ => rfl, fun _ => rfl⟩

theorem State.log_quiet (s : State) (l : EventLog) : s.Quiet { s with log := l } := ⟨rfl, fun _ => rfl, fun _ => rfl⟩

theorem State.eventPaths_quiet (s : State) (e : Event) : s.Quiet (s.eventPaths e) := by
  unfold State.eventPaths
  dsimp only
  repeat' split
  · exact .refl s
  · exact (State.log_quiet s _).trans (State.send_quiet ..)
  · exact ((State.log_quiet s _).trans (State.send_quiet ..)).trans (State.sendMgmt_quiet ..)
  · exact .refl s
  · exact State.sendMgmt_quiet ..

theorem State.eventPaths_quires (s : State) (e : Event) : (s.eventPaths e).quires = s.quires := by
  unfold State.eventPaths
  dsimp only
  repeat' split
  all_goals first | rfl | (simp only [State.sendMgmt_quires]; done) | (simp only [State.sendMgmt_quires]; rfl)

theorem State.emit_quires (s : State) (d : DieId) (ty cls u c p : Nat) : (s.emit d ty cls u c p).quires = s.quires := by
  unfold State.emit; split <;> rfl

theorem State.record_quiet (s : State) (c : Cause) : s.Quiet (s.record c) := by
  unfold State.record
  refine (State.emitEvent_quiet s c.code c.unit c.ctx).trans ?_
  dsimp only
  split
  · exact State.log_quiet ..
  · exact (State.log_quiet ..).trans (State.eventPaths_quiet ..)

theorem State.sendMgr_quiet (s : State) (r : MgmtRecord) : s.Quiet (s.sendMgr r) := by
  unfold State.sendMgr; dsimp only; split
  · exact .refl s
  · exact State.sendMgmt_quiet ..

theorem State.mark_quiet (s : State) (k : Fin 4) (b : Bool) : s.Quiet (s.updQuire k fun x => { x with invalid := b }) := by
  refine ⟨rfl, fun _ => rfl, fun j => ?_⟩
  simp only [State.quire_updQuire]
  split
  · next h => rw [h]
  · rfl

theorem State.invalidate_quiet (s : State) (k : Fin 4) (code : Nat) : s.Quiet (s.invalidate k code) := by
  unfold State.invalidate; split
  · exact .refl s
  · exact ((State.mark_quiet ..).trans (State.record_quiet ..)).trans (State.sendMgr_quiet ..)

/-- Raising an event changes only traces, marks of invalid intervals, the log and the wire. -/
theorem State.raise_quiet (s : State) (c : Cause) : s.Quiet (s.raise c) := by
  unfold State.raise; dsimp only; split
  · split
    · exact (State.record_quiet ..).trans (State.invalidate_quiet ..)
    · exact State.record_quiet ..
  · exact State.record_quiet ..

theorem State.raiseAll_quiet (s : State) (cs : List Cause) : s.Quiet (s.raiseAll cs) := by
  unfold State.raiseAll
  induction cs generalizing s with
  | nil => exact .refl s
  | cons c cs ih => exact (State.raise_quiet s c).trans (ih _)

theorem State.record_quires (s : State) (c : Cause) : (s.record c).quires = s.quires := by
  unfold State.record State.emitEvent
  dsimp only
  split <;> split <;> simp [State.eventPaths_quires, State.emit_quires]

/-- After it the quire's interval is invalid. -/
theorem State.invalidate_marks (s : State) (k : Fin 4) (code : Nat) : ((s.invalidate k code).quire k).invalid = true := by
  unfold State.invalidate
  split
  · next h => exact h
  · have h : ((((s.updQuire k fun x => { x with invalid := true }).record { code := 0x0815, unit := uQuire k, detail := code }).quire k).invalid)
        = true := by simp [State.quire, State.record_quires, State.updQuire]
    unfold State.sendMgr
    dsimp only
    split
    · exact h
    · simpa only [State.quire, State.sendMgmt_quires] using h

end Sys2Proof.Machine
end

