-- ==== Sys2Proof/Laws/Memory.lean ====
section
/-! SUPPORT. Memory and objects: what a write reads back as, and that every memory operation keeps the canonical form. -/

namespace Sys2Proof.Machine

open Sys2Proof (SMap)

/-! ### One memory -/

theorem takeWhile_holds {α : Type} (p : α → Bool) (xs : List α) (c : α) (h : c ∈ xs.takeWhile p) : p c = true := by
  induction xs with
  | nil => simp at h
  | cons x xs ih =>
    simp only [List.takeWhile_cons] at h
    split at h
    · rcases List.mem_cons.mp h with h | h
      · rw [h]; assumption
      · exact ih h
    · simp at h

theorem cellsOf_sorted (bs : List Byte) (a lo : Nat) (l : lo ≤ a) : SMap.sorted (cellsOf a bs) lo = true := by
  induction bs generalizing a lo with
  | nil => rfl
  | cons b bs ih =>
    simp only [cellsOf]
    split
    · exact ih _ _ (by omega)
    · simp [SMap.sorted, l, ih (a + 1) (a + 1) (Nat.le_refl _)]

theorem cellsOf_mem (bs : List Byte) (a : Nat) (c : Nat × Byte) (h : c ∈ cellsOf a bs) : c.2 ≠ 0 ∧ a ≤ c.1 ∧ c.1 < a + bs.length := by
  induction bs generalizing a with
  | nil => simp [cellsOf] at h
  | cons b bs ih =>
    simp only [cellsOf] at h
    split at h
    · have := ih _ h; simp only [List.length_cons]; exact ⟨this.1, by omega, by omega⟩
    · rcases List.mem_cons.mp h with h | h
      · subst h; simp_all
      · have := ih _ h; simp only [List.length_cons]; exact ⟨this.1, by omega, by omega⟩

theorem get_cellsOf (bs : List Byte) (a b : Nat) : SMap.get 0 (cellsOf a bs) b = if a ≤ b then bs.getD (b - a) 0 else 0 := by
  induction bs generalizing a with
  | nil => simp [cellsOf, SMap.get]
  | cons x bs ih =>
    simp only [cellsOf]
    by_cases e : b = a
    · subst e
      split
      · next hx => rw [ih, if_neg (by omega)]; simp [hx]
      · simp [SMap.get]
    · have : (if a + 1 ≤ b then bs.getD (b - (a + 1)) 0 else 0) = if a ≤ b then (x :: bs).getD (b - a) 0 else 0 := by
        by_cases l : a + 1 ≤ b
        · obtain ⟨k, hk⟩ : ∃ k, b - a = k + 1 := ⟨b - (a + 1), by omega⟩
          rw [if_pos l, if_pos (by omega), hk, show b - (a + 1) = k by omega]; rfl
        · rw [if_neg l, if_neg (by omega)]
      split
      · rw [ih, this]
      · simp only [SMap.get, if_neg e]; rw [ih, this]

theorem sorted_append (m n : SMap Byte) (lo mid : Nat) (hm : SMap.sorted m lo = true) (hn : SMap.sorted n mid = true)
    (h : ∀ c ∈ m, c.1 < mid) (l : lo ≤ mid) : SMap.sorted (m ++ n) lo = true := by
  induction m generalizing lo with
  | nil => exact SMap.sorted_mono n hn l
  | cons c m ih =>
    simp only [SMap.sorted, Bool.and_eq_true, decide_eq_true_eq, List.cons_append] at hm ⊢
    exact ⟨hm.1, ih _ hm.2 (fun d hd => h d (List.mem_cons_of_mem _ hd)) (h c List.mem_cons_self)⟩

theorem sorted_takeWhile (m : SMap Byte) (p : Nat × Byte → Bool) (lo : Nat) (h : SMap.sorted m lo = true) :
    SMap.sorted (m.takeWhile p) lo = true := by
  induction m generalizing lo with
  | nil => rfl
  | cons c m ih =>
    simp only [SMap.sorted, Bool.and_eq_true, decide_eq_true_eq] at h
    simp only [List.takeWhile_cons]
    split
    · simp [SMap.sorted, h.1, ih _ h.2]
    · rfl

theorem sorted_dropWhile (m : SMap Byte) (a lo : Nat) (h : SMap.sorted m lo = true) :
    SMap.sorted (m.dropWhile fun c => decide (c.1 < a)) a = true := by
  induction m generalizing lo with
  | nil => rfl
  | cons c m ih =>
    simp only [SMap.sorted, Bool.and_eq_true, decide_eq_true_eq] at h
    simp only [List.dropWhile_cons]
    split
    · exact ih _ h.2
    · next e => simp only [decide_eq_true_eq, Nat.not_lt] at e; simp [SMap.sorted, e, h.2]

theorem get_append (m n : SMap Byte) (b : Nat) (h : SMap.get 0 m b = 0 → ∀ c ∈ m, c.1 ≠ b) :
    SMap.get 0 (m ++ n) b = if SMap.get 0 m b = 0 then SMap.get 0 n b else SMap.get 0 m b := by
  induction m with
  | nil => simp [SMap.get]
  | cons c m ih =>
    simp only [List.cons_append, SMap.get] at h ⊢
    by_cases e : b = c.1
    · simp only [if_pos e] at h ⊢
      split
      · next hz => exact absurd e.symm (h hz c List.mem_cons_self)
      · rfl
    · simp only [if_neg e] at h ⊢
      exact ih fun hz d hd => h hz d (List.mem_cons_of_mem _ hd)

theorem get_none (m : SMap Byte) (b : Nat) (h : ∀ c ∈ m, c.1 ≠ b) : SMap.get 0 m b = 0 := by
  induction m with
  | nil => rfl
  | cons c m ih =>
    simp only [SMap.get, if_neg (Ne.symm (h c List.mem_cons_self))]
    exact ih fun d hd => h d (List.mem_cons_of_mem _ hd)

theorem get_listed (m : SMap Byte) (b : Nat) (h : ∀ c ∈ m, c.2 ≠ 0) (z : SMap.get 0 m b = 0) : ∀ c ∈ m, c.1 ≠ b := by
  induction m with
  | nil => intro c hc; exact absurd hc (by simp)
  | cons d m ih =>
    simp only [SMap.get] at z
    by_cases e : b = d.1
    · rw [if_pos e] at z; exact absurd z (h d List.mem_cons_self)
    · rw [if_neg e] at z
      intro c hc
      rcases List.mem_cons.mp hc with hc | hc
      · rw [hc]; exact Ne.symm e
      · exact ih (fun x hx => h x (List.mem_cons_of_mem _ hx)) z c hc

theorem get_takeWhile (m : SMap Byte) (a b lo : Nat) (h : SMap.sorted m lo = true) :
    SMap.get 0 (m.takeWhile fun c => decide (c.1 < a)) b = if b < a then SMap.get 0 m b else 0 := by
  induction m generalizing lo with
  | nil => simp [SMap.get]
  | cons c m ih =>
    simp only [SMap.sorted, Bool.and_eq_true, decide_eq_true_eq] at h
    simp only [List.takeWhile_cons]
    by_cases e : c.1 < a
    · simp only [e, decide_true, if_true, SMap.get, ih _ h.2]
      by_cases hb : b = c.1
      · simp [hb, e]
      · simp [hb]
    · simp only [e, decide_false, SMap.get, Bool.false_eq_true, if_false]
      split
      · rw [if_neg (by omega), SMap.get_below 0 m h.2 (by omega)]
      · rfl

theorem get_dropWhile (m : SMap Byte) (a b lo : Nat) (h : SMap.sorted m lo = true) :
    SMap.get 0 (m.dropWhile fun c => decide (c.1 < a)) b = if b < a then 0 else SMap.get 0 m b := by
  induction m generalizing lo with
  | nil => simp [SMap.get]
  | cons c m ih =>
    have h' := h
    simp only [SMap.sorted, Bool.and_eq_true, decide_eq_true_eq] at h
    simp only [List.dropWhile_cons]
    by_cases e : c.1 < a
    · simp only [e, decide_true, if_true, ih _ h.2, SMap.get]
      by_cases hb : b < a
      · simp [hb]
      · rw [if_neg hb, if_neg hb, if_neg (by omega)]
    · simp only [e, decide_false, Bool.false_eq_true, if_false]
      split
      · exact SMap.get_below 0 _ (lo := c.1) (by simp [SMap.sorted, h.2]) (by omega)
      · rfl

/-- A write reads back: the bytes written, and every other byte as before. -/
theorem get_splice (m : SMap Byte) (a b : Nat) (bs : List Byte) (h : SMap.wf 0 m = true) :
    SMap.get 0 (splice m a bs) b = if a ≤ b ∧ b < a + bs.length then bs.getD (b - a) 0 else SMap.get 0 m b := by
  simp only [SMap.wf, Bool.and_eq_true, List.all_eq_true, decide_eq_true_eq] at h
  obtain ⟨hs, hz⟩ := h
  have z1 : ∀ c ∈ m.takeWhile (fun c => decide (c.1 < a)), c.2 ≠ 0 := fun c hc => hz c (List.takeWhile_sublist _ |>.subset hc)
  have z2 : ∀ c ∈ cellsOf a bs, c.2 ≠ 0 := fun c hc => (cellsOf_mem bs a c hc).1
  have z3 : ∀ c ∈ m.takeWhile (fun c => decide (c.1 < a)) ++ cellsOf a bs, c.2 ≠ 0 := by
    intro c hc
    rcases List.mem_append.mp hc with hc | hc
    · exact z1 c hc
    · exact z2 c hc
  unfold splice
  rw [get_append _ _ _ (get_listed _ _ z3), get_append _ _ _ (get_listed _ _ z1), get_takeWhile m a b 0 hs, get_cellsOf,
    get_dropWhile m _ b 0 hs]
  by_cases h1 : b < a
  · rw [if_pos h1, if_neg (by omega : ¬ (a ≤ b ∧ b < a + bs.length)), if_neg (by omega : ¬ a ≤ b), if_pos (by omega : b < a + bs.length)]
    split <;> simp_all
  · rw [if_neg h1, if_pos rfl, if_pos (by omega : a ≤ b)]
    by_cases h2 : b < a + bs.length
    · have h3 : a ≤ b ∧ b < a + bs.length := ⟨by omega, h2⟩
      simp only [if_pos h2, if_pos h3]
      split
      · next e => exact e.symm
      · rfl
    · rw [if_neg h2, if_neg (by omega : ¬ (a ≤ b ∧ b < a + bs.length))]
      have : bs.getD (b - a) 0 = 0 := by simp [List.getD, List.getElem?_eq_none (show bs.length ≤ b - a by omega)]
      rw [this]; simp

/-- A write keeps the canonical form. -/
theorem wf_splice (m : SMap Byte) (a : Nat) (bs : List Byte) (h : SMap.wf 0 m = true) : SMap.wf 0 (splice m a bs) = true := by
  simp only [SMap.wf, Bool.and_eq_true, List.all_eq_true, decide_eq_true_eq] at h ⊢
  obtain ⟨hs, hz⟩ := h
  unfold splice
  constructor
  · refine sorted_append _ _ 0 (a + bs.length) ?_ (sorted_dropWhile m _ 0 hs) ?_ (by omega)
    · refine sorted_append _ _ 0 a (sorted_takeWhile m _ 0 hs) (cellsOf_sorted bs a a (Nat.le_refl _)) ?_ (by omega)
      intro c hc
      have := takeWhile_holds _ _ _ hc
      simpa using this
    · intro c hc
      rcases List.mem_append.mp hc with hc | hc
      · have := takeWhile_holds _ _ _ hc
        simp only [decide_eq_true_eq] at this; omega
      · exact (cellsOf_mem bs a c hc).2.2
  · intro c hc
    rcases List.mem_append.mp hc with hc | hc
    · rcases List.mem_append.mp hc with hc | hc
      · exact hz c (List.takeWhile_sublist _ |>.subset hc)
      · exact (cellsOf_mem bs a c hc).1
    · exact hz c (List.dropWhile_sublist _ |>.subset hc)

/-- The bytes of an extent, one by one. -/
theorem slice_eq (m : SMap Byte) (a n : Nat) (h : SMap.sorted m 0 = true) :
    slice m a n = (List.range n).map fun i => SMap.get 0 m (a + i) := by
  unfold slice
  refine List.map_congr_left fun i hi => ?_
  have hi := List.mem_range.mp hi
  rw [get_takeWhile _ _ _ a (sorted_dropWhile m a 0 h), get_dropWhile m a _ 0 h, if_pos (by omega), if_neg (by omega)]

/-! ### Dies and the machine -/

theorem Die.put_wf (x : Die) (sram : Bool) (off : Nat) (bs : List Byte) (h : SMap.wf 0 x.dram = true ∧ SMap.wf 0 x.sram = true) :
    SMap.wf 0 (x.put sram off bs).dram = true ∧ SMap.wf 0 (x.put sram off bs).sram = true := by
  unfold Die.put
  split
  · exact ⟨h.1, wf_splice _ _ _ h.2⟩
  · exact ⟨wf_splice _ _ _ h.1, h.2⟩

theorem Die.get_put (x : Die) (sram : Bool) (off b : Nat) (bs : List Byte) (h : SMap.wf 0 (x.mem sram) = true) :
    SMap.get 0 ((x.put sram off bs).mem sram) b = if off ≤ b ∧ b < off + bs.length then bs.getD (b - off) 0 else SMap.get 0 (x.mem sram) b := by
  cases sram
  · exact get_splice x.dram off b bs h
  · exact get_splice x.sram off b bs h

theorem Die.put_other (x : Die) (sram : Bool) (off : Nat) (bs : List Byte) : (x.put sram off bs).mem (!sram) = x.mem (!sram) := by
  unfold Die.put Die.mem; cases sram <;> rfl

theorem Die.put_so (x : Die) (sram : Bool) (off : Nat) (bs : List Byte) : (x.put sram off bs).so = x.so := by
  unfold Die.put; split <;> rfl

theorem Die.put_ctx (x : Die) (sram : Bool) (off : Nat) (bs : List Byte) : (x.put sram off bs).ctx = x.ctx := by
  unfold Die.put; split <;> rfl

/-- A die's three sparse maps are canonical. -/
def Die.canonical (x : Die) : Prop := SMap.wf 0 x.dram = true ∧ SMap.wf 0 x.sram = true ∧ SMap.wf 0 x.so = true

theorem State.canonical_dies {s t : State} (h : s.canonical) (hd : ∀ d, (t.die d).canonical) (h1 : t.dict = s.dict) (h2 : t.flash = s.flash) :
    t.canonical := by
  obtain ⟨_, a, b, c⟩ := h
  exact ⟨hd, h1 ▸ a, h2 ▸ b, h2 ▸ c⟩

theorem State.canonical_setDie {s : State} (h : s.canonical) (d : DieId) (x : Die) (hx : x.canonical) : (s.setDie d x).canonical := by
  refine State.canonical_dies h (fun e => ?_) rfl rfl
  rw [State.die_setDie]; split
  · exact hx
  · exact h.1 e

theorem State.canonical_updDie {s : State} (h : s.canonical) (d : DieId) (f : Die → Die) (hf : (s.die d).canonical → (f (s.die d)).canonical) :
    (s.updDie d f).canonical := State.canonical_setDie h d _ (hf (h.1 d))

/-- Events keep the canonical form. -/
theorem State.Quiet.canonical {s t : State} (q : s.Quiet t) (h : s.canonical) : t.canonical := by
  refine State.canonical_dies h (fun d => ?_) q.dict (by rw [q.1])
  rw [q.2.1 d]; exact h.1 d

theorem Die.put_canonical (x : Die) (sram : Bool) (off : Nat) (bs : List Byte) (h : x.canonical) : (x.put sram off bs).canonical := by
  have := Die.put_wf x sram off bs ⟨h.1, h.2.1⟩
  exact ⟨this.1, this.2, by rw [Die.put_so]; exact h.2.2⟩

theorem State.writePlace_canonical {s : State} (h : s.canonical) (p : Place) (bs : List Byte) : (s.writePlace p bs).1.canonical := by
  refine State.canonical_setDie h p.die _ ?_
  suffices H : ∀ (ps : List (Nat × List Byte)) (x : Die), x.canonical → (ps.foldl (fun x (o, c) => x.put p.sram o c) x).canonical from
    H _ _ (h.1 p.die)
  intro ps
  induction ps with
  | nil => exact fun x hx => hx
  | cons c ps ih => exact fun x hx => ih _ (Die.put_canonical x p.sram c.1 c.2 hx)

theorem writeRuns_canonical (rs : List (Place × Nat)) {s : State} (bs : List Byte) (h : s.canonical) : (writeRuns s rs bs).1.canonical := by
  induction rs generalizing s bs with
  | nil => exact h
  | cons r rs ih => exact ih (bs.drop r.2) (State.writePlace_canonical h r.1 (bs.take r.2))

theorem State.memError_canonical {s : State} (h : s.canonical) (p : Place) : (s.memError p).canonical := by
  unfold State.memError
  split
  · exact (State.raise_quiet ..).canonical (State.canonical_updDie h _ _ fun x => x)
  · have g := State.canonical_updDie h p.die (·.countMem (2 * ((s.die p.die).localChannel p.off).getD 0 + 1)) fun x => x
    dsimp only
    split
    · exact (State.record_quiet ..).canonical g
    · exact (State.record_quiet ..).canonical g
    · exact (State.record_quiet ..).canonical g
    · exact (State.raise_quiet ..).canonical g

theorem State.memErrors_canonical (ps : List Place) {s : State} (h : s.canonical) : (s.memErrors ps).canonical := by
  unfold State.memErrors
  induction ps generalizing s with
  | nil => exact h
  | cons p ps ih => exact ih (State.memError_canonical h p)

theorem State.unreachable_canonical {s : State} (h : s.canonical) (d t : DieId) : (s.unreachable d t).canonical :=
  (State.raise_quiet ..).canonical h

theorem Die.correct_canonical {x : Die} (h : x.canonical) (sram : Bool) (w : Nat) : (x.correct sram w).canonical := by
  unfold Die.correct; dsimp only; split <;> exact h

theorem State.correctIn_canonical {s : State} (h : s.canonical) (p : Place) (n : Nat) : (s.correctIn p n).canonical := by
  unfold State.correctIn
  split
  · exact h
  · refine State.canonical_updDie h p.die _ fun hx => ?_
    generalize (s.die p.die).latentIn p.sram p.off n = ws
    revert hx
    generalize s.die p.die = x
    induction ws generalizing x with
    | nil => exact id
    | cons w ws ih => exact fun hx => ih _ (Die.correct_canonical hx p.sram w)

/-- What a read corrects keeps the canonical form. -/
theorem State.correctRuns_canonical (rs : List (Place × Nat)) {s : State} (h : s.canonical) : (s.correctRuns rs).canonical := by
  unfold State.correctRuns
  induction rs generalizing s with
  | nil => exact h
  | cons r rs ih => exact ih (State.correctIn_canonical h r.1 r.2)

/-- A write of local memory keeps the canonical form, whatever its status. -/
theorem State.writeLocal_canonical {s : State} (h : s.canonical) (d : DieId) (sram : Bool) (off : Nat) (bs : List Byte) :
    (s.writeLocal d sram off bs).1.canonical := by
  unfold State.writeLocal
  have g := writeRuns_canonical (s.localRuns d sram off bs.length) bs h
  split
  · exact h
  · dsimp only
    split
    · exact State.unreachable_canonical h ..
    · split <;> next e => rw [e] at g; first | exact g | exact State.memErrors_canonical _ g

/-- A read keeps the canonical form, whatever its status. -/
theorem State.readLocal_canonical {s : State} (h : s.canonical) (d : DieId) (sram : Bool) (off len : Nat) :
    (s.readLocal d sram off len).1.canonical := by
  unfold State.readLocal
  split
  · exact h
  · dsimp only
    split
    · exact State.unreachable_canonical h ..
    · have g := State.correctRuns_canonical (s.localRuns d sram off len) h
      split
      · exact State.memErrors_canonical _ g
      · exact g

/-- A read of places that hold no correctable word changes nothing. -/
theorem State.correctRuns_same (rs : List (Place × Nat)) (s : State) (h : ∀ r ∈ rs, (s.die r.1.die).latent = []) :
    s.correctRuns rs = s := by
  unfold State.correctRuns
  induction rs with
  | nil => rfl
  | cons r rs ih =>
    have e : s.correctIn r.1 r.2 = s := by
      unfold State.correctIn; rw [h r List.mem_cons_self]; rfl
    simp only [List.foldl_cons]
    rw [e]
    exact ih fun r' hr' => h r' (List.mem_cons_of_mem _ hr')

/-- A read that ends with status 0 leaves the machine as it was, but for the words that it corrects. -/
theorem State.readLocal_same (s : State) (d : DieId) (sram : Bool) (off len : Nat) (h : (s.readLocal d sram off len).2.1 = 0) :
    (s.readLocal d sram off len).1 = s.correctRuns (s.localRuns d sram off len) := by
  unfold State.readLocal at *
  split at h
  · simp at h
  · next hk =>
    rw [if_neg hk]
    dsimp only at h ⊢
    split at h
    · simp at h
    · next e =>
      split at h
      · simp at h
      · next b => simp only [b]; rfl

theorem State.putObj_canonical {s : State} (h : s.canonical) (d : DieId) (o v : Nat) (w : Bool) : (s.putObj d o v w).canonical := by
  unfold State.putObj
  have g : (s.updDie d fun x => { x with so := SMap.set 0 x.so o v }).canonical :=
    State.canonical_updDie h d _ fun x => ⟨x.1, x.2.1, SMap.wf_set 0 _ o v x.2.2⟩
  dsimp only
  split
  · exact (State.raise_quiet ..).canonical g
  · exact g

/-- An object reads back as it was set, and every other object keeps its value. -/
theorem State.obj_putObj (s : State) (d e : DieId) (o p v : Nat) (w : Bool) (h : s.canonical) :
    ((s.putObj d o v w).die e).obj p = if e = d ∧ p = o then v else (s.die e).obj p := by
  have k : ((s.putObj d o v w).die e).obj p = ((s.updDie d fun x => { x with so := SMap.set 0 x.so o v }).die e).obj p := by
    unfold State.putObj; dsimp only; split
    · exact (State.raise_quiet ..).obj e p
    · rfl
  rw [k, State.die_updDie]
  by_cases hd : e = d
  · subst hd
    have hs : SMap.sorted (s.die e).so 0 = true := by
      have := (h.1 e).2.2; simp only [SMap.wf, Bool.and_eq_true] at this; exact this.1
    simp only [if_true, Die.obj, true_and]
    exact SMap.get_set 0 _ o p v hs
  · simp [hd]

theorem State.updQueue_canonical {s : State} (h : s.canonical) (q : QueueId) (f : Queue → Queue) : (s.updQueue q f).canonical :=
  State.canonical_updDie h q.die _ fun x => x

theorem State.haltQueue_canonical {s : State} (h : s.canonical) (q : QueueId) (st : Nat) (p : Pos) : (s.haltQueue q st p).canonical :=
  State.writeLocal_canonical (State.updQueue_canonical h ..) ..

theorem State.soAddFuel_canonical (n : Nat) {s : State} (h : s.canonical) (d : DieId) (o v : Nat) : (State.soAddFuel n s d o v).canonical := by
  induction n generalizing s d o v with
  | zero => exact h
  | succ n ih =>
    unfold State.soAddFuel
    dsimp only
    generalize State.overrun _ d o = qs
    have g := State.putObj_canonical h d o (((s.die d).obj o + v) % 2 ^ 32) (decide (2 ^ 32 ≤ (s.die d).obj o + v))
    revert g
    generalize s.putObj d o _ _ = t
    induction qs generalizing t with
    | nil => exact fun g => g
    | cons q qs iq =>
      intro g
      refine iq _ ?_
      by_cases e : (t.queue q).status ≠ 0
      · simpa only [if_pos e] using g
      · simp only [if_neg e]
        refine (State.raise_quiet ..).canonical ?_
        split
        · exact ih (State.haltQueue_canonical g ..) ..
        · exact State.haltQueue_canonical g ..

theorem State.soAdd_canonical {s : State} (h : s.canonical) (d : DieId) (o v : Nat) : (s.soAdd d o v).canonical :=
  State.soAddFuel_canonical 577 h d o v

theorem State.failAt_canonical {s : State} (h : s.canonical) (q : QueueId) (st : Nat) (p : Pos) : (s.failAt q st p).canonical := by
  unfold State.failAt
  split
  · exact State.updQueue_canonical h ..
  dsimp only
  refine (State.raise_quiet ..).canonical ?_
  have g := State.haltQueue_canonical ((State.emit_quiet s q.die 0x0E 2 (q.slot.val / 4) q.ctx.val
    (st * 2 ^ 32 + (s.queue q).headAt p % 2 ^ 16 * 2 ^ 16 + q.slot.val % 4 * 2 ^ 14)).canonical h) q st p
  split
  · exact State.soAdd_canonical g ..
  · exact g

theorem State.signalAt_canonical {s : State} (h : s.canonical) (d : DieId) (o : Nat) (set : Bool) (v r : Nat) :
    (s.signalAt d o set v r).1.canonical := by
  unfold State.signalAt
  dsimp only
  split
  · exact h
  · split
    · split
      · exact (State.raise_quiet ..).canonical h
      · exact State.canonical_updDie h d _ fun x => x
    · refine (State.emit_quiet ..).canonical ?_
      split
      · exact State.putObj_canonical h ..
      · exact State.soAdd_canonical h ..

theorem State.finish_canonical {s : State} (h : s.canonical) (c : ChanId) (seq st : Nat) (data : List Byte) :
    (s.finish c seq st data).canonical := State.canonical_dies h h.1 rfl rfl

end Sys2Proof.Machine
end

