-- ==== Sys2Proof/WellFormed.lean ====
section
/-! DEFINITION. Which commands are well formed: what they carry fits the fields that the manual gives it. -/

namespace Sys2Proof

/-- A number of at most n bits. -/
def fits (n v : Nat) : Bool := decide (v < 2 ^ n)

/-- R41, R43, R51. -/
def TimeSymbol.wf (s : TimeSymbol) : Bool :=
  fits 64 s.depart && fits 64 s.rxDepart && fits 64 s.rxArrive && fits 32 s.epoch && fits 16 s.node && fits 32 s.schedule

/-- R271: the payload size field counts the payload of what carries data. -/
def Request.wf (r : Request) : Bool :=
  fits 64 r.target && fits 64 r.attemptFt && fits 64 r.firstFt && decide (r.srcNode < 65535) && decide (r.srcDie < 21)
    && fits 8 r.stream && fits 16 r.srcEpoch && fits 8 r.op && fits 32 r.seq && fits 32 r.floor && fits 8 r.tag
    && decide (r.attempt < 8) && decide (r.size ≤ 4096) && decide (r.payload.length ≤ 4096) && fits 32 r.crc
    && fits 11 r.reserved

/-- R272. -/
def Reply.wf (r : Reply) : Bool :=
  fits 64 r.replyFt && fits 16 r.node && fits 8 r.die && fits 8 r.stream && fits 32 r.seq && fits 16 r.epoch && fits 8 r.status
    && fits 8 r.tag && decide (r.payload.length ≤ 4096) && fits 32 r.crc && fits 21 r.reserved

def Body.wf : Body → Bool
  | .request r => r.wf
  | .reply r => r.wf

/-- R298: ring direction 3 is reserved. -/
def FabricPacket.wf (k : FabricPacket) : Bool :=
  fits 16 k.dst && fits 8 k.tag && decide (k.hops < 64) && decide (k.ring < 3) && k.body.wf

/-- R324. -/
def Trailer.wf (t : Trailer) : Bool :=
  fits 32 t.planId && fits 32 t.inst && fits 8 t.stage && fits 8 t.kind && decide (t.sender < 524288) && fits 32 t.chunk
    && decide (t.bytes ≤ 802816) && fits 61 t.residue && fits 32 t.payloadCrc && fits 32 t.originCrc && fits 32 t.crc && fits 176 t.reserved

/-- R290. -/
def DiscoveryWord.wf (w : DiscoveryWord) : Bool :=
  fits 16 w.node && decide (w.port < 48) && decide (w.exit < 2) && decide (w.kind < 4) && decide (w.dim < 4) && fits 32 w.plan
    && fits 8 w.tag

/-- R373. -/
def HostPacket.wf (k : HostPacket) : Bool :=
  fits 128 k.srcAddr && fits 16 k.srcPort && fits 128 k.dstAddr && fits 16 k.dstPort && fits 8 k.version && fits 8 k.type
    && fits 32 k.session && fits 32 k.seq && fits 32 k.ack && fits 64 k.gap && fits 64 k.senderTime && fits 64 k.echoTime
    && decide (k.payload.length ≤ 8224) && fits 32 k.crc && decide (k.hmac.length ≤ 16)
    && fits 24 k.reserved && fits 8 k.tclass

/-- R400. -/
def CanFrame.wf (f : CanFrame) : Bool := fits 11 f.ident && decide (f.data.length ≤ (if f.fd then 64 else 8))

/-- R466. -/
def MgmtRecord.wf (r : MgmtRecord) : Bool :=
  fits 8 r.type && fits 8 r.tag && decide (r.node < 65535) && fits 32 r.seq && fits 64 r.identity && fits 64 r.ft && fits 64 r.count
    && fits 32 r.lastCommitted && fits 8 r.result && fits 8 r.quireByte && fits 16 r.mgrEpoch && fits 32 r.leaseEpoch
    && fits 32 r.crc && fits 128 r.reserved

/-- A well-formed command. -/
def Instr.wf : Instr → Bool
  | .ftAlignmentSymbol => true
  | .firstLock => true
  | .timeSymbolSend _ => true
  | .timeSymbolReceive _ sym => sym.wf
  | .degradedHoldoverEntry => true
  | .masterLossTimeout => true
  | .ftStep _ => true
  | .gateFtReached _ => true
  | .gutterEffectiveFtWrite _ => true
  | .gutterScheduleTakesEffect => true
  | .oneOffGutter t ports => fits 64 t && fits 48 ports
  | .gutterStart => true
  | .actionWindowOpen _ => true
  | .actionWindowClose _ => true
  | .gutterEnd => true
  | .stitch _ => true
  | .stitchReached _ => true
  | .stitchHoldTimeout _ => true
  | .stitchRelease _ identity ft => fits 64 identity && fits 64 ft
  | .freeze _ => true
  | .freezeInstant => true
  | .engineStopAtBoundary _ _ => true
  | .moduleFrozen => true
  | .freezeSettleTimeout => true
  | .thaw _ => true
  | .thawInstant => true
  | .spineHop _ pkt => pkt.body.wf
  | .quireAssignmentWrite _ => true
  | .quireZeroingComplete => true
  | .folioJoinWrite _ => true
  | .seedWrite _ => true
  | .regionSizeWrite _ => true
  | .spreadShareWrite _ => true
  | .flagWordRead _ => true
  | .eventLogRead _ => true
  | .saveSettings _ => true
  | .eraseSettings _ => true
  | .settingsSaveComplete => true
  | .dictWrite _ => true
  | .dictRead _ => true
  | .nop _ => true
  | .wait _ => true
  | .signal _ => true
  | .heldReleaseApply _ => true
  | .cond _ => true
  | .ret _ => true
  | .descriptorComplete _ => true
  | .load _ _ => true
  | .start _ _ => true
  | .stop _ _ => true
  | .unload _ _ => true
  | .clear _ _ => true
  | .preemption _ _ _ => true
  | .engineSaveComplete _ _ _ => true
  | .engineRestoreComplete _ _ _ => true
  | .mma _ => true
  | .tileDrain _ _ _ => true
  | .mxtest _ _ => true
  | .matrixSpareTipIn _ _ => true
  | .vprog _ => true
  | .gather _ => true
  | .routeCount _ => true
  | .dispatch _ => true
  | .setSize _ => true
  | .gtCombine _ _ => true
  | .convert _ => true
  | .cbCombine _ _ => true
  | .copy _ => true
  | .atomic _ => true
  | .reduce _ _ => true
  | .hashLeaves _ => true
  | .hashRoot _ => true
  | .colophonOpen _ => true
  | .colophonSeal _ => true
  | .signatureComplete => true
  | .allReduce _ => true
  | .reduceScatter _ => true
  | .allGather _ => true
  | .broadcast _ => true
  | .allToAll _ => true
  | .barrier _ => true
  | .streamOpen _ => true
  | .chunkSend _ _ _ => true
  | .streamChunkRelease _ _ => true
  | .chunkArrival _ _ k => k.trailer.wf && k.payload.length == k.trailer.bytes
  | .grantArrival _ _ t => t.wf
  | .acknowledgementArrival _ _ t => t.wf
  | .retransmitRequestArrival _ _ t => t.wf
  | .abortNoticeArrival _ _ t => t.wf
  | .barrierTokenArrival _ _ t => t.wf
  | .partnerProgressTimeout _ _ _ => true
  | .requestInject _ _ => true
  | .claspSend _ _ => true
  | .remoteRequestArrival _ r => r.wf
  | .laneApply _ _ _ => true
  | .claspApply _ _ => true
  | .remoteReplyArrival _ r => r.wf
  | .retryTimeout _ _ => true
  | .nkBackoffExpiry _ _ => true
  | .hotHoldExpiry _ _ => true
  | .settleSend _ _ => true
  | .sequenceStateDiscard _ _ => true
  | .recordReclaim _ _ => true
  | .discoveryWordSend _ => true
  | .discoveryWordReceive _ w => w.wf
  | .portTrained _ => true
  | .portTrainingTimeout _ => true
  | .portTrainingRetry _ => true
  | .portDown _ _ => true
  | .planEffectiveFtWrite _ => true
  | .planCommit => true
  | .fabricPacketRoute _ pkt => pkt.wf
  | .dimensionStateWordSend => true
  | .dimensionStateWordReceive _ dim mask => decide (dim < 4) && fits 32 mask
  | .ringLinkMapReceive _ origin map => fits 32 map && decide (origin < 32)
  | .congestionSample => true
  | .congestionRecordClose => true
  | .managerHeartbeat _ => true
  | .managerLossTimeout => true
  | .heaterUpdate _ _ _ => true
  | .calibrationOffsetSave => true
  | .calibrationRequest _ => true
  | .calibrationSweepComplete _ _ _ _ _ => true
  | .calibrationStale _ _ => true
  | .identityMarkerReceive _ _ _ => true
  | .dataFrameReceive _ _ f => decide (f.slot < 32)
  | .retirementReportReceive _ _ => true
  | .slotLossOfSignal _ _ => true
  | .guidedSweepComplete _ _ _ _ => true
  | .lineMarginAverage _ _ _ => true
  | .moveRequest _ _ _ _ => true
  | .fibreLossOfLight _ => true
  | .probeStart _ _ => true
  | .probeAnswered _ => true
  | .outputPowerTrip _ => true
  | .hostLinkUp => true
  | .hostLinkDown => true
  | .commandPacket k => k.wf
  | .bulkPacket k => k.wf
  | .ackPacket k => k.wf
  | .ackDelayExpiry _ => true
  | .hostRetransmitTimeout _ _ => true
  | .openChan k => k.wf
  | .closeChan k => k.wf
  | .resync k => k.wf
  | .push _ _ => true
  | .pull _ _ => true
  | .hostSignal _ _ => true
  | .hostCommandComplete _ _ => true
  | .canWriteInitiate f => f.wf
  | .canReadInitiate f => f.wf
  | .canSegment f => f.wf
  | .canSegmentAccepted f => f.wf
  | .canTransferTimeout => true
  | .canHeartbeat => true
  | .inputPowerApplied _ => true
  | .wakePin => true
  | .canWakeFrame f => f.wf
  | .wakeConditionsMet _ _ => true
  | .bootStepComplete _ => true
  | .bootStepLimit _ => true
  | .ctlBBootClaim => true
  | .leaseRenewal => true
  | .leaseRenewalReceive _ _ _ => true
  | .leaseExpiry _ => true
  | .leaseClaimRequest _ => true
  | .leaseConfirmReceive r => r.wf
  | .leaseAnswerReceive _ _ _ => true
  | .leaseConfirmTimeout => true
  | .leaseClaimReceive _ _ _ => true
  | .fwWrite _ => true
  | .fwCommit _ => true
  | .fwCommitCopyComplete => true
  | .attest _ => true
  | .restart _ => true
  | .configWrite _ _ => true
  | .powerSample _ => true
  | .inputOvervoltage _ => true
  | .overcurrentTrip => true
  | .sag _ => true
  | .endpaperWriteComplete => true
  | .powerStateEntry _ => true
  | .powerStateExit _ => true
  | .powerStateReached => true
  | .dieSensorReading _ => true
  | .thermalLimitStep => true
  | .thermalLimitRestore => true
  | .stackTemperatureReading _ _ => true
  | .unscheduledRetrain _ chan _ _ => decide (chan < 68)
  | .retrainComplete _ restored => restored.lanes.all fun e => decide (e.1 < 8) && decide (e.2 < 37)
  | .eccWriteBack _ => true
  | .scrubRead _ cw _ => decide (cw < 2684354560)
  | .preCopyGranule _ => true
  | .reachedReceive r => r.wf
  | .prepareReceive r => r.wf
  | .stitchCopyComplete _ => true
  | .voteReceive r => r.wf
  | .decideReceive r => r.wf
  | .invalidReceive r => r.wf
  | .rollbackReceive r => r.wf
  | .rollbackRestoreComplete _ _ => true
  | .restoredReceive r => r.wf
  | .dieReset _ _ => true
  | .dieWatchdogExpiry _ => true
  | .dieRejoin _ => true
  | .clockGeneratorFailure => true
  | .switchoverPauseEnd _ => true
  | .firmwareWarmRestart _ => true
  | .controlWatchdogExpiry _ => true
  | .warmRestartThaw => true
  | .reserveFolioTipIn => true
  | .healthScoreCompute _ => true
  | .retireDwellExpiry => true
  | .retireSuggestionReceive _ _ => true
  | .occupancySample _ => true
  | .occupancyWindowClose => true
  | .obsSet _ => true
  | .traceTimeRecord _ => true
  | .traceDrain _ => true
  | .traceGroupTimeout _ => true
  | .ribbonArm _ => true
  | .ribbonClear _ => true
  | .ribbonFire _ _ _ => true
  | .ribbonSpreadArrival _ _ => true
  | .traceFreeze _ => true
  | .dumpSelect _ => true
  | .tensorDump _ _ => true
  | .obsRead _ => true
  | .postMortem _ => true
  | .tapReset => true
  | .extest _ => true
  | .samplePreload _ => true
  | .idcode => true
  | .clamp => true
  | .highz => true
  | .bypass opcode tdi => fits 8 opcode && decide (tdi < 2)
  | .dieSelect _ => true
  | .dieAccess _ => true
  | .testUnlock _ => true
  | .standbyGeneratorFailure => true
  | .controlDieFailure _ => true
  | .inputPowerRemoved _ => true
  | .icmpv6Request m => fits 128 m.srcAddr && fits 128 m.dstAddr && fits 128 m.target
  | .memberReportReceive _ _ => true
  | .suggestionHourEnd => true
  | .watchRecordReceive => true
  | .spareSlotCalibration _ _ _ => true
  | .postMortemImageWritten => true

end Sys2Proof
end

