-- ==== Sys2Proof/Tests/Slice0.lean ====
section
/-! SUPPORT. Tests: ill-formed terms that the check refuses, states that meet the hypotheses of the statements, and single
steps on small states. -/

namespace Sys2Proof.Tests

set_option Elab.async false

open Sys2Proof Sys2Proof.Machine

/-! ### Small states -/

/-- The state that an outcome holds; the reset state for a stop. -/
def nx : Result → State
  | .next t => t
  | _ => State.reset

/-- A module past its boot. -/
def up : State := { State.reset with boot := { BootSt.reset with stage := 9 } }

/-- A command record: quadwords, then inline data. -/
def cmdOf (seq : Nat) (qws : List Nat) (data : List Byte) : HostCmd :=
  { seq := seq, payload := qws.flatMap (leBytes 8) ++ data, gateOpen := false, started := false, result := none, doneFt := 0,
    ops := [], status := 0, off := 0, data := [], bulk := [] }

/-- A command record in hand on a channel. -/
def withCmd (s : State) (c : ChanId) (seq : Nat) (qws : List Nat) (data : List Byte) : State :=
  s.updChan c fun x => { x with cmds := x.cmds ++ [cmdOf seq qws data] }

/-- Changes one die. -/
def onDie (s : State) (d : DieId) (f : Die → Die) : State := s.updDie d f

/-- A locked module at this FT on every counter. -/
def atFt (s : State) (t : Nat) : State :=
  State.mapFt { s with time := { s.time with lock := .locked, firstLocked := true } } fun _ => t

/-- Changes one port to be up. -/
def portUp (s : State) (p : PortId) : State := s.updPort p fun x => { x with state := .up }

/-- A queue of the first context of a die, whose ring in SRAM holds these descriptors behind object 5. -/
def withRing (s : State) (q : QueueId) (ds : List (List Nat)) : State :=
  let bytes := ds.flatMap fun d => d.flatMap (leBytes 8)
  let s := s.updDie q.die fun x => { x with sram := splice x.sram 0 bytes, so := SMap.set 0 x.so 5 ds.length }
  let s := s.updCtx q.die q.ctx fun x => { x with state := .running }
  s.updQueue q fun x => { x with enabled := true, sram := true, base := 0, log2 := 4, doorbell := 5 }

/-- The queue of slot n in context 0 of die 0. -/
def qn (n : Fin 72) : QueueId := ⟨0, 0, n⟩

/-! ### Ill-formed terms, one for each check, beside a well-formed one -/

def symOk : TimeSymbol := { depart := 0, rxDepart := 0, rxArrive := 0, locked := true, epoch := 0, hops := 0, node := 0, schedule := 0 }
theorem test_wf_timeSymbol : symOk.wf = true ∧ [{ symOk with depart := 2 ^ 64 }, { symOk with rxDepart := 2 ^ 64 }, { symOk with rxArrive := 2 ^ 64 },
    { symOk with epoch := 2 ^ 32 }, { symOk with node := 65536 }, { symOk with schedule := 2 ^ 32 }].all (fun x => !(Instr.timeSymbolReceive 0 x).wf) = true := by decide +kernel

def reqOk : Request := { target := 0, attemptFt := 0, firstFt := 0, srcNode := 0, srcDie := 0, stream := 0, srcEpoch := 0, op := 2, clasp := false, retry := false, fresh := true, wide := false, signed := false, seq := 0, floor := 0, tag := 0, attempt := 0, size := 4, payload := [], release := 0, crc := 0 }
theorem test_wf_request : (Instr.remoteRequestArrival 0 reqOk).wf = true ∧ [{ reqOk with target := 2 ^ 64 }, { reqOk with attemptFt := 2 ^ 64 }, { reqOk with firstFt := 2 ^ 64 },
    { reqOk with srcNode := 65535 }, { reqOk with srcDie := 21 }, { reqOk with stream := 256 }, { reqOk with srcEpoch := 65536 }, { reqOk with op := 256 }, { reqOk with seq := 2 ^ 32 },
    { reqOk with floor := 2 ^ 32 }, { reqOk with tag := 256 }, { reqOk with attempt := 8 }, { reqOk with size := 4097 }, { reqOk with reserved := 2048 }, { reqOk with payload := List.replicate 4097 0 },
    { reqOk with crc := 2 ^ 32 }].all (fun x => !(Instr.remoteRequestArrival 0 x).wf) = true := by decide +kernel

def repOk : Reply := { replyFt := 0, node := 0, die := 0, stream := 0, key := .die 0 0, seq := 0, epoch := 0, tag := 0, status := 0, hot := false, cached := false, nk := false, payload := [], crc := 0 }
theorem test_wf_reply : (Instr.remoteReplyArrival 0 repOk).wf = true ∧ [{ repOk with replyFt := 2 ^ 64 }, { repOk with node := 65536 }, { repOk with die := 256 }, { repOk with stream := 256 },
    { repOk with seq := 2 ^ 32 }, { repOk with epoch := 65536 }, { repOk with tag := 256 }, { repOk with reserved := 2097152 }, { repOk with status := 256 }, { repOk with payload := List.replicate 4097 0 },
    { repOk with crc := 2 ^ 32 }].all (fun x => !(Instr.remoteReplyArrival 0 x).wf) = true := by decide +kernel

def pktOk : FabricPacket := { dst := 0, tag := 0, hops := 0, vc := false, detour := false, ring := 0, wrap := false, body := .request reqOk }
theorem test_wf_packet : (Instr.fabricPacketRoute none pktOk).wf = true ∧ [{ pktOk with dst := 65536 }, { pktOk with tag := 256 }, { pktOk with hops := 64 }, { pktOk with ring := 3 },
    { pktOk with body := .reply { repOk with die := 256 } }].all (fun x => !(Instr.fabricPacketRoute none x).wf) = true
    ∧ (Instr.spineHop 0 { dst := 0, vc := none, body := .request { reqOk with attempt := 8 } }).wf = false := by decide +kernel

def trOk : Trailer := { planId := 0, inst := 0, stage := 0, kind := 0, sender := 0, chunk := 0, bytes := 0, residue := 0, payloadCrc := 0, originCrc := 0, crc := 0 }
theorem test_wf_trailer : trOk.wf = true ∧ [{ trOk with planId := 2 ^ 32 }, { trOk with inst := 2 ^ 32 }, { trOk with stage := 256 }, { trOk with kind := 256 }, { trOk with sender := 524288 },
    { trOk with chunk := 2 ^ 32 }, { trOk with bytes := 802817 }, { trOk with residue := 2 ^ 61 }, { trOk with reserved := 2 ^ 176 }, { trOk with payloadCrc := 2 ^ 32 }, { trOk with originCrc := 2 ^ 32 },
    { trOk with crc := 2 ^ 32 }].all (fun x => !x.wf && !(Instr.grantArrival 0 0 x).wf && !(Instr.acknowledgementArrival 0 0 x).wf && !(Instr.retransmitRequestArrival 0 0 x).wf
      && !(Instr.abortNoticeArrival 0 0 x).wf && !(Instr.barrierTokenArrival 0 0 x).wf) = true
    ∧ (Instr.chunkArrival 0 0 { trailer := trOk, payload := [1], rails := .agree }).wf = false ∧ (Instr.chunkArrival 0 0 { trailer := trOk, payload := [], rails := .agree }).wf = true := by
  decide +kernel

def dwOk : DiscoveryWord := { node := 0, port := 0, exit := 0, kind := 0, dim := 0, shared := false, plan := 0, tag := 0 }
theorem test_wf_discovery : (Instr.discoveryWordReceive 0 dwOk).wf = true ∧ [{ dwOk with node := 65536 }, { dwOk with port := 48 }, { dwOk with exit := 2 }, { dwOk with kind := 4 }, { dwOk with dim := 4 },
    { dwOk with plan := 2 ^ 32 }, { dwOk with tag := 256 }].all (fun x => !(Instr.discoveryWordReceive 0 x).wf) = true := by decide +kernel

def hkOk : HostPacket := { srcAddr := 0, srcPort := 0, dstAddr := 0, dstPort := 0, udpOk := true, plain := true, version := 1, type := 1, channel := 0, tagged := false, retrans := false, session := 0, seq := 0, ack := 0, gap := 0, senderTime := 0, echoTime := 0, payload := [], crc := 0, hmac := [] }
theorem test_wf_host : (Instr.commandPacket hkOk).wf = true ∧ [{ hkOk with srcAddr := 2 ^ 128 }, { hkOk with srcPort := 65536 }, { hkOk with dstAddr := 2 ^ 128 }, { hkOk with dstPort := 65536 }, { hkOk with version := 256 },
    { hkOk with type := 256 }, { hkOk with session := 2 ^ 32 }, { hkOk with seq := 2 ^ 32 }, { hkOk with ack := 2 ^ 32 }, { hkOk with reserved := 2 ^ 24 }, { hkOk with tclass := 256 }, { hkOk with gap := 2 ^ 64 }, { hkOk with senderTime := 2 ^ 64 },
    { hkOk with echoTime := 2 ^ 64 }, { hkOk with payload := List.replicate 8225 0 }, { hkOk with crc := 2 ^ 32 }, { hkOk with hmac := List.replicate 17 0 }].all (fun x => !(Instr.commandPacket x).wf
      && !(Instr.bulkPacket x).wf && !(Instr.ackPacket x).wf && !(Instr.openChan x).wf && !(Instr.closeChan x).wf && !(Instr.resync x).wf) = true := by decide +kernel

theorem test_wf_can : (Instr.canSegment { ident := 5, fd := true, data := List.replicate 64 0 }).wf = true ∧ [({ ident := 2048, fd := true, data := [] } : CanFrame), { ident := 5, fd := true, data := List.replicate 65 0 },
    { ident := 5, fd := false, data := List.replicate 9 0 }].all (fun x => !(Instr.canSegment x).wf && !(Instr.canWriteInitiate x).wf && !(Instr.canReadInitiate x).wf && !(Instr.canSegmentAccepted x).wf
      && !(Instr.canWakeFrame x).wf) = true := by decide +kernel

def mrOk : MgmtRecord := { type := 0, tag := 0, node := 0, seq := 0, identity := 0, ft := 0, count := 0, lastCommitted := 0, result := 0, quireByte := 0, mgrEpoch := 0, leaseEpoch := 0, crc := 0 }
theorem test_wf_mgmt : (Instr.reachedReceive mrOk).wf = true ∧ [{ mrOk with type := 256 }, { mrOk with tag := 256 }, { mrOk with node := 65535 }, { mrOk with seq := 2 ^ 32 }, { mrOk with identity := 2 ^ 64 }, { mrOk with ft := 2 ^ 64 },
    { mrOk with count := 2 ^ 64 }, { mrOk with lastCommitted := 2 ^ 32 }, { mrOk with result := 256 }, { mrOk with quireByte := 256 }, { mrOk with mgrEpoch := 65536 }, { mrOk with reserved := 2 ^ 128 }, { mrOk with leaseEpoch := 2 ^ 32 },
    { mrOk with crc := 2 ^ 32 }].all (fun x => !(Instr.reachedReceive x).wf && !(Instr.prepareReceive x).wf && !(Instr.voteReceive x).wf && !(Instr.decideReceive x).wf && !(Instr.invalidReceive x).wf
      && !(Instr.rollbackReceive x).wf && !(Instr.restoredReceive x).wf && !(Instr.leaseConfirmReceive x).wf) = true := by decide +kernel

theorem test_wf_fields : [Instr.oneOffGutter (2 ^ 64) 0, .oneOffGutter 0 (2 ^ 48), .stitchRelease 0 (2 ^ 64) 0, .stitchRelease 0 0 (2 ^ 64), .dimensionStateWordReceive 0 4 0, .dimensionStateWordReceive 0 0 (2 ^ 32),
    .ringLinkMapReceive 0 0 (2 ^ 32), .ringLinkMapReceive 0 32 0, .retrainComplete 0 ⟨true, [(8, 0)]⟩, .retrainComplete 0 ⟨true, [(0, 37)]⟩, .dataFrameReceive 0 0 { decodes := true, crcOk := true, slot := 32, uncorrectable := false }, .unscheduledRetrain 0 68 0 0,
    .scrubRead 0 2684354560 .clean, .bypass 256 0, .bypass 0 2, .icmpv6Request { type := 128, srcAddr := 2 ^ 128, dstAddr := 0, target := 0, plain := true, data := [] },
    .icmpv6Request { type := 128, srcAddr := 0, dstAddr := 2 ^ 128, target := 0, plain := true, data := [] },
    .icmpv6Request { type := 128, srcAddr := 0, dstAddr := 0, target := 2 ^ 128, plain := true, data := [] }].all (fun x => !x.wf) = true := by decide +kernel

/-! ### Time -/

theorem wit_TimeSymbols : ∃ (p : PortId) (s : State), p.val < 44 ∧ (s.port p).state = .up ∧ (s.port p).time.sent ≠ none :=
  ⟨43, up.updPort 43 fun x => { x with state := .up, time := { x.time with sent := some 7 } }, by decide +kernel⟩

theorem wit_TimeParent : ∃ (t : State) (q : PortId), t.time.parent = some q ∧ t.time.master = false ∧ t.candidate q = true :=
  ⟨nx (exec (.timeSymbolReceive 3 { depart := 90, rxDepart := 10, rxArrive := 20, locked := true, epoch := 0, hops := 2, node := 5, schedule := 0 })
    ((atFt up 100).updPort 3 fun x => { x with state := .up, time := { x.time with sent := some 7 } })), 3, by decide +kernel⟩

theorem wit_AlignmentSymbol : (∃ s : State, s.time.firstLocked = false ∧ s.now + 1 < (s.die 3).ft ∧ (s.die 3).ft < 2 ^ 64)
    ∧ ∃ s : State, s.time.firstLocked = true ∧ s.now + 1 < (s.die 3).ft :=
  ⟨⟨onDie up 3 fun x => { x with ft := 2 }, by decide +kernel⟩, ⟨onDie (atFt up 0) 3 fun x => { x with ft := 2 }, by decide +kernel⟩⟩

theorem wit_FirstLock : up.time.firstLocked = false
    ∧ (up.setSetting 0x4101 1 1).setting 0x4101 1 = 1
    ∧ ∃ (s : State) (p : PortId) (th : Int), s.setting 0x4101 1 ≠ 1 ∧ s.time.firstLocked = false ∧ s.time.parent = some p
      ∧ (s.port p).time.theta = some th :=
  ⟨rfl, by decide +kernel, State.updPort { up with time := { up.time with parent := some 2 } } 2
    fun x => { x with time := { x.time with theta := some 5000 } }, 2, 5000, by decide +kernel⟩

theorem wit_DegradedHoldover : ∃ s : State, s.time.lock = .holdover
    ∧ s.gut.sched.guard < 2 * (20 + (s.mono - s.time.lostAt + 999999) / 1000000) :=
  ⟨{ up with time := { up.time with lock := .holdover }, mono := 230000001 }, by decide +kernel⟩

theorem wit_MasterLoss : ∃ (s : State) (t : Nat), s.time.noPathSince = some t ∧ s.setting 0x4101 1 = 2 ∧ s.time.master = false
    ∧ s.time.firstLocked = true ∧ t + s.setting 0x4101 2 * 1000000 ≤ s.mono :=
  ⟨{ (up.setSetting 0x4101 1 2) with time := { up.time with noPathSince := some 0, firstLocked := true }, mono := 60000000000 }, 0,
    by decide +kernel⟩

/-- A TIME command of operation k with this FT in hand. -/
def timeCmd (s : State) (k ft : Nat) : State := withCmd s 0 9 [0x07 * 2 ^ 56, 0, k * 2 ^ 60, ft] []

theorem wit_FtStep : (∃ s : State, (s.ready 0 9 0x07).any (fun x => bits (x.qw 2) 63 60 == 3) = true ∧ s.hostPath = true
      ∧ s.allStopped = true)
    ∧ ∃ s : State, (s.ready 0 9 0x07).any (fun x => bits (x.qw 2) 63 60 == 3) = true ∧ s.hostPath = true
      ∧ s.allStopped = false :=
  ⟨⟨timeCmd up 3 1000, by decide +kernel⟩, ⟨timeCmd (up.updCtx 4 1 fun x => { x with state := .running }) 3 1000, by decide +kernel⟩⟩

/-! ### Gutters -/

theorem wit_GutterSchedule : ∃ (s : State) (c : Schedule) (t : Int), s.gut.staged = some (c, t) ∧ t ≤ (s.now : Int) :=
  ⟨{ up with gut := { GutterSt.reset with staged := some ({ Schedule.reset with period := 500000 }, 40) } }.mapFt fun _ => 40,
    { Schedule.reset with period := 500000 }, 40, by decide +kernel⟩

theorem wit_OneOffAsked : (∃ (s : State) (t : Nat), t < s.now + 50000) ∧ ∃ (s : State) (t ports : Nat), s.now + 50000 ≤ t ∧ ports ≠ 0 :=
  ⟨⟨up, 49999, by decide +kernel⟩, ⟨up, 50000, 1, by decide +kernel⟩⟩

theorem wit_GutterStart : ∃ (s : State) (g : Nat) (n : Int), s.gut.now = none ∧ (s.power.st = .run ∨ s.power.st = .idle) ∧ s.freezeDue = false ∧ 0 < s.gut.sched.period
    ∧ (g : Int) = s.gut.sched.phase + n * s.gut.sched.period ∧ g ≤ s.now ∧ s.now < g + s.gut.sched.period
    ∧ s.now < g + s.gut.sched.guard ∧ s.gut.lastStart ≠ some g :=
  ⟨atFt up 3000499, 3000000, 3, by decide +kernel⟩

/-- A one-off gutter of ports 0 and 1 is due. -/
def oneOffDue : State := { atFt up 3060100 with gut := { GutterSt.reset with lastStart := some 3000000, oneOffs := [(3060000, 3)] } }

theorem wit_OneOffGutter : ∃ (s : State) (g ports m : Nat), s.gut.now = none ∧ (s.power.st = .run ∨ s.power.st = .idle) ∧ s.freezeDue = false ∧ 0 < s.gut.sched.period ∧ s.gut.lastStart = some m
    ∧ s.now < m + s.gut.sched.period ∧ m ≤ s.now ∧ (m : Int) = s.gut.sched.phase + 3 * s.gut.sched.period
    ∧ s.gut.oneOffs.find? (fun o => decide (o.1 ≤ s.now) && decide (s.now < o.1 + s.gut.sched.guard)) = some (g, ports) :=
  ⟨oneOffDue, 3060000, 3, 3000000, by decide +kernel⟩

/-- A gutter in progress whose window may open, with two actions that share a slot and one without. -/
def gutterWaiting : State := { atFt up 3000500 with gut := { GutterSt.reset with now := some { start := 3000000, length := 5000, guard := 500, ports := 2 ^ 48 - 1, once := false, opened := false, closed := false, running := [] }, lastStart := some 3000000 } }

theorem wit_GutterWindow : (∃ g, gutterWaiting.gut.now = some g ∧ g.opened = false ∧ g.start + g.guard ≤ gutterWaiting.now)
    ∧ (∃ (s : State) (g : Gutter), s.gut.now = some g ∧ g.opened = true ∧ g.closed = false ∧ g.start + g.length ≤ s.now + g.guard)
    ∧ ∃ (s : State) (g : Gutter), s.gut.now = some g ∧ g.closed = true ∧ g.start + g.length ≤ s.now :=
  ⟨⟨_, rfl, by decide +kernel⟩,
   ⟨atFt { up with gut := { GutterSt.reset with now := some { start := 3000000, length := 5000, guard := 500, ports := 1, once := false, opened := true, closed := false, running := [] } } } 3004500, _, rfl, by decide +kernel⟩,
   ⟨atFt { up with gut := { GutterSt.reset with now := some { start := 3000000, length := 5000, guard := 500, ports := 1, once := false, opened := true, closed := true, running := [] } } } 3005000, _, rfl, by decide +kernel⟩⟩

/-! ### Stitches, freeze, commit -/

/-- A STITCH with identity 9 stands at the front of a queue. -/
def atStitch : State := withRing up (qn 16) [[0x06 * 2 ^ 56, 0, 0, 0, 9, 0, 0, 0]]

def isReady (f : Front) (op : Nat) : Bool := match f with
  | .ready d => dOp d == op
  | _ => false

theorem wit_Stitch : (atStitch.queue (qn 16)).skip = 0 ∧ isReady (atStitch.front (qn 16)) 6 = true
    ∧ (atStitch.queue (qn 16)).started = [] := by decide +kernel

/-- The same queue after the STITCH, which then holds. -/
def atHold : State := nx (exec (.stitch (qn 16)) atStitch)

theorem wit_StitchReached : atHold.stitchIdentity 0 = some 9 ∧ (atHold.quire 0).reached = none ∧ atHold.opsDone 0 = true := by
  decide +kernel

theorem wit_StitchHoldTimeout : ∃ (s : State) (m : Nat), (s.quire 0).heldSince = some m ∧ (s.quire 0).timedOut = false
    ∧ m + s.setting 0x4130 2 * 1000000 ≤ s.mono :=
  ⟨{ atHold with mono := 60000000000 }, 0, by decide +kernel⟩

theorem wit_StitchRelease : (qn 16) ∈ atHold.stitchQueues 0 ∧ (atHold.queue (qn 16)).hold = some 9 ∧ 0 ≤ atHold.now := by decide +kernel

theorem wit_Freeze : ∃ s : State, (s.ready 0 9 0x07).any (fun x => bits (x.qw 2) 63 60 == 1 && decide (s.now + 50000 ≤ x.qw 3)) = true
    ∧ s.hostPath = true ∧ s.time.lock ≠ .unlocked ∧ s.frz.cut = none :=
  ⟨timeCmd (atFt up 1000) 1 51000, by decide +kernel⟩

theorem wit_FreezeLate : ∃ s : State, (s.ready 0 9 0x07).any (fun x => bits (x.qw 2) 63 60 == 1 && decide (x.qw 3 < s.now + 50000)) = true
    ∧ s.hostPath = true :=
  ⟨timeCmd (atFt up 1000) 1 50999, by decide +kernel⟩

/-- A freeze whose instant has come. -/
def freezeDue : State := { atFt up 51000 with frz := { pending := [51000, 70000], thaws := [90000], cut := none } }

/-- A module frozen at FT 51,000, each engine at its boundary. -/
def cutOf (rollback : Bool) : State :=
  { atFt up 51000 with
    frz := { pending := [], thaws := [90000], cut := some { ft := 51000, since := 0, absent := [], reported := false, named := false, unusable := false, paused := false, rollback := rollback } },
    dies := .replicate 20 { Die.reset with ft := 51000, unit := .replicate 18 { UnitSt.reset with stopFt := some 51000 } } }

def cut0 : State := cutOf false

theorem wit_FreezeInstant : freezeDue.frz.pending = 51000 :: [70000] ∧ 51000 ≤ freezeDue.now ∧ (∀ k, (freezeDue.quire k).rollback = none)
    ∧ freezeDue.frz.cut = none ∧ (freezeDue.die 4).presence = .inService ∧ freezeDue.pause = none ∧ freezeDue.inFlight 4 3 = 0
    ∧ (freezeDue.getUnit 4 3).stopping = false := by decide +kernel

theorem wit_EngineStop : ∃ s : State, s.frz.cut.any (fun c => decide ((4 : DieId) ∉ c.absent ∧ c.ft ≤ (s.die 4).ft)) = true
    ∧ (s.getUnit 4 3).stopFt = none ∧ (s.getUnit 4 3).stopping = false ∧ s.pause = none :=
  ⟨cut0.updUnit 4 3 fun u => { u with stopFt := none }, by decide +kernel⟩

theorem wit_ModuleFrozen : cut0.frz.cut.any (fun c => !c.reported && decide (∀ p, ∀ k ∈ (cut0.port p).egress ++ (cut0.port p).backlog, c.ft ≤ Body.stamp k.body)) = true
    ∧ ∀ d v, ((cut0.getUnit d v).stopFt).isSome = true := by decide +kernel

theorem wit_SettleTimeout : ∃ s : State,
    s.frz.cut.any (fun c => !c.reported && !c.named && decide (c.since + s.setting 0x4130 3 * 1000 ≤ s.mono)) = true :=
  ⟨{ cut0 with mono := 10000000000 }, by decide +kernel⟩

theorem wit_Thaw : ∃ s : State, (s.ready 0 9 0x07).any (fun x => bits (x.qw 2) 63 60 == 2 && decide (s.now + 50000 ≤ x.qw 3)) = true
    ∧ s.hostPath = true :=
  ⟨timeCmd (atFt up 1000) 2 51000, by decide +kernel⟩

theorem wit_ThawInstant : ∃ s : State, s.frz.thaws = 90000 :: [] ∧ 90000 ≤ s.now
    ∧ s.frz.cut.any (fun c => c.reported && !c.rollback && !s.heldFrozen c) = true ∧ (∀ d, (s.die d).cutHold = [] ∧ (s.die d).inbound = []) :=
  ⟨(nx (exec .moduleFrozen cut0)).mapFt fun _ => 90000, by decide +kernel⟩

/-- Die 1 takes part in stitches with one dirty granule; quire 0's tag is 7. -/
def copying : State := onDie (up.setSetting 0x4330 1 7) 1 fun x =>
  { x with splan := some { preCopy := true, base := 0, len := 2097152, block := 0, buddy := 4194304 }, tracked := (0, 2097152), dirty := [0] }

theorem wit_PreCopy : (copying.die 1).splan.any (·.preCopy) = true ∧ (copying.die 1).quire = some 0
    ∧ (copying.die 1).pendingGranules = 0 :: [] ∧ (copying.die 1).copy = none ∧ (copying.quire 0).reached = none
    ∧ (copying.die 1).presence = .inService ∧ (copying.localOk 1 false 0 2097152) = true := by decide +kernel

/-- A management record with a right CRC. -/
def mgmt (type tag seq ft result : Nat) : MgmtRecord :=
  sealed { type := type, tag := tag, node := 3, seq := seq, identity := 9, ft := ft, count := 0, lastCommitted := 0, result := result,
           quireByte := 0, mgrEpoch := 0, leaseEpoch := 0, crc := 0 }

theorem wit_Prepare : ∃ s : State, s.acceptMgmt (mgmt 0x12 7 4 0 0) 0x12 = some 0 ∧ (s.quire 0).reached ≠ none ∧ (s.quire 0).rollback = none :=
  ⟨copying.updQuire 0 fun x => { x with reached := some (9, 50) }, by decide +kernel⟩

/-- A prepared quire whose copy has ended. -/
def prepared : State := onDie (copying.updQuire 0 fun x => { x with prep := some 4, prepared := 4, invalid := true }) 1 fun x =>
  { x with copied := [0], copy := some { seq := 4, left := [], granule := 0, ops := [], tagSent := true, bytes := 2097152, status := 0, clean := true, early := false } }

theorem wit_CopyComplete : (prepared.quire 0).prep = some 4 ∧ ∀ d ∈ prepared.diesOf 0, ∀ c, (prepared.die d).copy = some c → c.ended = true := by
  refine ⟨by decide +kernel, ?_⟩
  have : (prepared.diesOf 0).all (fun d => (prepared.die d).copy.all (·.ended)) = true := by decide +kernel
  intro d hd c hc
  have := List.all_eq_true.mp this d hd
  rw [hc] at this; exact this

theorem wit_Decide : prepared.acceptMgmt (mgmt 0x14 7 4 60 0) 0x14 = some 0 ∧ prepared.acceptMgmt (mgmt 0x14 7 4 60 3) 0x14 = some 0
    ∧ (prepared.quire 0).rollback = none ∧ (prepared.quire 0).prep = some 4 := by decide +kernel

theorem wit_Rollback : copying.acceptMgmt (mgmt 0x15 7 2 90000 0) 0x15 = some 0 ∧ (copying.quire 0).rollback = none := by decide +kernel

theorem wit_Restore : ∃ s : State, (s.quire 0).rollback = some (2, 51000) ∧ s.frz.cut.any (·.rollback) = true
    ∧ (s.quire 0).restoring = true ∧ (∀ d ∈ s.diesOf 0, (s.die d).presence ≠ .resetting) ∧ ∀ j, j ≠ 0 → (s.quire j).restoring = false :=
  ⟨(cutOf true).updQuire 0 fun x => { x with rollback := some (2, 51000), restoring := true }, by decide +kernel⟩

/-! ### The dictionary -/

/-- A dictionary write of a value of n bytes by the host. -/
def dictW (s : State) (idx sub n v : Nat) : State := withCmd s 0 9 [0x06 * 2 ^ 56, 0, idx * 256 + sub, n, 0, 0, 0, 0] (leBytes n v)

/-- A dictionary read by the host. -/
def dictR (s : State) (idx sub : Nat) : State := withCmd s 0 9 [0x05 * 2 ^ 56, 0, idx * 256 + sub, 0, 0, 0, 0, 0] []

/-- Whether an access is served and gives this request. -/
def servesB (s : State) (a : Access) (f : DictReq → Bool) : Bool :=
  (s.accessOf a).any (fun r => f r && (a == .can || decide (r.len ≤ 4096))) && !s.boot.recovery && (a == .can || s.hostPath)
    && decide ((if a = .can then 2 else 5) ≤ s.boot.stage) && s.governs

theorem serves_of (s : State) (a : Access) (f : DictReq → Bool) (h : servesB s a f = true) : ∃ r, s.serves a r ∧ f r = true := by
  simp only [servesB, Bool.and_eq_true, Option.any_eq_true, Bool.not_eq_true', Bool.or_eq_true, beq_iff_eq, decide_eq_true_eq] at h
  obtain ⟨⟨⟨⟨⟨r, h1, h2, h7⟩, h3⟩, h4⟩, h5⟩, h6⟩ := h
  exact ⟨r, ⟨h1, h3, h4, h5, h6, h7⟩, h2⟩

/-- Whether checks 1 to 7 pass with a value. -/
def passB (s : State) (r : DictReq) (v : Nat) : Bool := match accessEntry r with
  | .ok e => (match s.writeValue e r with
    | .ok (some w) => w == v
    | _ => false)
  | _ => false

theorem pass_of (s : State) (r : DictReq) (v : Nat) (h : passB s r v = true) : s.passes r v := by
  unfold passB at h
  split at h
  · next e he =>
    split at h
    · next w hw => exact ⟨e, he, by rw [hw, eq_of_beq h]⟩
    · simp at h
  · simp at h

/-- The entry of a request, and whether it passes its first four checks. -/
def entryB (r : DictReq) (f : Entry → Bool) : Bool := match accessEntry r with
  | .ok e => f e
  | _ => false

/-- A DICT WRITE command that names 4,097 bytes meets what the first clause asks for. -/
theorem wit_DictTooLong :
    ((dictW up 0x2022 1 4097 0).accessOf (.host 9)).any (fun r => r.write && !ownRow r && decide (4096 < r.len)) = true
    ∧ (dictW up 0x2022 1 4097 0).boot.recovery = false ∧ (dictW up 0x2022 1 4097 0).hostPath = true
    ∧ 5 ≤ (dictW up 0x2022 1 4097 0).boot.stage ∧ (dictW up 0x2022 1 4097 0).governs = true := by decide +kernel

theorem wit_DictWrite :
    (∃ r, (dictW up 0x1001 1 4 0).serves (.host 9) r ∧ (r.write && !ownRow r && objectTable.all (fun e => !e.hasIndex r.idx)) = true)
    ∧ (∃ r, (dictW up 0x2022 5 1 0).serves (.host 9) r ∧ (r.write && !ownRow r && r.sub != 0 && objectTable.any (fun e => e.hasIndex r.idx)
        && objectTable.all (fun e => !e.covers r.idx r.sub)) = true)
    ∧ (∃ r, (dictW up 0x1018 1 4 0).serves (.host 9) r ∧ (r.write && !ownRow r && r.sub != 0
        && (findEntry r.idx r.sub).any (fun e => e.acc == .const)) = true)
    ∧ (∃ r, (dictW up 0x2022 1 0 0).serves (.host 9) r ∧ (r.write && !ownRow r && r.len == 0 && entryB r fun _ => true) = true)
    ∧ (∃ r, (dictW up 0x2022 1 2 0).serves (.host 9) r ∧ (r.write && !ownRow r && entryB r fun e => some r.len != e.size) = true)
    ∧ (∃ r, (dictW up 0x4330 1 1 0xFF).serves (.host 9) r ∧ (r.write && !ownRow r && r.data.length == r.len && (entryB r fun e => some r.len == e.size)
        && reservedValue r.idx r.sub (up.unreserved r.idx r.sub (leNat r.data))) = true)
    ∧ (∃ r, (dictW up 0x2022 1 1 101).serves (.host 9) r ∧ (r.write && !ownRow r && !reservedValue r.idx r.sub (up.unreserved r.idx r.sub (leNat r.data))
        && entryB r fun e => some r.len == e.size && !up.inRange e r.idx r.sub (up.unreserved r.idx r.sub (leNat r.data))) = true) :=
  ⟨serves_of _ _ _ (by decide +kernel), serves_of _ _ _ (by decide +kernel), serves_of _ _ _ (by decide +kernel),
   serves_of _ _ _ (by decide +kernel), serves_of _ _ _ (by decide +kernel), serves_of _ _ _ (by decide +kernel), serves_of _ _ _ (by decide +kernel)⟩

/-- A module whose channel 1 is open, and one whose quire 0 runs. -/
def chanOpen1 : State := up.updChan 1 fun x => { x with state := .opened }

def quireRuns : State := up.updCtx 0 0 fun x => { x with state := .running }

theorem wit_DictWriteLast :
    (∃ r, (dictW chanOpen1 0x1410 2 1 0x40).serves (.host 9) r ∧ (r.write && !ownRow r && chanOpen1.chanOpen r
        && entryB r fun e => some r.len == e.size && chanOpen1.inRange e r.idx r.sub 0x40) = true)
    ∧ (∃ r, (dictW quireRuns 0x1410 2 1 0x40).serves (.host 9) r ∧ (r.write && !ownRow r && !quireRuns.chanOpen r && (entryB r fun e => e.acc == .rwq)
        && (quireRuns.concerned r 0x40).any fun k => !quireRuns.quireStopped k) = true)
    ∧ (∃ r, (dictW up 0x1410 0x40 1 0x43).serves (.host 9) r ∧ (r.write && !ownRow r && !up.chanOpen r && (entryB r fun e => e.acc == .rwq && up.inRange e r.idx r.sub 0x43)
        && (up.concerned r 0x43).all up.quireStopped) = true) :=
  ⟨serves_of _ _ _ (by decide +kernel), serves_of _ _ _ (by decide +kernel), serves_of _ _ _ (by decide +kernel)⟩

theorem wit_DictRead :
    (∃ r, (dictR up 0x2022 0).serves (.host 9) r ∧ (!r.write && !flagRead r && !logRead r && r.sub == 0 && objectTable.any (fun e => e.hasIndex r.idx)) = true)
    ∧ (∃ r, (dictR up 0x1010 1).serves (.host 9) r ∧ (!r.write && !flagRead r && !logRead r && (findEntry r.idx r.sub).any (fun e => e.acc == .wo)) = true)
    ∧ (∃ r, (dictR up 0x3030 1).serves (.host 9) r ∧ (!r.write && !flagRead r && !logRead r && (findEntry r.idx r.sub).any (fun e => e.acc != .wo)) = true) :=
  ⟨serves_of _ _ _ (by decide +kernel), serves_of _ _ _ (by decide +kernel), serves_of _ _ _ (by decide +kernel)⟩

theorem wit_DictStore : SMap.sorted up.dict 0 = true := rfl

/-- The host's write of a value of n bytes is served and passes checks 1 to 7. -/
theorem own_of (s : State) (idx sub n v : Nat)
    (h : (servesB (dictW s idx sub n v) (.host 9) fun r => passB (dictW s idx sub n v) r v && r.write && r.idx == idx && r.sub == sub) = true) :
    ∃ r, (dictW s idx sub n v).serves (.host 9) r ∧ (dictW s idx sub n v).passes r v ∧ r.write = true ∧ r.idx = idx ∧ r.sub = sub := by
  obtain ⟨r, h1, h2⟩ := serves_of _ _ _ h
  simp only [Bool.and_eq_true, beq_iff_eq] at h2
  exact ⟨r, h1, pass_of _ _ _ h2.1.1.1, h2.1.1.2, h2.1.2, h2.2⟩

theorem wit_GutterWrite :
    (∃ r, (dictW up 0x4120 5 8 1000000).serves (.host 9) r ∧ (dictW up 0x4120 5 8 1000000).passes r 1000000 ∧ r.write = true ∧ r.idx = 0x4120 ∧ r.sub = 5)
    ∧ up.stagedSchedule.ok = true ∧ up.now + 1000000 ≤ 1000000
    ∧ (∃ r, (dictW up 0x4120 5 8 999999).serves (.host 9) r ∧ (dictW up 0x4120 5 8 999999).passes r 999999 ∧ r.write = true ∧ r.idx = 0x4120 ∧ r.sub = 5)
    ∧ 999999 < up.now + 1000000 ∧ (up.setSetting 0x4120 4 5000).stagedSchedule.ok = false :=
  ⟨own_of _ _ _ _ _ (by decide +kernel), by decide +kernel, by decide +kernel, own_of _ _ _ _ _ (by decide +kernel), by decide +kernel, by decide +kernel⟩

theorem wit_QuireWrite :
    (∃ r, (dictW up 0x2020 20 1 1).serves (.host 9) r ∧ (dictW up 0x2020 20 1 1).passes r 1 ∧ r.write = true ∧ r.idx = 0x2020 ∧ r.sub = 20)
    ∧ up.fits 19 (up.setting 0x2100 1 * gib) = true ∧ ((up.die 19).quire.or (up.die 19).joining) ≠ quireOfValue 1
    ∧ (∀ k, (up.die 19).quire = some k ∨ quireOfValue 1 = some k → up.quireStopped k = true) ∧ (up.die 19).zeroing = false
    ∧ quireRuns.quireStopped 0 = false ∧ up.fits 19 (80 * gib) = false :=
  ⟨own_of _ _ _ _ _ (by decide +kernel), by decide +kernel⟩

theorem wit_FolioWrite :
    (∃ r, (dictW up 0x2030 1 1 3).serves (.host 9) r ∧ (dictW up 0x2030 1 1 3).passes r 3 ∧ r.write = true ∧ r.idx = 0x2030 ∧ r.sub = 1)
    ∧ (∃ s : State, s.folioDisabled 0 1 = true) ∧ up.folioDisabled 0 0 = false ∧ up.dieQuireStopped 0 = true ∧ quireRuns.dieQuireStopped 0 = false :=
  ⟨own_of _ _ _ _ _ (by decide +kernel), ⟨{ up with disabled := [(1, false)] }, by decide +kernel⟩, by decide +kernel⟩

theorem wit_OwnRows :
    (∃ r, (dictW up 0x2070 4 8 77).serves (.host 9) r ∧ (dictW up 0x2070 4 8 77).passes r 77 ∧ r.write = true ∧ r.idx = 0x2070 ∧ r.sub = 4)
    ∧ (∃ r, (dictW up 0x2101 1 2 16).serves (.host 9) r ∧ (dictW up 0x2101 1 2 16).passes r 16 ∧ r.write = true ∧ r.idx = 0x2101 ∧ r.sub = 1)
    ∧ (∃ r, (dictW up 0x6020 1 1 51).serves (.host 9) r ∧ (dictW up 0x6020 1 1 51).passes r 51 ∧ r.write = true ∧ r.idx = 0x6020 ∧ r.sub = 1)
    ∧ (∃ r, (dictW up 0x2100 4 1 2).serves (.host 9) r ∧ (dictW up 0x2100 4 1 2).passes r 2 ∧ r.write = true ∧ r.idx = 0x2100 ∧ r.sub = 4)
    ∧ up.quireStopped 3 = true ∧ up.allStopped = true ∧ quireRuns.quireStopped 0 = false ∧ quireRuns.allStopped = false :=
  ⟨own_of _ _ _ _ _ (by decide +kernel), own_of _ _ _ _ _ (by decide +kernel), own_of _ _ _ _ _ (by decide +kernel), own_of _ _ _ _ _ (by decide +kernel), by decide +kernel⟩

theorem wit_FlagAndLogReads :
    (∃ r, (dictR up 0x2093 32).serves (.host 9) r ∧ (r.sub == 1 + 4 * 7 + 3 && r.idx == 0x2080 + 19) = true) ∧ up.folioDisabled 19 1 = false
    ∧ (∃ r, (dictR up 0x5000 2).serves (.host 9) r ∧ (!r.write && logRead r) = true) ∧ up.log.recs = [] :=
  ⟨serves_of _ _ _ (by decide +kernel), by decide +kernel, serves_of _ _ _ (by decide +kernel), rfl⟩

theorem wit_Settings :
    (∃ r, (dictW up 0x1010 1 4 0x65766173).serves (.host 9) r ∧ (r.write && r.sub == 1 && r.len == 4 && r.data == leBytes 4 0x65766173) = true)
    ∧ (∃ r, (dictW up 0x1011 1 4 0x64616F6C).serves (.host 9) r ∧ (r.write && r.sub == 1 && r.len == 4 && r.data == leBytes 4 0x64616F6C) = true)
    ∧ up.flash.saving = none ∧ (∃ s : State, s.flash.saving = some [(5, 1)]) ∧ ∃ s : State, (s.die 3).zeroing = true :=
  ⟨serves_of _ _ _ (by decide +kernel), serves_of _ _ _ (by decide +kernel), by decide +kernel,
   ⟨{ up with flash := { up.flash with saving := some [(5, 1)] } }, rfl⟩, ⟨onDie up 3 fun x => { x with zeroing := true }, by decide +kernel⟩⟩

/-! ### Queues and contexts -/

/-- A descriptor: opcode, header bits [55:52], object of its wait, then quadwords 1 to 7. -/
def desc (op bits4 obj : Nat) (rest : List Nat) : List Nat := (op * 2 ^ 56 + bits4 * 2 ^ 52 + obj * 2 ^ 32) :: rest

/-- A queue of a front end with one descriptor at its front. -/
def one (d : List Nat) : State := withRing up (qn 16) [d]

def isFails (f : Front) (st : Nat) : Bool := match f with
  | .fails _ x => x == st
  | _ => false

theorem wit_Front : (one (desc 1 0 0 [])).queueLive (qn 16) = true ∧ (one (desc 1 0 0 [])).frozenDie 0 = false
    ∧ ((one (desc 1 0 0 [])).die 0).intakeFrozen = false ∧ (one (desc 1 0 0 [])).running = true
    ∧ isReady (((one (desc 6 15 5 [2 ^ 32, 0, 0])).mapFt fun _ => 1060).front (qn 16)) 6 = true
    ∧ isReady ((one (desc 1 8 5 [2 ^ 33, 0, 0])).front (qn 16)) 1 = false
    ∧ isFails ((one (desc 0 0 0 [])).front (qn 16)) 1 = true ∧ isFails ((one (desc 15 0 0 [])).front (qn 16)) 1 = true := by decide +kernel

theorem wit_Failed : (∀ d, SMap.wf 0 ((one (desc 3 0 0 [])).die d).dram = true) ∧ ((one (desc 3 0 0 [])).getCtx 0 0).errOn = false
    ∧ ((one (desc 3 0 0 [])).queue (qn 16)).cancels (.ring 0) = false
    ∧ (((one (desc 3 0 0 [])).updCtx 0 0 fun x => { x with errOn := true, errSo := 4095 }).die 0).isDoorbell 4095 = false := by decide +kernel

/-- The front descriptor of slot 16's queue has this opcode and satisfies this. -/
def frontIs (s : State) (op : Nat) (f : List Nat → Bool) : Bool := match s.front (qn 16) with
  | .ready d => dOp d == op && f d
  | _ => false

theorem atFront_of (s : State) (op : Nat) (f : List Nat → Bool) (h : frontIs s op f = true) (k : (s.queue (qn 16)).skip = 0) :
    ∃ d, s.atFront (qn 16) op d ∧ f d = true := by
  unfold frontIs at h
  split at h
  · next d hd =>
    simp only [Bool.and_eq_true, beq_iff_eq] at h
    exact ⟨d, ⟨k, hd, h.1⟩, h.2⟩
  · simp at h

/-- Global address of an object of die 0 of node 0. -/
def objAddr (o : Nat) : Nat := 2 * 2 ^ 44 + 4 * o

def isObj (a o : Nat) : Bool := match (gaddr a).place with
  | .ok (.obj d k) => d == (0 : DieId) && k == o
  | _ => false

theorem wit_CommonDescriptors :
    (∃ d, (one (desc 1 0 0 [])).atFront (qn 16) 1 d ∧ true = true)
    ∧ (∃ d, (one (desc 2 8 5 [2 ^ 32])).atFront (qn 16) 2 d ∧ true = true)
    ∧ (∃ d, (one (desc 3 0 0 [0, 0, 0, 0])).atFront (qn 16) 3 d ∧ (bits (qw d 4) 63 60 != 1 && bits (qw d 4) 63 60 != 2) = true)
    ∧ (∃ d, (one (desc 3 0 0 [0, 0, 0, 2 ^ 60 + 7, objAddr 9, 0])).atFront (qn 16) 3 d
        ∧ (bits (qw d 4) 63 60 == 1 && isObj (qw d 5) 9 && decide (qw d 6 ≤ 0)) = true)
    ∧ (∃ d, (one (desc 3 0 0 [0, 0, 0, 2 * 2 ^ 60 + 7, objAddr 9, 500])).atFront (qn 16) 3 d
        ∧ (bits (qw d 4) 63 60 == 2 && isObj (qw d 5) 9 && decide (0 < qw d 6)) = true)
    ∧ ((one (desc 3 0 0 [])).die 0).isDoorbell 9 = false ∧ ((one (desc 3 0 0 [])).die 0).rel.length < 256 :=
  ⟨atFront_of _ _ _ (by decide +kernel) (by decide +kernel), atFront_of _ _ _ (by decide +kernel) (by decide +kernel),
   atFront_of _ _ _ (by decide +kernel) (by decide +kernel), atFront_of _ _ _ (by decide +kernel) (by decide +kernel),
   atFront_of _ _ _ (by decide +kernel) (by decide +kernel), by decide +kernel⟩

/-- Summary slot 3 of the context holds a count of 4; the queue's call stack is this deep. -/
def condSt (w a depth : Nat) : State :=
  ((one (desc 4 0 0 [0, 0, 0, w, a])).updCtx 0 0 fun x => { x with su := x.su.set 3 { Summary.zero with count := 4 } }).updQueue (qn 16) fun q =>
    { q with stack := List.replicate depth (.ring 7) }

/-- COND on the count of slot 3: action, comparison (2 less than), operand. -/
def condW (action cmp k n : Nat) : Nat := action * 2 ^ 60 + cmp * 2 ^ 56 + 2 * 2 ^ 53 + 3 * 2 ^ 48 + n * 2 ^ 32 + k

def condHolds (s : State) (d : List Nat) : Bool :=
  ((s.getCtx 0 0).su.getD (bits (qw d 4) 51 48) Summary.zero).test (bits (qw d 4) 55 53) (bits (qw d 4) 59 56) (bits (qw d 4) 31 0)

theorem wit_Cond :
    (∃ d, (condSt (condW 3 0 0 0) 0 0).atFront (qn 16) 4 d ∧ ((condSt (condW 3 0 0 0) 0 0).condStatus (qn 16) d != 0) = true)
    ∧ (∃ d, (condSt (condW 1 2 4 1) 0 0).atFront (qn 16) 4 d
        ∧ ((condSt (condW 1 2 4 1) 0 0).condStatus (qn 16) d == 0 && !condHolds (condSt (condW 1 2 4 1) 0 0) d) = true)
    ∧ (∃ d, (condSt (condW 1 2 5 1) 0 0).atFront (qn 16) 4 d
        ∧ ((condSt (condW 1 2 5 1) 0 0).condStatus (qn 16) d == 0 && condHolds (condSt (condW 1 2 5 1) 0 0) d && bits (qw d 4) 63 60 == 1) = true)
    ∧ (∃ d, (condSt (condW 2 2 5 0) 1024 3).atFront (qn 16) 4 d
        ∧ ((condSt (condW 2 2 5 0) 1024 3).condStatus (qn 16) d == 0 && condHolds (condSt (condW 2 2 5 0) 1024 3) d && bits (qw d 4) 63 60 == 2) = true)
    ∧ (∃ d, (condSt (condW 2 2 5 0) 1024 4).atFront (qn 16) 4 d
        ∧ ((condSt (condW 2 2 5 0) 1024 4).condStatus (qn 16) d == 0 && condHolds (condSt (condW 2 2 5 0) 1024 4) d && bits (qw d 4) 63 60 == 2) = true)
    ∧ ((condSt (condW 2 2 5 0) 1024 3).queue (qn 16)).stack.length < 4 ∧ 4 ≤ ((condSt (condW 2 2 5 0) 1024 4).queue (qn 16)).stack.length :=
  ⟨atFront_of _ _ _ (by decide +kernel) (by decide +kernel), atFront_of _ _ _ (by decide +kernel) (by decide +kernel),
   atFront_of _ _ _ (by decide +kernel) (by decide +kernel), atFront_of _ _ _ (by decide +kernel) (by decide +kernel),
   atFront_of _ _ _ (by decide +kernel) (by decide +kernel), by decide +kernel⟩

theorem wit_Return :
    (∃ d, ((one (desc 5 0 0 [])).updQueue (qn 16) fun q => { q with stack := [.ring 7] }).atFront (qn 16) 5 d ∧ true = true)
    ∧ (∃ d, (one (desc 5 0 0 [])).atFront (qn 16) 5 d ∧ true = true) ∧ ((one (desc 5 0 0 [])).queue (qn 16)).stack = [] :=
  ⟨atFront_of _ _ _ (by decide +kernel) (by decide +kernel), atFront_of _ _ _ (by decide +kernel) (by decide +kernel), by decide +kernel⟩

/-- A descriptor that has started and is done, whose header signals object 9 or nothing. -/
def toRetire (sig : Nat) : State := nx (exec (.nop (qn 16)) (one (desc 1 (4 * sig) 0 [3, objAddr 9])))

theorem wit_Retire : ((toRetire 0).getCtx 0 0).state = .running ∧ (toRetire 0).frozenDie 0 = false ∧ (toRetire 0).running = true
    ∧ (toRetire 0).headDone (qn 16) = true ∧ ((toRetire 0).queue (qn 16)).started.all (fun e => e.summary.isNone && !e.cancelled && !dSignal e.qws) = true
    ∧ (toRetire 1).headDone (qn 16) = true
    ∧ ((toRetire 1).queue (qn 16)).started.all (fun e => e.summary.isNone && !e.cancelled && dSignal e.qws && !e.signalled && isObj (qw e.qws 2) 9) = true
    ∧ ((toRetire 1).die 0).isDoorbell 9 = false := by decide +kernel

theorem wit_Gates : (∃ s : State, s.queueLive (qn 16) = true ∧ dGate (s.peekNext (qn 16)) = true ∧ dGateFt (s.peekNext (qn 16)) ≤ (s.die 0).ft
      ∧ s.calm 4 = true)
    ∧ ∃ s : State, s.calm 4 = true ∧ (((s.chan 5).cmd 9).any fun x => bit (x.qw 0) 54 && decide (x.qw 1 ≤ s.now) && !x.started) = true :=
  ⟨⟨(one (desc 1 2 0 [0, 0, 60])).mapFt fun _ => 1060, by decide +kernel⟩, ⟨withCmd (atFt up 1060) 5 9 [2 ^ 54, 60] [], by decide +kernel⟩⟩

/-- Held releases of die 2, one due; object 5 is the doorbell of a queue there. -/
def relDue (set : Bool) (o : Nat) : State :=
  onDie (withRing (atFt up 1100) ⟨2, 0, 0⟩ [desc 1 0 0 []]) 2 fun x =>
    { x with rel := [{ ft := 1101, obj := 1, set := true, val := 7 }, { ft := 1100, obj := o, set := set, val := 7 }] }

theorem wit_HeldRelease : ((relDue true 5).die 2).dueRelease = some { ft := 1100, obj := 5, set := true, val := 7 }
    ∧ ((relDue true 5).die 2).isDoorbell 5 = true ∧ ((relDue false 6).die 2).dueRelease = some { ft := 1100, obj := 6, set := false, val := 7 }
    ∧ ((relDue false 6).die 2).isDoorbell 6 = false
    ∧ (relDue true 5).calm 4 = true ∧ ∀ n, n < (2 : DieId) → ((relDue true 5).die n).dueRelease = none := by decide +kernel

/-- A CONTEXT command k of channel 1 for context 3 of die 4, queue r, in a context in state st; its record at 0x10000. -/
def ctxCmd (k r : Nat) (st : CtxState) : State :=
  withCmd (up.updCtx 4 3 fun x => { x with state := st }) 1 9 [0x04 * 2 ^ 56, 0, k * 2 ^ 60 + 4 * 2 ^ 48 + 3 * 2 ^ 40 + r * 2 ^ 32, 0x10000] []

def ctxReadyB (s : State) (k : Nat) : Bool :=
  ((s.ready 1 9 0x04).any fun y => bits (y.qw 2) 63 60 == k && bits (y.qw 2) 52 48 == 4 && bits (y.qw 2) 42 40 == 3
    && (k != 5 || decide (bits (y.qw 2) 38 32 ≤ 71))) && (s.die 4).quire == some (s.chanQuire 1)
    && s.hostPath && (!decide (k ≤ 2) || !s.quireHeld (s.chanQuire 1)) && (s.die 4).presence == .inService && s.frz.cut.isNone && (s.die 4).governed && s.running

theorem ctxReady_of (s : State) (k : Nat) (h : ctxReadyB s k = true) : s.contextReady 1 9 k 4 3 := by
  simp only [ctxReadyB, Bool.and_eq_true, Option.any_eq_true, beq_iff_eq, Option.isNone_iff_eq_none, Bool.or_eq_true, bne_iff_ne,
    decide_eq_true_eq] at h
  obtain ⟨⟨⟨⟨⟨⟨⟨⟨y, h1, h2⟩, h3⟩, h4⟩, h9⟩, h5⟩, h6⟩, h7⟩, h8⟩ := h
  refine ⟨y, h1, h2.1.1.1, h2.1.1.2, h2.1.2, fun e => ?_, h3, h4, fun e => ?_, h5, h6, h7, h8⟩
  rotate_left
  · rcases h9 with g | g
    · simp only [Bool.not_eq_true', decide_eq_false_iff_not] at g; exact absurd e g
    · simpa using g
  rcases h2.2 with g | g
  · exact absurd e g
  · exact g

theorem wit_Contexts : (ctxCmd 1 0 .empty).contextReady 1 9 1 4 3 ∧ (ctxCmd 1 0 .running).contextReady 1 9 1 4 3
    ∧ (ctxCmd 2 0 .loaded).contextReady 1 9 2 4 3 ∧ (ctxCmd 2 0 .stopped).contextReady 1 9 2 4 3 ∧ (ctxCmd 2 0 .empty).contextReady 1 9 2 4 3
    ∧ (ctxCmd 3 0 .running).contextReady 1 9 3 4 3 ∧ (ctxCmd 3 0 .loaded).contextReady 1 9 3 4 3
    ∧ (ctxCmd 4 0 .faulted).contextReady 1 9 4 4 3 ∧ (ctxCmd 4 0 .stopping).contextReady 1 9 4 4 3
    ∧ (ctxCmd 5 71 .stopped).contextReady 1 9 5 4 3 ∧ (ctxCmd 5 71 .running).contextReady 1 9 5 4 3
    ∧ (ctxCmd 3 0 .running).busyUnits 4 3 = [] ∧ (ctxCmd 1 0 .empty).localOk 4 false 0x10000 2048 = true
    ∧ ((ctxCmd 1 0 .empty).readLocal 4 false 0x10000 2048).2.1 = 0
    ∧ (ctxCmd 1 0 .empty).loadStatus 4 (parseCtx (List.replicate 2048 0)) = 0
    ∧ (ctxCmd 1 0 .empty).loadStatus 4 { parseCtx (List.replicate 2048 0) with saveArea := 1 } ≠ 0 :=
  ⟨ctxReady_of _ _ (by decide +kernel), ctxReady_of _ _ (by decide +kernel), ctxReady_of _ _ (by decide +kernel), ctxReady_of _ _ (by decide +kernel),
   ctxReady_of _ _ (by decide +kernel), ctxReady_of _ _ (by decide +kernel), ctxReady_of _ _ (by decide +kernel), ctxReady_of _ _ (by decide +kernel),
   ctxReady_of _ _ (by decide +kernel), ctxReady_of _ _ (by decide +kernel), ctxReady_of _ _ (by decide +kernel), by decide +kernel⟩

/-- Context 1 of die 0 has a conversion in flight on CV; context 2 of higher priority has one at its front. -/
def preemptable : State :=
  let s := withRing up ⟨0, 2, 32⟩ [desc 0x70 0 0 []]
  let s := s.updCtx 0 2 fun x => { x with priority := 3 }
  let s := s.updCtx 0 1 fun x => { x with state := .running, preempt := true }
  let s := s.updQueue ⟨0, 1, 32⟩ fun q => { q with started := [startedOf (.ring 0) (desc 0x70 0 0 []) false] }
  s.updUnit 0 8 fun u => { u with bound := some 1 }

theorem wit_Preemption : (preemptable.getUnit 0 8).bound = some 1 ∧ (preemptable.getUnit 0 8).stopping = false
    ∧ (preemptable.getCtx 0 1).preempt = true ∧ (preemptable.getCtx 0 1).state = .running ∧ 0 < preemptable.inFlight 0 8
    ∧ (preemptable.getCtx 0 1).priority < (preemptable.getCtx 0 2).priority ∧ preemptable.wants 0 8 2 = true
    ∧ preemptable.frozenDie 0 = false := by decide +kernel

/-- A STOP of context 1 waits for CV alone. -/
def saving : State :=
  (preemptable.updUnit 0 8 fun u => { u with stopping := true }).updCtx 0 1 fun x =>
    { x with state := .stopping, saveArea := 0x100000, savesLeft := [8], stopCmd := some (1, 9) }

theorem wit_Save : (saving.getUnit 0 8).bound = some 1 ∧ (saving.getUnit 0 8).stopping = true ∧ saving.repliesDue 0 8 1 = false
    ∧ (saving.getCtx 0 1).saveArea + saveSize ≤ saving.localSize 0 ∧ saving.localSize 0 ≤ windowBase ∧ (saving.die 0).badDram = []
    ∧ (saving.getCtx 0 1).stopCmd = some (1, 9) := by decide +kernel

/-- A context whose CV state stands in its save area. -/
def restoring : State := up.updCtx 0 1 fun x => { x with state := .running, saveArea := 0x100000, saved := [8] }

theorem wit_Restore2 : restoring.restoreNext 0 8 = some 1 ∧ restoring.nextCtx 0 8 = some 1 ∧ restoring.inFlight 0 8 = 0
    ∧ (restoring.getUnit 0 8).stopping = false ∧ restoring.frozenDie 0 = false
    ∧ (restoring.readLocal 0 false (0x100000 + (saveExtent 8).1) (saveExtent 8).2).2.1 = 0 := by decide +kernel

/-! ### Matrix engines -/

/-- 64 bytes of a tensor descriptor in SRAM: format, base, five sizes, four strides. -/
def tensorBytes (fmt base : Nat) (sizes strides : List Nat) : List Byte :=
  leBytes 8 (fmt * 2 ^ 56 + 2 ^ 44 + base) ++ leBytes 8 (2 ^ 48) ++ sizes.flatMap (leBytes 3) ++ List.replicate 15 0
    ++ leBytes 18 (sumNat (strides.zipIdx.map fun (s, i) => s * 2 ^ (36 * i)))

def sramPut (s : State) (d : DieId) (off : Nat) (bs : List Byte) : State := s.updDie d fun x => { x with sram := splice x.sram off bs }

/-- Space and offset of an SRAM place in a descriptor. -/
def inSram (off : Nat) : Nat := 2 ^ 44 + off

/-- An MMA of A = [1, 2] and B = [3, 4] in BF16 into C in FP32, with this word 7, on engine 0; K elements. -/
def mmaSt (w7 k : Nat) : State :=
  let s := withRing up (qn 0) [desc 0x10 0 0 [0, 0, 0, inSram 0x1000, inSram 0x1040, inSram 0x1080, w7]]
  let s := sramPut s 0 0x1000 (tensorBytes 2 0x2000 [k, 1, 1, 1, 1] [1024, 0, 0, 0])
  let s := sramPut s 0 0x1040 (tensorBytes 2 0x3000 [k, 1, 1, 1, 1] [1024, 0, 0, 0])
  let s := sramPut s 0 0x1080 (tensorBytes 1 0x4000 [1, 1, 1, 1, 1] [4, 4, 4, 4])
  sramPut (sramPut s 0 0x2000 (leBytes 2 0x3F80 ++ leBytes 2 0x4000)) 0 0x3000 (leBytes 2 0x4040 ++ leBytes 2 0x4080)

def plainW : Nat := 2 ^ 58

/-- The front descriptor of queue q has this opcode and satisfies this. -/
def frontAt (s : State) (q : QueueId) (op : Nat) (f : List Nat → Bool) : Bool := (s.queue q).skip == 0 && match s.front q with
  | .ready d => dOp d == op && f d
  | _ => false

theorem atFrontQ (s : State) (q : QueueId) (op : Nat) (f : List Nat → Bool) (h : frontAt s q op f = true) : ∃ d, s.atFront q op d ∧ f d = true := by
  unfold frontAt at h
  simp only [Bool.and_eq_true, beq_iff_eq] at h
  obtain ⟨k, h⟩ := h
  split at h
  · next d hd =>
    simp only [Bool.and_eq_true, beq_iff_eq] at h
    exact ⟨d, ⟨k, hd, h.1⟩, h.2⟩
  · simp at h

/-- The status of an MMA's tensors and of its checks. -/
def mmaB (s : State) (d : List Nat) (f : Tensor → Tensor → Tensor → Bool) (st : Nat) : Bool :=
  match (s.mmaTensors (qn 0) d).2 with
  | (0, a, b, c) => s.mmaStatus (qn 0) (qw d 7) a b c == st && f a.1 b.1 c.1
  | _ => false

theorem wit_Mma :
    (∃ d, (mmaSt (3 * 2 ^ 60) 2).atFront (qn 0) 0x10 d ∧ reservedMma d = true)
    ∧ (∃ d, (mmaSt (plainW + 2 ^ 50 + 2 ^ 52) 2).atFront (qn 0) 0x10 d
        ∧ (!reservedMma d && mmaB (mmaSt (plainW + 2 ^ 50 + 2 ^ 52) 2) d (fun _ _ _ => true) 2) = true)
    ∧ (∃ d, (mmaSt plainW 0).atFront (qn 0) 0x10 d ∧ (!reservedMma d && mmaB (mmaSt plainW 0) d (fun a b c => a.empty || b.empty || c.empty) 0) = true)
    ∧ (∃ d, (mmaSt plainW 2).atFront (qn 0) 0x10 d ∧ (!reservedMma d && mmaB (mmaSt plainW 2) d (fun a b c => !(a.empty || b.empty || c.empty)) 0) = true)
    ∧ ∃ d, (mmaSt 0 2).atFront (qn 0) 0x10 d ∧ (!reservedMma d && mmaB (mmaSt 0 2) d (fun a _ _ => a.org 0 % 256 == 0) 0) = true :=
  ⟨atFrontQ _ _ _ _ (by decide +kernel), atFrontQ _ _ _ _ (by decide +kernel), atFrontQ _ _ _ _ (by decide +kernel),
   atFrontQ _ _ _ _ (by decide +kernel), atFrontQ _ _ _ _ (by decide +kernel)⟩

/-- The MMA started: its tile waits for its drain. -/
def draining (w7 k : Nat) : State := nx (exec (.mma (qn 0)) (mmaSt w7 k))

/-- A comparison that differs. -/
def badCheck : TileObs := { checks := [{ higher := false, row := true, index := 0, diff := 0x7F000000, mag := 0 }], rails := [] }

def okCheck : TileObs := { checks := [], rails := [] }

/-- The loop at work on engine 0 of die 0 and its panel's cells, once every premise but the comparison's outcome holds. -/
def drainB (s : State) (f : MmaRun → List (List Cell) → Bool) : Bool := match (s.die 0).mx[(0 : Fin 4)].runs with
  | r :: _ => r.q.die == 0 && (s.getCtx 0 r.q.ctx).state == .running && (s.getCtx 0 r.q.ctx).saved == [] && (s.getUnit 0 0).stopFt == none
      && !(s.getUnit 0 0).parked && !s.stalled 0 0 && s.running && !s.streamHeld 0 0 r && (s.die 0).presence == .inService && !s.engineAbsent 0 0
      && (match (s.panelTile r (r.at_ (s.joined 0 0))).2 with
        | (0, rows) => f r rows
        | _ => false)
  | [] => false

theorem wit_Drain :
    drainB (draining 0 300) (fun r rows => (draining 0 300).tilePasses r 0 okCheck rows rows && decide (r.panel + 1 < r.panelTotal)) = true
    ∧ drainB (draining plainW 2) (fun r rows => (draining plainW 2).tilePasses r 0 okCheck rows rows && decide (r.panelTotal ≤ r.panel + 1)
        && r.panels.isEmpty && decide (r.tiles false ≤ r.tile + 1)
        && (Work.writeAll { s := draining plainW 2, st := 0, wrote := [] } 0 (tileWrites r (r.at_ false) rows).1).st == 0) = true
    ∧ drainB (draining plainW 2) (fun r rows => !(draining plainW 2).tilePasses r 0 badCheck rows rows && (draining plainW 2).setting 0x2060 2 == 1 && !r.retry
        && wInit r.w7 == 0) = true
    ∧ drainB ((draining plainW 2).setSetting 0x2060 2 0) (fun r rows => !((draining plainW 2).setSetting 0x2060 2 0).tilePasses r 0 badCheck rows rows) = true := by
  decide +kernel

/-- An MXTEST on engine 0 of die 0. -/
def mxSt : State := withRing up (qn 0) [desc 0x11 0 0 []]

theorem wit_Mxtest : (∃ d, mxSt.atFront (qn 0) 0x11 d ∧ true = true) ∧ mxSt.engineAbsent 0 0 = false ∧ (mmaSt plainW 2).engineAbsent 0 (engineOf (qn 0)) = false ∧ mxSt.joined 0 0 = false
    ∧ (mxSt.die 0).mx[(0 : Fin 4)].removed = false ∧ (mxSt.die 0).mx[(0 : Fin 4)].unchecked = 0 ∧ (mxSt.die 0).mx[(0 : Fin 4)].covers (.cell 255 7) = false :=
  ⟨atFrontQ _ _ _ _ (by decide +kernel), by decide +kernel⟩

/-- An engine with a fault found, fresh or with a dimension already lost. -/
def faulty (un : Nat) : State := up.updMx 3 2 fun m => { m with found := [.row 9], unchecked := un }

theorem wit_TipIn : ((faulty 0).die 3).mx[(2 : Fin 4)].found = [.row 9] ∧ ((faulty 0).die 3).mx[(2 : Fin 4)].removed = false
    ∧ ((faulty 0).die 3).mx[(2 : Fin 4)].covers (.row 9) = false ∧ ((faulty 0).die 3).mx[(2 : Fin 4)].unchecked = 0
    ∧ ((faulty 2).die 3).mx[(2 : Fin 4)].unchecked ≠ 0 ∧ ((faulty 2).die 3).mx[(2 : Fin 4)].covers (.row 9) = false
    ∧ (faulty 2).joined 3 1 = false := by decide +kernel

/-- Two terms of a canonical combination in either order. -/
theorem wit_Canonical : List.Perm [(0x3F800000 : F32), 0x40000000] [0x40000000, 0x3F800000] := .swap _ _ _

/-! ### Vector engines, CONVERT, COMBINE, the gather engine -/

/-- A vector instruction on V registers or a tensor. -/
def vins (op dst a b ti imm : Nat) : Nat := op * 2 ^ 58 + dst * 2 ^ 53 + a * 2 ^ 48 + b * 2 ^ 43 + ti * 2 ^ 32 + imm

def putAll (s : State) (off : Nat) (ws : List Nat) : State := sramPut s 0 off (ws.flatMap (leBytes 8))

/-- LD V0, input 0; ADD V1, V0, V0; ST output 0, V1 over [1, 2] in FP32 with these sizes; word 6 beside the counts. -/
def vpTens (sizes : List Nat) (w6 : Nat) : State :=
  let s := withRing up (qn 16) [desc 0x30 0 0 [0, 0, 0, inSram 0x1000, inSram 0x1040, w6, inSram 0x1800]]
  let s := putAll s 0x1000 [vins 1 0 0 0 0 0, vins 4 1 0 0 0 0, vins 2 0 1 0 4 0]
  let s := sramPut s 0 0x1040 (tensorBytes 1 0x2000 sizes [4, 4, 4, 4])
  let s := sramPut s 0 0x1080 (tensorBytes 1 0x3000 sizes [4, 4, 4, 4])
  sramPut s 0 0x2000 (leBytes 4 0x3F800000 ++ leBytes 4 0x40000000)

def vpSt (n w6 : Nat) : State := vpTens [n, 1, 1, 1, 1] w6
def vpRows (w6 : Nat) : State := vpTens [1, 2, 1, 1, 1] w6

def vpW : Nat := 3 * 2 ^ 58 + 1 * 2 ^ 55 + 1 * 2 ^ 53 + 2 * 2 ^ 49

/-- Engine 0 removed. -/
def noEngine0 (s : State) : State := s.updMx 0 0 fun m => { m with removed := true }

def vpB (s : State) (d : List Nat) (st : Nat) (f : VProg → Bool) : Bool := match (s.readProg 0 d).2 with
  | (0, g) => s.vprogStatus (qn 16) d g == st && f g
  | _ => false

/-- The word at 0x2000 of die 0's SRAM is uncorrectable. -/
def badIn0 (s : State) : State := onDie s 0 fun x => { x with badSram := [0x100] }

def vpGoes (s : State) (d : List Nat) (blocks : Option Nat) (f : Nat → Nat → Nat → Bool) : Bool := vpB s d 0 fun g =>
  g.iter.any fun it => !it.empty &&
    (let s2 := s.start (qn 16) d (s.queue (qn 16)).next.after (startedOf (s.queue (qn 16)).next d false)
     let e := vEnv 0 d g it (s2.seedOf 0)
     let x := (VRun.start s2).go e 0 blocks
     f x.2 e.steps.length (x.1.finish e).1.st)

theorem wit_Vprog :
    (∃ d, (vpSt 2 (33 * 2 ^ 58)).atFront (qn 16) 0x30 d ∧ vpReserved d = true)
    ∧ (∃ d, (vpSt 2 0).atFront (qn 16) 0x30 d ∧ (!vpReserved d && vpCount d == 0 && !(vpSt 2 0).importAbsent 0 d) = true)
    ∧ (∃ d, (noEngine0 (vpSt 2 (2 ^ 43 + 2 ^ 27))).atFront (qn 16) 0x30 d
        ∧ (!vpReserved d && vpCount d == 0 && (noEngine0 (vpSt 2 (2 ^ 43 + 2 ^ 27))).importAbsent 0 d) = true)
    ∧ (∃ d, (vpSt 2 (vpW - 2 ^ 53)).atFront (qn 16) 0x30 d ∧ (!vpReserved d && vpCount d != 0 && vpB (vpSt 2 (vpW - 2 ^ 53)) d 2 fun _ => true) = true)
    ∧ (∃ d, (vpSt 0 vpW).atFront (qn 16) 0x30 d
        ∧ (!vpReserved d && vpCount d != 0 && vpB (vpSt 0 vpW) d 0 fun g => g.iter.any (·.empty)) = true)
    ∧ (∃ d, (vpSt 2 vpW).atFront (qn 16) 0x30 d ∧ (!vpReserved d && vpCount d != 0 && vpGoes (vpSt 2 vpW) d none fun n m st => m ≤ n && st == 0) = true)
    ∧ (∃ d, (vpSt 2 vpW).atFront (qn 16) 0x30 d
        ∧ (!vpReserved d && vpCount d != 0 && vpGoes (vpSt 2 vpW) d (some 0) fun n m st => n < m && st == 0) = true)
    ∧ (∃ d, (badIn0 (vpSt 2 vpW)).atFront (qn 16) 0x30 d
        ∧ (!vpReserved d && vpCount d != 0 && vpGoes (badIn0 (vpSt 2 vpW)) d none fun n m st => m ≤ n && st == 0x12) = true) :=
  ⟨atFrontQ _ _ _ _ (by decide +kernel), atFrontQ _ _ _ _ (by decide +kernel), atFrontQ _ _ _ _ (by decide +kernel),
   atFrontQ _ _ _ _ (by decide +kernel), atFrontQ _ _ _ _ (by decide +kernel), atFrontQ _ _ _ _ (by decide +kernel),
   atFrontQ _ _ _ _ (by decide +kernel), atFrontQ _ _ _ _ (by decide +kernel)⟩

/-- The descriptor of a queue that stands between two of its element blocks. -/
def midB (s : State) (q : QueueId) (f : Started → Job → Bool) : Bool := match s.inHand q with
  | some (y, j) => f y j
  | none => false

def vpMidB (s : State) (blocks : Option Nat) (f : Nat → Nat → Nat → Bool) : Bool := midB s (qn 16) fun y j => match j.work with
  | .vector g done rows loads z => g.iter.any fun it =>
    let e := vEnv 0 y.qws g it j.seed
    let x := VRun.go e { a := { k := { s := s, st := 0, wrote := j.wrote }, nan := j.nan, sat := j.sat }, rows := rows, loads := loads, sum := z }
      done (s.blocksNow 0 blocks)
    f x.2 e.steps.length (x.1.finish e).1.st
  | _ => false

/-- A program before its first element block; one of two rows of one element before its first block, and before its second. -/
def vpMid : State := nx (exec (.vprog ⟨(qn 16), (some 0)⟩) (vpSt 2 vpW))
def vpMid2 : State := nx (exec (.vprog ⟨(qn 16), (some 0)⟩) (vpRows vpW))
def vpMid3 : State := nx (exec (.vprog ⟨(qn 16), (some 1)⟩) (vpRows vpW))

theorem wit_VprogGoesOn :
    vpMidB vpMid (some 0) (fun n m st => n < m && st == 0) = true ∧ vpMidB vpMid none (fun n m st => m ≤ n && st == 0) = true
      ∧ vpMidB (badIn0 vpMid2) none (fun n m st => m ≤ n && st == 0x12) = true := by decide +kernel

/-- After one element block of two, the first row of the output stands and the descriptor is not done; after the other it is, and the
output is the same as in one go: 2 and 4 (R97, R203). -/
theorem test_vprog_blocks :
    ((vpMid3.peek 0 true 0x3000 8 == leBytes 4 0x40000000 ++ leBytes 4 0) && (vpMid3.queue (qn 16)).started.all (!·.done)
      && ((nx (exec (.vprog ⟨(qn 16), none⟩) vpMid3)).peek 0 true 0x3000 8 == leBytes 4 0x40000000 ++ leBytes 4 0x40800000)
      && ((nx (exec (.vprog ⟨(qn 16), none⟩) vpMid3)).queue (qn 16)).started.all (·.done)) = true := by decide +kernel

/-- CONVERT of [1, 2] in FP32 of n elements to BF16, its word 6. -/
def cvSt (n m w6 : Nat) : State :=
  let s := withRing up (qn 32) [desc 0x70 0 0 [0, 0, 0, inSram 0x1000, inSram 0x1040, w6, 0]]
  let s := sramPut s 0 0x1000 (tensorBytes 1 0x2000 [n, 1, 1, 1, 1] [4, 4, 4, 4])
  let s := sramPut s 0 0x1040 (tensorBytes 2 0x3000 (if w6 = 2 ^ 63 then [1, m, 1, 1, 1] else [m, 1, 1, 1, 1]) [2, 2, 2, 2])
  sramPut s 0 0x2000 (leBytes 4 0x3F800000 ++ leBytes 4 0x40000000)

def cvB (s : State) (d : List Nat) (st : Nat) (f : Tensor → Tensor → Bool) : Bool := match (s.readPair 0 (qw d 4) (qw d 5)).2 with
  | (0, a, b) => s.convertStatus 0 (bit (qw d 6) 63) a b == st && f a.1 b.1
  | _ => false

def cvGoes (s : State) (d : List Nat) (blocks : Option Nat) (f : Bool → Nat → Bool) (a b : Tensor) : Bool := !b.empty &&
  (let s2 := s.start (qn 32) d (s.queue (qn 32)).next.after (startedOf (s.queue (qn 32)).next d false)
   let n := convertCount (convertRuns b) blocks
   f ((convertRuns b).drop n).isEmpty (((convertRuns b).take n).foldl (CAcc.run 0 d (s2.seedOf 0) a b)
     { k := { s := s2, st := 0, wrote := [] }, nan := false, sat := false }).k.st)

def cvMidB (s : State) (blocks : Option Nat) (f : Bool → Nat → Bool) : Bool := midB s (qn 32) fun y j => match j.work with
  | .convert src dst runs =>
    let n := convertCount runs (s.blocksNow 0 blocks)
    f (runs.drop n).isEmpty ((runs.take n).foldl (CAcc.run 0 y.qws j.seed src dst)
      { k := { s := s, st := 0, wrote := j.wrote }, nan := j.nan, sat := j.sat }).k.st
  | _ => false

def cvMid : State := nx (exec (.convert ⟨(qn 32), (some 0)⟩) (cvSt 2 2 0))

theorem wit_Convert :
    (∃ d, (cvSt 2 3 0).atFront (qn 32) 0x70 d ∧ cvB (cvSt 2 3 0) d 2 (fun _ _ => true) = true)
    ∧ (∃ d, (cvSt 0 0 (2 ^ 61)).atFront (qn 32) 0x70 d ∧ cvB (cvSt 0 0 (2 ^ 61)) d 0 (fun _ b => b.empty) = true)
    ∧ (∃ d, (cvSt 2 2 (2 ^ 63)).atFront (qn 32) 0x70 d
        ∧ cvB (cvSt 2 2 (2 ^ 63)) d 0 (cvGoes (cvSt 2 2 (2 ^ 63)) d none fun e st => e && st == 0) = true)
    ∧ (∃ d, (cvSt 2 2 0).atFront (qn 32) 0x70 d ∧ cvB (cvSt 2 2 0) d 0 (cvGoes (cvSt 2 2 0) d (some 0) fun e st => !e && st == 0) = true)
    ∧ (∃ d, (badIn0 (cvSt 2 2 0)).atFront (qn 32) 0x70 d
        ∧ cvB (badIn0 (cvSt 2 2 0)) d 0 (cvGoes (badIn0 (cvSt 2 2 0)) d none fun e st => e && st == 0x12) = true) :=
  ⟨atFrontQ _ _ _ _ (by decide +kernel), atFrontQ _ _ _ _ (by decide +kernel), atFrontQ _ _ _ _ (by decide +kernel),
   atFrontQ _ _ _ _ (by decide +kernel), atFrontQ _ _ _ _ (by decide +kernel)⟩

theorem wit_ConvertGoesOn :
    cvMidB cvMid none (fun e st => e && st == 0) = true ∧ cvMidB cvMid (some 0) (fun e st => !e && st == 0) = true
      ∧ cvMidB (badIn0 cvMid) none (fun _ st => st == 0x12) = true := by decide +kernel

/-- 1 and 2 in BF16 stand after the command that goes on (R137, R145). -/
theorem test_convert_goes_on :
    (nx (exec (.convert ⟨(qn 32), none⟩) cvMid)).peek 0 true 0x3000 4 = leBytes 2 0x3F80 ++ leBytes 2 0x4000 := by decide +kernel

/-- COMBINE of n inputs [1, 2] in FP32. -/
def cbSt (n m w5 : Nat) : State :=
  let s := withRing up (qn 24) [desc 0x50 0 0 [0, 0, 0, inSram 0x1000, w5 + n * 2 ^ 59, 0, 0]]
  let s := (List.range n).foldl (fun s i => sramPut s 0 (0x1000 + 64 * i) (tensorBytes 1 0x2000 [2 * m, 1, 1, 1, 1] [4, 4, 4, 4])) s
  let s := sramPut s 0 (0x1000 + 64 * n) (tensorBytes 1 0x3000 [2 * m, 1, 1, 1, 1] [4, 4, 4, 4])
  sramPut s 0 0x2000 (leBytes 4 0x3F800000 ++ leBytes 4 0x40000000)

def cbB (s : State) (d : List Nat) (st : Nat) (f : List (Tensor × Bool) → Bool) : Bool :=
  s.placeStatus 0 (fSram (qw d 4)) (fOff (qw d 4)) (64 * (cbIn d + 1)) 64 == 0
    && match (s.readTensors 0 (fSram (qw d 4)) (fOff (qw d 4)) (cbIn d + 1)).2 with
      | (0, ts) => s.cbStatus (qn 24) d ts == st && f ts
      | _ => false

def railBad : List RailObs := [.twice]

def cbRuns (s : State) (d : List Nat) (rails : List RailObs) (blocks : Option Nat) (f : Bool → Nat → Bool) (ts : List (Tensor × Bool)) :
    Bool :=
  match (s.cbValues 0 ((ts.take (cbIn d)).map (·.1))).2 with
  | (0, vals) =>
    let x := s.cbRows d (tensorOf ts (cbIn d)) vals
    let s3 := x.1.start (qn 24) d (s.queue (qn 24)).next.after (startedOf (s.queue (qn 24)).next d false)
    let gs := cbGroups (tensorOf ts (cbIn d)) x.2
    let m := (blocks.map (64 * ·)).getD gs.length
    f (gs.drop m).isEmpty (Work.writeGroups { s := s3, st := 0, wrote := [] } 0 (gs.take m) rails).st && !(tensorOf ts (cbIn d)).empty
  | _ => false

def cbMidB (s : State) (rails : List RailObs) (blocks : Option Nat) (f : Bool → Nat → Bool) : Bool := midB s (qn 24) fun _ j => match j.work with
  | .combine _ gs =>
    let m := ((s.blocksNow 0 blocks).map (64 * ·)).getD gs.length
    f (gs.drop m).isEmpty (Work.writeGroups { s := s, st := 0, wrote := [] } 0 (gs.take m) rails).st
  | _ => false

def cbMid : State := nx (exec (.cbCombine ⟨(qn 24), (some 0)⟩ []) (cbSt 3 1 (2 ^ 57)))

theorem wit_CombineGoesOn :
    cbMidB cbMid [] none (fun e st => e && st == 0) = true ∧ cbMidB cbMid [] (some 0) (fun e st => !e && st == 0) = true
      ∧ cbMidB cbMid railBad none (fun _ st => st == 0x31) = true := by decide +kernel

theorem wit_Combine :
    (∃ d, (cbSt 3 1 (2 * 2 ^ 57)).atFront (qn 24) 0x50 d ∧ decide (1 < bits (qw d 5) 58 57) = true)
    ∧ (∃ d, (cbSt 0 1 0).atFront (qn 24) 0x50 d ∧ (cbIn d == 0 && fSpace (qw d 4) == 1) = true)
    ∧ (∃ d, (cbSt 3 0 (2 ^ 57)).atFront (qn 24) 0x50 d ∧ cbB (cbSt 3 0 (2 ^ 57)) d 0 (fun ts => (tensorOf ts 3).empty) = true)
    ∧ (∃ d, (cbSt 3 1 (2 ^ 57)).atFront (qn 24) 0x50 d ∧ cbB (cbSt 3 1 (2 ^ 57)) d 0 (cbRuns (cbSt 3 1 (2 ^ 57)) d [] none fun e st => e && st == 0) = true)
    ∧ (∃ d, (cbSt 3 1 (2 ^ 57)).atFront (qn 24) 0x50 d
        ∧ cbB (cbSt 3 1 (2 ^ 57)) d 0 (cbRuns (cbSt 3 1 (2 ^ 57)) d [] (some 0) fun e st => !e && st == 0) = true)
    ∧ ∃ d, (cbSt 3 1 (2 ^ 57)).atFront (qn 24) 0x50 d ∧ cbB (cbSt 3 1 (2 ^ 57)) d 0 (cbRuns (cbSt 3 1 (2 ^ 57)) d railBad none fun _ st => st == 0x31) = true :=
  ⟨atFrontQ _ _ _ _ (by decide +kernel), atFrontQ _ _ _ _ (by decide +kernel), atFrontQ _ _ _ _ (by decide +kernel),
   atFrontQ _ _ _ _ (by decide +kernel), atFrontQ _ _ _ _ (by decide +kernel),
   atFrontQ _ _ _ _ (by decide +kernel)⟩

/-- A flat GATHER of rows of 8 bytes at these positions, out of 2. -/
def gaSt (is : List Nat) (w6 : Nat) : State :=
  let s := withRing up (qn 28) [desc 0x60 0 0 [0, 0, 0, inSram 0x2000, inSram 0x1000, w6, 8]]
  let s := sramPut s 0 0x1000 (tensorBytes 10 0x1100 [is.length, 1, 1, 1, 1] [4, 4, 4, 4])
  let s := sramPut s 0 0x1040 (tensorBytes 1 0x3000 [2, is.length, 1, 1, 1] [8, 8, 8, 8])
  let s := sramPut s 0 0x1100 (is.flatMap (leBytes 4))
  sramPut s 0 0x2000 ((List.range 16).map (BitVec.ofNat 8 ·))

def gaW : Nat := 2 * 2 ^ 41 + 2 ^ 22

def gaRuns (s : State) (d : List Nat) (n : Nat) (f : GAcc → Bool) : Bool := match (s.readSet 0 (qw d 5) 2).2 with
  | (0, ts) => s.gatherStatus 0 d ts == 0 && !((tensorOf ts 0).empty || (tensorOf ts 1).empty) && match (s.allCodes 0 (tensorOf ts 0)).2 with
    | (0, is) => f ((s.start (qn 28) d (s.queue (qn 28)).next.after (startedOf (s.queue (qn 28)).next d false)).gatherLanes (qn 28) d
        (s.queue (qn 28)).next (tensorOf ts 1) [] ((gatherPlan is []).take n))
    | _ => false
  | _ => false

theorem wit_Gather :
    (∃ d, (gaSt [1, 0] (2 * 2 ^ 22)).atFront (qn 28) 0x60 d ∧ decide (1 < bits (qw d 6) 23 22) = true)
    ∧ (∃ d, (gaSt [1, 0] (2 ^ 22)).atFront (qn 28) 0x60 d ∧ (gaCount d == 0) = true)
    ∧ (∃ d, (gaSt [1, 0] gaW).atFront (qn 28) 0x60 d ∧ (gaFlat d && gaRuns (gaSt [1, 0] gaW) d 2 fun a => a.fault.isNone) = true)
    ∧ (∃ d, (gaSt [1, 0] gaW).atFront (qn 28) 0x60 d ∧ (gaFlat d && gaRuns (gaSt [1, 0] gaW) d 1 fun a => a.fault.isNone) = true)
    ∧ ∃ d, (gaSt [1, 2] gaW).atFront (qn 28) 0x60 d ∧ (gaFlat d && gaRuns (gaSt [1, 2] gaW) d 2 fun a => a.fault.isSome && a.ops.isEmpty) = true :=
  ⟨atFrontQ _ _ _ _ (by decide +kernel), atFrontQ _ _ _ _ (by decide +kernel), atFrontQ _ _ _ _ (by decide +kernel),
   atFrontQ _ _ _ _ (by decide +kernel), atFrontQ _ _ _ _ (by decide +kernel)⟩

def gaMidB (s : State) (n : Option Nat) (f : Started → GAcc → Bool → Bool) : Bool := midB s (qn 28) fun y j => match j.work with
  | .gather dst lanes =>
    let n := (s.blocksNow 0 n).getD lanes.length
    f y (s.gatherLanes (qn 28) y.qws y.pos dst j.wrote (lanes.take n)) (lanes.drop n).isEmpty
  | _ => false

/-- GATHER after its first row, the second position good, and out of range. -/
def gaMid (is : List Nat) : State := nx (exec (.gather ⟨(qn 28), (some 1)⟩) (gaSt is gaW))

/-- A reply has brought a fault. -/
def gaFault : State := (gaMid [1, 0]).updQueue (qn 28) fun x => { x with started := x.started.map fun e => { e with fault := some (0, 0x13) } }

theorem wit_GatherGoesOn :
    gaMidB (gaMid [1, 0]) none (fun y a e => y.fault.isNone && a.fault.isNone && e) = true
      ∧ gaMidB (gaMid [1, 0]) (some 0) (fun y a e => y.fault.isNone && a.fault.isNone && !e) = true
      ∧ gaMidB (gaMid [1, 2]) none (fun y a _ => y.fault.isNone && a.fault.isSome && (y.ops ++ a.ops).isEmpty) = true
      ∧ gaMidB gaFault none (fun y _ _ => y.fault == some (0, 0x13) && y.ops.isEmpty) = true := by decide +kernel

/-- After its first row the destination holds it and nothing else; the second follows (R209, R210). -/
theorem test_gather_row_by_row :
    ((gaMid [1, 0]).peek 0 true 0x3000 16 == ((List.range 8).map fun i => BitVec.ofNat 8 (8 + i)) ++ List.replicate 8 0
      && (nx (exec (.gather ⟨(qn 28), none⟩) (gaMid [1, 0]))).peek 0 true 0x3000 16
          == ((List.range 8).map fun i => BitVec.ofNat 8 (8 + i)) ++ (List.range 8).map fun i => BitVec.ofNat 8 i) = true := by decide +kernel

/-- ROUTE COUNT, DISPATCH or COMBINE over two tokens of one route each to these experts of two, rows of 8 bytes at 0x2000, their
slots in DRAM of die 0 of node 0. -/
def exSt (op : Nat) (es : List Nat) (w6 : Nat) : State :=
  let s := withRing up (qn 28) [desc op 0 0 [0, 0, 0, inSram 0x1200, inSram 0x1000, w6, 0]]
  let t := tensorBytes 10 0x1100 [1, 2, 1, 1, 1] [4, 4, 4, 4]
  let rows := tensorBytes 1 0x2000 [2, 2, 1, 1, 1] [8, 8, 8, 8]
  let map := tensorBytes 10 0x3000 [1, 2, 1, 1, 1] [4, 4, 4, 4]
  let gates := tensorBytes 1 0x1180 [1, 2, 1, 1, 1] [4, 4, 4, 4]
  let list := tensorBytes 10 0x3000 [2, 1, 1, 1, 1] [4, 4, 4, 4]
  let s := sramPut s 0 0x1000 (t ++ (if op = 0x61 then list else if op = 0x62 then rows ++ map else map ++ gates ++ rows))
  let expert (x n : Nat) : List Byte := leBytes 8 x ++ leBytes 8 x ++ leBytes 4 0 ++ leBytes 4 n ++ leBytes 4 8 ++ leBytes 4 0
  let s := sramPut s 0 0x1200 (expert 0x10000 1 ++ expert 0x20000 4)
  let s := sramPut s 0 0x1180 (leBytes 4 0x3F800000 ++ leBytes 4 0x40000000)
  let s := sramPut s 0 0x2000 (leBytes 4 0x3F800000 ++ leBytes 4 0x40000000 ++ leBytes 4 0x40400000 ++ leBytes 4 0x40800000)
  sramPut s 0 0x1100 (es.flatMap (leBytes 4))

def exW : Nat := 2 * 2 ^ 48 + 1 * 2 ^ 44

def exRuns (s : State) (d : List Nat) (n : Nat) (w : List Bool) (rules : List (Tensor × Bool) → Bool)
    (f : List Expert → List (Tensor × Bool) → List Nat → Bool) : Bool := match (s.readExperts 0 d n).2 with
  | (0, es, ts) => s.expertStatus 0 d ts w (rules ts) == 0 && !(tensorOf ts 0).empty && match (s.allCodes 0 (tensorOf ts 0)).2 with
    | (0, ws) => f es ts ws
    | _ => false
  | _ => false

def countRules (ts : List (Tensor × Bool)) : Bool := (tensorOf ts 1).format == .int32 && ((tensorOf ts 1).empty || (tensorOf ts 1).count == 2)

theorem wit_RouteCount :
    (∃ d, (exSt 0x61 [1, 0] (9 * 2 ^ 44)).atFront (qn 28) 0x61 d ∧ exReserved d false = true)
    ∧ (∃ d, (exSt 0x61 [1, 0] (2 * 2 ^ 48)).atFront (qn 28) 0x61 d ∧ (!exReserved d false && exK d == 0) = true)
    ∧ (∃ d, (exSt 0x61 [1, 0] exW).atFront (qn 28) 0x61 d ∧ exRuns (exSt 0x61 [1, 0] exW) d 2 [false, true] countRules
        (fun _ ts ws => !(tensorOf ts 1).empty && (routesOf 2 1 ws).1 == 0
          && ((exSt 0x61 [1, 0] exW).writeList 0 (tensorOf ts 1) (routeCounts 2 (routesOf 2 1 ws).2)).st == 0) = true)
    ∧ ∃ d, (exSt 0x61 [1, 2] exW).atFront (qn 28) 0x61 d ∧ exRuns (exSt 0x61 [1, 2] exW) d 2 [false, true] countRules
        (fun _ _ ws => (routesOf 2 1 ws).1 != 0) = true :=
  ⟨atFrontQ _ _ _ _ (by decide +kernel), atFrontQ _ _ _ _ (by decide +kernel), atFrontQ _ _ _ _ (by decide +kernel),
   atFrontQ _ _ _ _ (by decide +kernel)⟩

def dispRules (ts : List (Tensor × Bool)) : Bool :=
  (tensorOf ts 2).format == .int32 && (tensorOf ts 2).sizes == (tensorOf ts 0).sizes && (tensorOf ts 1).rowCount == (tensorOf ts 0).rowCount
    && decide ((tensorOf ts 1).copyBytes ≤ 8)

/-- Both tokens go to expert 0, whose capacity is one slot: the second is dropped. -/
theorem wit_Dispatch :
    (∃ d, (exSt 0x62 [0, 0] (9 * 2 ^ 44)).atFront (qn 28) 0x62 d ∧ exReserved d false = true)
    ∧ (∃ d, (exSt 0x62 [0, 0] (2 ^ 44)).atFront (qn 28) 0x62 d ∧ (!exReserved d false && exCount d == 0) = true)
    ∧ ∃ d, (exSt 0x62 [0, 0] exW).atFront (qn 28) 0x62 d ∧ exRuns (exSt 0x62 [0, 0] exW) d 3 [false, false, true] dispRules
        (fun es ts ws =>
          let s := exSt 0x62 [0, 0] exW
          let p := (s.queue (qn 28)).next
          let rs := routesOf 2 1 ws
          let slots := slotsOf es [] rs.2
          let a := (s.start (qn 28) d p.after (startedOf p d false)).dispatchRows (qn 28) p es (tensorOf ts 1) (rs.2.zip slots)
          rs.1 == 0 && es.all (fun e => !reservedSpace e.dest && (gaddr e.dest).space == 0 && e.stride == 8) && a.fault.isNone && slots.any (·.2)
            && (a.k.writeList 0 (tensorOf ts 2) (slots.map slotCode)).st == 0) = true :=
  ⟨atFrontQ _ _ _ _ (by decide +kernel), atFrontQ _ _ _ _ (by decide +kernel), atFrontQ _ _ _ _ (by decide +kernel)⟩

def gtRules (ts : List (Tensor × Bool)) : Bool :=
  (tensorOf ts 1).format == .int32 && (tensorOf ts 2).format == .fp32 && (tensorOf ts 1).sizes == (tensorOf ts 0).sizes
    && (tensorOf ts 2).sizes == (tensorOf ts 0).sizes && (tensorOf ts 3).rowCount == (tensorOf ts 0).rowCount && (tensorOf ts 3).format.isFloat
    && decide ((tensorOf ts 3).copyBytes ≤ 8)

theorem wit_GtCombine :
    (∃ d, (exSt 0x64 [0, 1] (3 * 2 ^ 42)).atFront (qn 28) 0x64 d ∧ exReserved d true = true)
    ∧ (∃ d, (exSt 0x64 [0, 1] (2 ^ 42)).atFront (qn 28) 0x64 d ∧ (!exReserved d true && exCount d == 0) = true)
    ∧ ∃ d, (exSt 0x64 [0, 1] (exW + 2 ^ 42)).atFront (qn 28) 0x64 d
        ∧ exRuns (exSt 0x64 [0, 1] (exW + 2 ^ 42)) d 4 [false, false, false, true]
          (fun ts => gtRules ts && ((exSt 0x64 [0, 1] (exW + 2 ^ 42)).getCtx 0 0).settingsOk 1 (some 0) (some false))
          (fun es ts ws => es.all (fun e => !reservedSpace e.source && (gaddr e.source).space == 0) && !(tensorOf ts 3).empty && (routesOf 2 1 ws).1 == 0) = true :=
  ⟨atFrontQ _ _ _ _ (by decide +kernel), atFrontQ _ _ _ _ (by decide +kernel), atFrontQ _ _ _ _ (by decide +kernel)⟩

/-- SET SIZE of these counts into dimension 1 of the tensor descriptor at 0x1000. -/
def szSt (cs : List Nat) (w6 : Nat) : State :=
  let s := withRing up (qn 28) [desc 0x63 0 0 [0, 0, 0, inSram 0x2000, inSram 0x1000, w6, 0]]
  let s := sramPut s 0 0x1000 (tensorBytes 1 0x3000 [2, 1, 1, 1, 1] [8, 8, 8, 8])
  sramPut s 0 0x2000 (cs.flatMap (leBytes 4))

def szB (s : State) (d : List Nat) (f : List Int → Bool) : Bool := match (s.readLocal 0 (fSram (qw d 4)) (fOff (qw d 4)) (4 * bits (qw d 6) 63 48)).2 with
  | (0, b) => f ((chunksOf 4 (bits (qw d 6) 63 48 + 1) b).map fun c => int32Of (leNat c))
  | _ => false

def szW : Nat := 2 * 2 ^ 48 + 2 ^ 45

theorem wit_SetSize :
    (∃ d, (szSt [1, 2] (5 * 2 ^ 45)).atFront (qn 28) 0x63 d ∧ decide (4 < bits (qw d 6) 47 45) = true)
    ∧ (∃ d, (szSt [1, 2] (2 ^ 45)).atFront (qn 28) 0x63 d ∧ (bits (qw d 6) 63 48 == 0) = true)
    ∧ (∃ d, (szSt [0xFFFFFFFF, 2] szW).atFront (qn 28) 0x63 d ∧ szB (szSt [0xFFFFFFFF, 2] szW) d (fun v => v.any (· < 0)) = true)
    ∧ (∃ d, (szSt [16777215, 1] szW).atFront (qn 28) 0x63 d ∧ szB (szSt [16777215, 1] szW) d (fun v => v.all (0 ≤ ·) && decide (16777215 < v.sum)) = true)
    ∧ ∃ d, (szSt [16777214, 1] szW).atFront (qn 28) 0x63 d ∧ szB (szSt [16777214, 1] szW) d (fun v => v.all (0 ≤ ·) && decide (v.sum ≤ 16777215)) = true :=
  ⟨atFrontQ _ _ _ _ (by decide +kernel), atFrontQ _ _ _ _ (by decide +kernel), atFrontQ _ _ _ _ (by decide +kernel),
   atFrontQ _ _ _ _ (by decide +kernel), atFrontQ _ _ _ _ (by decide +kernel)⟩

/-! ### DMA channels -/

/-- A COPY from SRAM 0x2000 to this address: length, rows, and bits C and GC; operations of its stream outstanding or not. -/
def cpSt (dst len rows cg : Nat) (busy : Bool) : State :=
  let s := withRing up (qn 40) [desc 0x80 0 0 [0, 0, 0, inSram 0x2000, dst, len * 2 ^ 36 + rows * 2 ^ 12 + cg * 2 ^ 8, 64 * 2 ^ 32 + 64]]
  let s := sramPut s 0 0x2000 ((List.range 16).map (BitVec.ofNat 8 ·))
  if busy then (s.issue (srcOf 0) (s.dieTag 0)
    { owner := .collective 0 0, stream := 0, target := 2 ^ 37 + 0x1000, op := 0x02, payload := [1, 2, 3, 4], size := 4 }).1 else s

def cpB (s : State) (d : List Nat) (st : Nat) (w : Nat) : Bool := s.copyStatus (qn 40) d == st && match s.ownPlace 0 (qw d 4) (cpLen d),
    s.ownPlace 0 (qw d 5) (cpLen d) with
  | some (.ok a), some (.ok b) => w == 0 && (s.readOwn 0 a (cpLen d)).2.1 == 0 && (s.die b.die).badIn b.sram b.off (cpLen d) == []
  | _, none => w == 1
  | _, _ => false

theorem wit_Copy :
    (∃ d, (cpSt (inSram 0x3000) 6 1 0 false).atFront (qn 40) 0x80 d ∧ ((cpSt (inSram 0x3000) 6 1 0 false).copyStatus (qn 40) d == 17) = true)
    ∧ (∃ d, (cpSt (inSram 0x3000) 0 1 1 true).atFront (qn 40) 0x80 d ∧ ((cpSt (inSram 0x3000) 0 1 1 true).copyStatus (qn 40) d == 0
        && ((cpSt (inSram 0x3000) 0 1 1 true).streamOps (qn 40)).length == 1) = true)
    ∧ (∃ d, (cpSt (inSram 0x3000) 8 1 1 true).atFront (qn 40) 0x80 d ∧ (cpB (cpSt (inSram 0x3000) 8 1 1 true) d 0 0
        && (cpSt (inSram 0x3000) 8 1 1 true).onOwnDie 0 (qw d 4) && (cpSt (inSram 0x3000) 8 1 1 true).onOwnDie 0 (qw d 5)
        && (cpSt (inSram 0x3000) 8 1 1 true).streamBusy (qn 40)) = true)
    ∧ (∃ d, (cpSt 0x10FF8 8 1 0 false).atFront (qn 40) 0x80 d ∧ (cpB (cpSt 0x10FF8 8 1 0 false) d 0 0 && decide (qw d 5 % 4096 + cpLen d ≤ 4096)
        && cpRows d == 1 && !(cpSt 0x10FF8 8 1 0 false).ownHeld (qn 40) (qw d 5) (cpC d && !cpGC d) (cpGC d)) = true)
    ∧ ∃ d, (cpSt (2 ^ 37 + 0x10000) 8 2 0 false).atFront (qn 40) 0x80 d ∧ cpB (cpSt (2 ^ 37 + 0x10000) 8 2 0 false) d 0 1 = true :=
  ⟨atFrontQ _ _ _ _ (by decide +kernel), atFrontQ _ _ _ _ (by decide +kernel), atFrontQ _ _ _ _ (by decide +kernel),
   atFrontQ _ _ _ _ (by decide +kernel), atFrontQ _ _ _ _ (by decide +kernel)⟩

/-- An ATOMIC at this address with this last word; its operands are 5 and 7, the old value is 3. -/
def atSt (a w7 : Nat) : State :=
  let s := withRing up (qn 40) [desc 0x81 0 0 [0, 0, 0, a, 5, 7, w7 + inSram 0x3000]]
  sramPut s 0 0x2000 [3]

def atB (s : State) (d : List Nat) : Bool := s.atomicStatus (qn 40) d == 0 && match s.ownPlace 0 (qw d 4) (atWidth d) with
  | some (.ok a) => (s.readOwn 0 a (atWidth d)).2.1 == 0 && match s.localRuns 0 (fSram (qw d 7)) (fOff (qw d 7)) (atWidth d) with
    | [(b, n)] => n == atWidth d && s.localOk 0 (fSram (qw d 7)) (fOff (qw d 7)) (atWidth d) && s.reaches 0 b.die && (s.die b.die).badIn b.sram b.off n == []
        && !s.ownHeld (qn 40) (qw d 4) (atC d) (atGC d)
        && (s.die a.die).badIn a.sram a.off n == [] && decide (a.off + n ≤ b.off)
    | _ => false
  | _ => false

theorem wit_Atomic :
    (∃ d, (atSt (inSram 0x2000) (8 * 2 ^ 60)).atFront (qn 40) 0x81 d ∧ ((atSt (inSram 0x2000) (8 * 2 ^ 60)).atomicStatus (qn 40) d == 1) = true)
    ∧ (∃ d, (atSt (inSram 0x2000) (2 ^ 60 + 2 ^ 59)).atFront (qn 40) 0x81 d ∧ (decide (atOp d < 6) && atB (atSt (inSram 0x2000) (2 ^ 60 + 2 ^ 59)) d) = true)
    ∧ (∃ d, (atSt (inSram 0x2000) (5 * 2 ^ 60)).atFront (qn 40) 0x81 d ∧ (atOp d == 5 && atB (atSt (inSram 0x2000) (5 * 2 ^ 60)) d) = true)
    ∧ (∃ d, (atSt (objAddr 9) (6 * 2 ^ 60)).atFront (qn 40) 0x81 d ∧ (atOp d == 6 && (atSt (objAddr 9) (6 * 2 ^ 60)).atomicStatus (qn 40) d == 0
        && isObj (qw d 4) 9 && (gaddr (qw d 4)).node == (atSt (objAddr 9) (6 * 2 ^ 60)).node && !((atSt (objAddr 9) (6 * 2 ^ 60)).die 0).isDoorbell 9) = true)
    ∧ (∃ d, (atSt (objAddr 9) (7 * 2 ^ 60)).atFront (qn 40) 0x81 d ∧ (atOp d == 7 && (atSt (objAddr 9) (7 * 2 ^ 60)).atomicStatus (qn 40) d == 0) = true)
    ∧ ∃ d, (atSt (2 ^ 37 + 0x1000) (2 ^ 60)).atFront (qn 40) 0x81 d ∧ ((atSt (2 ^ 37 + 0x1000) (2 ^ 60)).atomicStatus (qn 40) d == 0
        && !(atSt (2 ^ 37 + 0x1000) (2 ^ 60)).onOwnDie 0 (qw d 4) && ((atSt (2 ^ 37 + 0x1000) (2 ^ 60)).ownPlace 0 (qw d 4) 4).isNone) = true :=
  ⟨atFrontQ _ _ _ _ (by decide +kernel), atFrontQ _ _ _ _ (by decide +kernel), atFrontQ _ _ _ _ (by decide +kernel),
   atFrontQ _ _ _ _ (by decide +kernel), atFrontQ _ _ _ _ (by decide +kernel), atFrontQ _ _ _ _ (by decide +kernel)⟩

/-- A REDUCE of this length in this operation from SRAM 0x2000 into this address. -/
def rdSt (dst len op g : Nat) : State :=
  let s := withRing up (qn 40) [desc 0x82 0 0 [0, 0, 0, inSram 0x2000, dst, len * 2 ^ 36 + op * 2 ^ 32 + g * 2 ^ 30, 0]]
  let s := sramPut s 0 0x2000 (leBytes 4 0x3F800000)
  sramPut s 0 0x3000 (leBytes 4 0x40000000)

def rdB (s : State) (d : List Nat) : Bool := s.reduceStatus (qn 40) d == 0 && !rdAfx d
    && (s.readLocal 0 (fSram (qw d 4)) (fOff (qw d 4)) 64).2.1 == 0 && match s.ownPlace 0 (qw d 5) 64 with
  | some (.ok w) => (s.readOwn 0 w 64).2.1 == 0 && !s.ownHeld (qn 40) (qw d 5) (rdC d && !rdGC d) (rdGC d)
  | _ => false

theorem wit_Reduce :
    (∃ d, (rdSt (inSram 0x3000) 64 7 0).atFront (qn 40) 0x82 d ∧ ((rdSt (inSram 0x3000) 64 7 0).reduceStatus (qn 40) d == 1) = true)
    ∧ (∃ d, (rdSt (inSram 0x3000) 0 1 0).atFront (qn 40) 0x82 d ∧ ((rdSt (inSram 0x3000) 0 1 0).reduceStatus (qn 40) d == 0 && rdLen d == 0) = true)
    ∧ (∃ d, (rdSt (inSram 0x3000) 64 1 0).atFront (qn 40) 0x82 d ∧ (rdB (rdSt (inSram 0x3000) 64 1 0) d && rdLen d == 64) = true)
    ∧ ∃ d, (rdSt (inSram 0x3FC0) 64 6 1).atFront (qn 40) 0x82 d ∧ (rdB (rdSt (inSram 0x3FC0) 64 6 1) d && rdGC d) = true :=
  ⟨atFrontQ _ _ _ _ (by decide +kernel), atFrontQ _ _ _ _ (by decide +kernel), atFrontQ _ _ _ _ (by decide +kernel), atFrontQ _ _ _ _ (by decide +kernel)⟩

/-! ### The hash unit and the colophon -/

/-- A HASH LEAVES of this length. -/
def hlSt (len : Nat) : State :=
  let s := withRing up (qn 36) [desc 0x90 0 0 [0, 0, 0, inSram 0x2000, len, 5, inSram 0x3000]]
  sramPut s 0 0x2000 [1, 2, 3]

/-- One local run of 32 bytes that can be written. -/
def runB (s : State) (w : Nat) : Bool := match s.localRuns 0 (fSram w) (fOff w) 32 with
  | [(a, n)] => n == 32 && s.reaches 0 a.die && (s.die a.die).badIn a.sram a.off 32 == []
  | _ => false

theorem wit_HashLeaves :
    (∃ d, (hlSt 0).atFront (qn 36) 0x90 d ∧ (decide (fSpace (qw d 4) ≤ 1) && decide (fSpace (qw d 7) ≤ 1) && qw d 5 == 0) = true)
    ∧ (∃ d, (hlSt (2 ^ 60)).atFront (qn 36) 0x90 d ∧ (placesStatus [(hlSt (2 ^ 60)).placeStatus 0 (fSram (qw d 4)) (fOff (qw d 4)) (2 ^ 60) 64,
        (hlSt (2 ^ 60)).placeStatus 0 (fSram (qw d 7)) (fOff (qw d 7)) (32 * ceilDiv (2 ^ 60) leafSize) 32] != 0) = true)
    ∧ ∃ d, (hlSt 3).atFront (qn 36) 0x90 d ∧ (placesStatus [(hlSt 3).placeStatus 0 (fSram (qw d 4)) (fOff (qw d 4)) 3 64,
        (hlSt 3).placeStatus 0 (fSram (qw d 7)) (fOff (qw d 7)) 32 32] == 0
        && ((hlSt 3).readLocal 0 (fSram (qw d 4)) (fOff (qw d 4)) 3).2.1 == 0 && runB (hlSt 3) (qw d 7)) = true :=
  ⟨atFrontQ _ _ _ _ (by decide +kernel), atFrontQ _ _ _ _ (by decide +kernel), atFrontQ _ _ _ _ (by decide +kernel)⟩

def blankColophon : Colophon := { mode := 1, panel := 0, wide := false, seed := 0, slots := #v[none, none, none], invalid := false }

def fullColophon : Colophon := { blankColophon with slots := .replicate 3 (some (List.replicate 32 7)) }

/-- A HASH ROOT of n digests into a slot of this colophon. -/
def hrSt (n slot : Nat) (c : Option Colophon) : State :=
  let s := withRing up (qn 36) [desc 0x91 0 0 [0, 0, 0, inSram 0x2000, n, inSram 0x3000, slot * 2 ^ 60]]
  (sramPut s 0 0x2000 [1, 2, 3]).updCtx 0 0 fun x => { x with colophon := c }

def hrB (s : State) (d : List Nat) : Bool := placesStatus [if bits (qw d 5) 39 0 = 0 then 0 else s.placeStatus 0 (fSram (qw d 4)) (fOff (qw d 4))
    (32 * bits (qw d 5) 39 0) 32, s.placeStatus 0 (fSram (qw d 6)) (fOff (qw d 6)) 32 32] == 0
  && (if bits (qw d 5) 39 0 = 0 then (s, 0, []) else s.readLocal 0 (fSram (qw d 4)) (fOff (qw d 4)) (32 * bits (qw d 5) 39 0)).2.1 == 0
  && runB s (qw d 6)

theorem wit_HashRoot :
    (∃ d, (hrSt 1 4 none).atFront (qn 36) 0x91 d ∧ decide (3 < bits (qw d 7) 63 60) = true)
    ∧ (∃ d, (hrSt 1 3 none).atFront (qn 36) 0x91 d ∧ (hrB (hrSt 1 3 none) d && !((hrSt 1 3 none).getCtx 0 0).slotFree 3) = true)
    ∧ (∃ d, (hrSt 0 0 (some fullColophon)).atFront (qn 36) 0x91 d ∧ hrB (hrSt 0 0 (some fullColophon)) d = true)
    ∧ ∃ d, (hrSt 2 3 (some blankColophon)).atFront (qn 36) 0x91 d ∧ (hrB (hrSt 2 3 (some blankColophon)) d
        && ((hrSt 2 3 (some blankColophon)).getCtx 0 0).slotFree 3) = true :=
  ⟨atFrontQ _ _ _ _ (by decide +kernel), atFrontQ _ _ _ _ (by decide +kernel), atFrontQ _ _ _ _ (by decide +kernel), atFrontQ _ _ _ _ (by decide +kernel)⟩

/-- A COLOPHON OPEN with this word. -/
def coSt (w : Nat) (c : Option Colophon) : State :=
  (withRing up (qn 36) [desc 0x92 0 0 [0, 0, 0, w, inSram 0x2000]]).updCtx 0 0 fun x => { x with colophon := c }

def coBad (d : List Nat) : Bool := let w := qw d 4
  bits w 63 56 != 1 || bits w 55 54 == 3 || (bits w 55 54 == 0 && !bit w 48 && decide (8 < bits w 53 50)) || (bits w 2 0 != 0 && decide (1 < fSpace (qw d 5)))

theorem wit_ColophonOpen :
    (∃ d, (coSt 0 none).atFront (qn 36) 0x92 d ∧ coBad d = true)
    ∧ (∃ d, (coSt (2 ^ 56 + 2 ^ 48) (some blankColophon)).atFront (qn 36) 0x92 d ∧ (!coBad d && ((coSt (2 ^ 56 + 2 ^ 48) (some blankColophon)).getCtx 0 0).colophon.isSome) = true)
    ∧ (∃ d, (coSt (2 ^ 56 + 2 ^ 48) none).atFront (qn 36) 0x92 d ∧ (!coBad d && bits (qw d 4) 2 0 == 0) = true)
    ∧ ∃ d, (coSt (2 ^ 56 + 8 * 2 ^ 50 + 5) none).atFront (qn 36) 0x92 d ∧ (!coBad d
        && (coSt (2 ^ 56 + 8 * 2 ^ 50 + 5) none).placeStatus 0 (fSram (qw d 5)) (fOff (qw d 5)) 96 32 == 0
        && ((coSt (2 ^ 56 + 8 * 2 ^ 50 + 5) none).readLocal 0 (fSram (qw d 5)) (fOff (qw d 5)) 96).2.1 == 0) = true :=
  ⟨atFrontQ _ _ _ _ (by decide +kernel), atFrontQ _ _ _ _ (by decide +kernel), atFrontQ _ _ _ _ (by decide +kernel), atFrontQ _ _ _ _ (by decide +kernel)⟩

/-- A COLOPHON SEAL, signed or not, with the identity key at hand or not. -/
def csSt (signed : Nat) (c : Option Colophon) (key : Bool) : State :=
  let s := (withRing up (qn 36) [desc 0x93 0 0 [0, 0, 0, inSram 0x3000, signed]]).updCtx 0 0 fun x => { x with colophon := c }
  { s with sec := { s.sec with puf := .replicate 2 key, unlocked := false } }

def csB (s : State) (d : List Nat) : Bool := decide (fSpace (qw d 4) ≤ 1) && s.placeStatus 0 (fSram (qw d 4)) (fOff (qw d 4)) 192 64 == 0
  && match (s.getCtx 0 0).sealable with
    | some c => (s.writeLocal 0 (fSram (qw d 4)) (fOff (qw d 4)) (s.colophonBytes (qn 36) c false ++ List.replicate 64 0)).2 == 0
    | none => false

theorem wit_ColophonSeal :
    (∃ d, (csSt 0 (some fullColophon) true).atFront (qn 36) 0x93 d ∧ (csB (csSt 0 (some fullColophon) true) d && !bit (qw d 5) 0) = true)
    ∧ (∃ d, (csSt 1 (some fullColophon) true).atFront (qn 36) 0x93 d ∧ (csB (csSt 1 (some fullColophon) true) d && bit (qw d 5) 0
        && (csSt 1 (some fullColophon) true).identityKey) = true)
    ∧ (∃ d, (csSt 1 (some fullColophon) false).atFront (qn 36) 0x93 d ∧ (csB (csSt 1 (some fullColophon) false) d && bit (qw d 5) 0
        && !(csSt 1 (some fullColophon) false).identityKey) = true)
    ∧ (∃ d, (csSt 1 (some blankColophon) true).atFront (qn 36) 0x93 d ∧ ((csSt 1 (some blankColophon) true).getCtx 0 0).sealable.isNone = true) :=
  ⟨atFrontQ _ _ _ _ (by decide +kernel), atFrontQ _ _ _ _ (by decide +kernel), atFrontQ _ _ _ _ (by decide +kernel), atFrontQ _ _ _ _ (by decide +kernel)⟩

/-- The seal waits for its signature. -/
def sealing : State := nx (exec (.colophonSeal (qn 36)) (csSt 1 (some fullColophon) true))

theorem wit_Signature : (match sealing.sec.jobs with
    | [.seal q p] => q == qn 36 && (((sealing.queue q).started.find? fun x => x.pos == p).any fun e => csB sealing e.qws)
        && (sealing.getCtx 0 0).sealable == some fullColophon && sealing.identityKey
    | _ => false) = true := by decide +kernel

/-! ### Collectives -/

/-- The plan record of dies 0 and 1 of a module, or of no die below 19, its tensors of n elements of FP32, its staging space of 2
units, a stream at work or not. -/
def clSt (op n mask w6 : Nat) : State :=
  let s := withRing up (qn 24) [desc op 0 0 [0, 0, 0, inSram 0x1000, inSram 0x1200, 2 * 2 ^ 62 + 2 ^ 56 + w6, 2 * 2 ^ 48 + inSram 0x10000]]
  let s := sramPut s 0 0x1000 (leBytes 8 (77 * 2 ^ 32 + mask) ++ leBytes 8 (sumNat ((List.range 4).map fun i => 2 ^ (16 * i + 5))) ++ leBytes 4 0xFFFFFFFF)
  let s := sramPut s 0 0x1200 (tensorBytes 1 0x2000 [n, 1, 1, 1, 1] [4, 4, 4, 4] ++ tensorBytes 1 0x3000 [n, 1, 1, 1, 1] [4, 4, 4, 4])
  sramPut s 0 0x2000 (leBytes 4 0x3F800000 ++ leBytes 4 0x40000000)

def withStream (s : State) : State :=
  s.updCtx 0 0 fun x => { x with streams := [{ handle := 3, sram := true, off := 0x1200, chunk := 1, present := [(0, 2)], terms := [], panels := 1, sats := [] }] }

def strW : Nat := 2 ^ 55 + 3 * 2 ^ 47

def clB (s : State) (d : List Nat) (st : Nat) (f : Coll → Bool) : Bool :=
  s.placeStatus 0 (fSram (qw d 4)) (fOff (qw d 4)) 128 64 == 0
    && s.placeStatus 0 (fSram (qw d 7)) (fOff (qw d 7)) (bits (qw d 7) 63 48 * 65536) 65536 == 0
    && s.placeStatus 0 (fSram (qw d 5)) (fOff (qw d 5)) 128 64 == 0
    && match (s.readLocal 0 (fSram (qw d 4)) (fOff (qw d 4)) 128).2, (s.readTensors 0 (fSram (qw d 5)) (fOff (qw d 5)) 2).2 with
      | (0, pb), (0, ts) =>
        let r := parseColl pb
        let c := s.makeColl (qn 24) d r (tensorOf ts 0) (tensorOf ts 1)
        !r.reserved && ts.all (fun t => !t.2 && !s.tensorOut 0 t.1 && !t.1.misaligned) && s.collStatus c r true == st
          && (s.writeLocal 0 (fSram (qw d 4)) (fOff (qw d 4) + 0x10) (leBytes 4 ((r.inst + 1) % 2 ^ 32))).2 == 0 && f c
      | _, _ => false

theorem wit_Collectives : (clSt 0x58 2 3 0).collOf 0 0 = none
    ∧ (∃ d, (clSt 0x58 2 3 (2 ^ 62)).atFront (qn 24) 0x58 d ∧ clReserved d = true)
    ∧ (∃ d, (clSt 0x59 2 3 0).atFront (qn 24) 0x59 d ∧ (!clReserved d && clB (clSt 0x59 2 3 0) d 2 fun _ => true) = true)
    ∧ (∃ d, (clSt 0x5A 0 3 0).atFront (qn 24) 0x5A d ∧ (!clReserved d && clB (clSt 0x5A 0 3 0) d 0 fun c => c.elems == 0) = true)
    ∧ ∃ d, (clSt 0x58 2 3 0).atFront (qn 24) 0x58 d ∧ (!clReserved d && clB (clSt 0x58 2 3 0) d 0 fun c => c.elems != 0 && c.members != 0) = true :=
  ⟨by decide +kernel, atFrontQ _ _ _ _ (by decide +kernel), atFrontQ _ _ _ _ (by decide +kernel), atFrontQ _ _ _ _ (by decide +kernel),
   atFrontQ _ _ _ _ (by decide +kernel)⟩

/-- A barrier of the two dies. -/
theorem wit_Barrier : ∃ d, (clSt 0x5D 2 3 0).atFront (qn 24) 0x5D d ∧ clReserved d = false := atFrontQ _ _ _ (fun d => clReserved d == false) (by decide +kernel) |>.imp
  fun _ h => ⟨h.1, by simpa using h.2⟩

/-- A STREAM OPEN of handle 3 with this chunk code. -/
def soSt (code : Nat) : State := withRing up (qn 24) [desc 0x5E 0 0 [0, 0, 0, inSram 0x1200, 3 * 2 ^ 56 + code * 2 ^ 53]]

theorem wit_StreamOpen :
    (∃ d, (soSt 6).atFront (qn 24) 0x5E d ∧ (bits (qw d 5) 55 53 == 6) = true)
    ∧ (∃ d, (withStream (soSt 5)).atFront (qn 24) 0x5E d ∧ (bits (qw d 5) 63 56 == 3) = true)
    ∧ (∃ d, (soSt 5).atFront (qn 24) 0x5E d ∧ ((soSt 5).placeStatus 0 (fSram (qw d 4)) (fOff (qw d 4)) 64 64 == 0) = true)
    ∧ ((withStream (soSt 5)).getCtx 0 0).streams.any (·.handle == 3) = true ∧ ((soSt 5).getCtx 0 0).streams = [] :=
  ⟨atFrontQ _ _ _ _ (by decide +kernel), atFrontQ _ _ _ _ (by decide +kernel), atFrontQ _ _ _ _ (by decide +kernel), by decide +kernel⟩

/-- The collective of clSt at work on die 0, as this function leaves it. -/
def atWork (s : State) (f : Coll → Coll) : State := match s.front (qn 24) with
  | .ready d =>
    let p := (s.queue (qn 24)).next
    let ts := (s.readTensors 0 true 0x1200 2).2.2
    let c := s.makeColl (qn 24) d (parseColl (slice (s.die 0).sram 0x1000 128)) (tensorOf ts 0) (tensorOf ts 1)
    (s.start (qn 24) d p.after { startedOf p d true with collective := true }).updCtx 0 0 fun y =>
      { y with coll := some (f { c with credit := [(1, 1)], progress := [(1, s.mono)] }) }
  | _ => s

def clRun : State := atWork (clSt 0x58 2 3 0) id
/-- A canonical collective of a stream of so many panels. -/
def clLong : State := (atWork (withStream (clSt 0x58 2 3 (2 ^ 63 + strW))) id).updCtx 0 0 fun x =>
  { x with streams := x.streams.map fun y => { y with panels := 4194304 } }

def clStreamRun : State := atWork (withStream (clSt 0x58 2 3 strW)) id

/-- A record of member 1 of this plan and instance. -/
def recOf (kind stage chunk inst : Nat) (b : List Byte) : Trailer :=
  let t : Trailer := { planId := 77, inst := inst, stage := stage, kind := kind, sender := 1, chunk := chunk, bytes := b.length,
                       residue := 0, payloadCrc := crc32c b, originCrc := crc32c b, crc := 0 }
  { t with crc := crc32c (trailerBytes t) }

/-- Its units offered; its chunk granted a slot, or sent. -/
def granted : State := atWork (clSt 0x58 2 3 0) fun c => let x := ((clSt 0x58 2 3 0).flatSource 0 c.src).2.2
  c.offerFrom x.1 x.2.1 x.2.2 (fun _ => false) (List.range c.units)
def sentOne : State := granted.updColl 0 0 fun c =>
  { c with sent := [{ dst := 1, st := 0, num := 0, kind := 1, residue := 0, origin := 0, payload := [1, 2, 3, 4, 5, 6, 7, 8] }],
           sentIds := [(1, 0, 0)], credit := [(1, 0)] }

def collB (s : State) (f : Coll → Bool) : Bool := match s.collRun 0 0 with
  | some c => f c
  | none => false

def pay : List Byte := leBytes 4 0x40A00000 ++ leBytes 4 0x40C00000

theorem wit_Chunks :
    collB granted (fun c => !(granted.queue c.q).cancels c.pos && (match c.nextChunk 1 with
      | some (k, _) => !granted.steerHolds c k.x.idx 1
      | none => false) && c.credit.find? (fun p => p.1 == 1) == some (1, 1)) = true
    ∧ trailerOk (recOf 1 0 0 9 pay) = true ∧ collB sentOne (fun c => c.planId == 77 && c.inst == 0) = true
    ∧ collB sentOne (fun c => (match c.parcelOf 1 9 0 with
      | some y => pay.length == c.payloadBytes y && !Coll.arithmetic y
      | none => false) && decide ((9, 0, 1) ∉ c.takenIds) && c.recv == []) = true
    ∧ (recOf 1 9 0 0 pay).payloadCrc = crc32c pay ∧ clRun.setting 0x4400 3 ≠ 0 ∧ (clRun.setSetting 0x4400 3 0).setting 0x4400 3 = 0
    ∧ collB clStreamRun (fun c => clS c.qws && decide (0 < ceilDiv c.units c.upc) && c.released == [] && (c.chunkUnits 0).all (fun u =>
        (List.range (c.unitElems u)).all fun i => (clStreamRun.getCtx 0 0).streams.any fun y => y.handle == clHandle c.qws && y.has (256 * u + i))
        && (clStreamRun.flatSource 0 c.src).2.1 == 0) = true
    ∧ collB clLong (fun c => clCanon c.qws && (clLong.getCtx 0 0).streams.any fun y => y.handle == clHandle c.qws
        && decide (afxMaxTerms (clWide c.qws) < c.members * y.panels)) = true
    ∧ collB sentOne (fun c => (c.progress.find? fun p => p.1 == 1).any (fun p => decide (p.2 ≤ sentOne.mono)) && c.awaits 1) = true := by decide +kernel

/-- The barrier at work. -/
def barRun : State := atWork (clSt 0x5D 2 3 0) id

theorem wit_Records : trailerOk (recOf 3 0 0 0 []) = true ∧ trailerOk { recOf 4 0 0 0 [] with crc := 1 } = false
    ∧ collB sentOne (fun c => c.planId == 77 && c.inst == 0 && c.sent.any fun k => k.dst == 1 && k.st == 0 && k.num == 0) = true
    ∧ collB barRun (fun c => c.planId == 77 && c.inst == 0 && c.op == 0x5D) = true
    ∧ up.collRun 3 2 = none ∧ up.collOf 3 2 = none ∧ (up.die 3).presence = .inService := by decide +kernel

/-! ### Remote operations -/

/-- Die 0 has issued an operation to a place of die 1, clasp or not. -/
def opSt (clasp : Bool) (f : RemOp → RemOp) : State :=
  (((up.updCtx 0 0 fun x => { x with state := .running }).issue (srcOf 0) 0 { owner := .descriptor (qn 40) (.ring 0), stream := 0, target := 2 ^ 37 + 0x1000, op := 0x02, payload := [1, 2, 3, 4], size := 4, clasp := clasp }).1).updSource (srcOf 0) fun x => { x with ops := x.ops.map fun o => { f o with id := 5 } }

/-- The same, sent, its queue's descriptor started; elapsed time and key as given. -/
def sentSt (mono : Nat) (f : RemOp → RemOp) (k : SrcKey → SrcKey) : State :=
  let s := opSt false fun o => f { o with seq := some 3, limit := 4, timeout := 100, sentAt := 7, nkWait := 50 }
  let s := s.updSource (srcOf 0) fun x => { x with keys := [k { stream := 0, key := .die 0 1, node := 0, next := 4, fresh := false, hotUntil := 0, idle := none, settled := false }] }
  let s := s.updQueue (qn 40) fun x => { x with next := .ring 1, started := [{ startedOf (.ring 0) (desc 0x80 0 0 []) true with ops := [5] }] }
  { s with mono := mono }

def opB (s : State) (f : RemOp → Bool) : Bool := (s.srcOp (srcOf 0) 5).any f

theorem wit_Inject :
    opB (opSt false id) (fun o => !o.clasp && !o.gclasp && !(opSt false id).waitsBehind (srcOf 0) o && o.seq.isNone
      && !(opSt false id).channelStopped o && (opSt false id).mayInject (srcOf 0) o && (opSt false id).windowOpen (srcOf 0) o) = true
    ∧ opB (opSt true id) (fun o => o.clasp && !(opSt true id).claspHeld (srcOf 0) o && o.seq.isNone
      && !(opSt true id).channelStopped o && (opSt true id).mayInject (srcOf 0) o && (opSt true id).windowOpen (srcOf 0) o) = true
    ∧ opB (sentSt 107 id id) (fun o => o.seq.isSome && o.backoff.isNone && decide (o.sentAt + o.timeout ≤ 107) && decide (o.attempt + 1 < o.limit)
      && (sentSt 107 id id).mayInject (srcOf 0) o) = true
    ∧ opB (sentSt 50 (fun o => { o with backoff := some 50 }) id) (fun o => o.backoff == some 50) = true
    ∧ opB (sentSt 107 (fun o => { o with attempt := 3 }) id) (fun o => decide (o.limit ≤ o.attempt + 1) && o.owner == .descriptor (qn 40) (.ring 0)) = true
    ∧ ((sentSt 107 id id).queue (qn 40)).started.any (fun e => e.pos == .ring 0 && dOp e.qws == 0x80) = true
    ∧ ((sentSt 107 id id).queue (qn 40)).cancels (.ring 0) = false := by decide +kernel

def keyB (s : State) (f : SrcKey → Bool) : Bool := (s.srcKey (srcOf 0) 0 (.die 0 1)).any f

theorem wit_Keys :
    keyB (sentSt 9 id fun x => { x with hotUntil := 9 }) (fun x => x.hotUntil == 9) = true
    ∧ keyB (sentSt 10009 id fun x => { x with idle := some 9 }) (fun x => x.idle == some 9 && !x.settled && x.node == (sentSt 10009 id id).node) = true
    ∧ keyB (sentSt 2000009 id fun x => { x with idle := some 9, settled := true }) (fun x => x.idle == some 9 && x.settled) = true
    ∧ up.frz.cut = none ∧ up.pause = none ∧ (up.die (entryDie (srcOf 0))).presence = .inService := by decide +kernel

/-- A request of die 1 for die 0, from this key's view first with this sequence. -/
def reqOf (op target seq size release : Nat) (payload : List Byte) : Request :=
  let r : Request :=
    { target := target, attemptFt := 0, firstFt := 0, srcNode := 0, srcDie := 1, stream := 3, srcEpoch := 0, op := op, clasp := false, retry := false,
      fresh := true, wide := false, signed := false, seq := seq, floor := seq, tag := 1, attempt := 0, size := size, payload := payload,
      release := release, crc := 0 }
  { r with crc := crc32c (requestBytes r) }

def storeReq : Request := reqOf 2 0x1000 7 4 0 [1, 2, 3, 4]

/-- Die 0 with this record of die 1's stream 3, and a result of its sequence 7 or none. -/
def recSt (applied : List Nat) (res : Bool) : State := up.updDie 0 fun x =>
  { x with recs := [{ node := 0, die := 1, stream := 3, epoch := 0, key := .die 0 0, floor := 7, applied := applied, last := 0, created := 0 }],
           results := if res then [{ node := 0, die := 1, stream := 3, key := .die 0 0, seq := 7, status := 0, value := [], ft := 0 }] else [] }

def isDieAt (a : Nat) (sram : Bool) (off : Nat) : Bool := match (gaddr a).place with
  | .ok (.die d r o) => d == (0 : DieId) && r == sram && o == off
  | _ => false

def chkOk (s : State) (r : Request) (p : Place) : Bool := match s.checkRequest 0 r none with
  | .ok (.mem q) => p == q
  | _ => false

def chkErr (s : State) (r : Request) (st : Nat) : Bool := match s.checkRequest 0 r none with
  | .error x => x == st
  | _ => false

/-- Die 0 belongs to quire 0, whose tag is 1. -/
def inQuire : State := up.updDie 0 fun x => { x with quire := some 0 }

theorem wit_Admission :
    ((up.updDie 0 fun x => { x with presence := .isolated }).die 0).presence ≠ .inService ∧ (up.die 0).presence = .inService ∧ up.inCut 0 0 = false
    ∧ (up.die 0).inbound = [] ∧ up.roomFor 0 storeReq = true ∧ (recSt [7] true).roomFor 0 storeReq = true ∧ requestOk storeReq = true ∧ requestOk { storeReq with crc := 1 } = false ∧ isDieAt 0x1000 false 0x1000 = true
    ∧ (up.die 0).boundary ≤ ((0 : Nat) : Int) ∧ (up.die 0).channels ≠ 0
    ∧ (((recSt [7] true).die 0).findRec storeReq (requestKey 0 storeReq)).any (fun y => y.created == 0 && y.floor == 7) = true
    ∧ (((recSt [7] true).die 0).results.any fun v => v.matchesReq storeReq (requestKey 0 storeReq) && v.seq == storeReq.seq) = true
    ∧ ((up.die 0).findRec storeReq (requestKey 0 storeReq)).isNone = true
    ∧ chkOk inQuire storeReq ⟨0, false, 0x1000⟩ = true ∧ chkErr inQuire (reqOf 2 0x1000 7 6 0 []) 2 = true := by decide +kernel

/-- A request in lane 3 of die 0, held or not. -/
def laneSt (held : Bool) (place : Place) (r : Request) : State := up.updDie 0 fun x =>
  { x with inbound := [{ id := 9, req := r, lane := 3, hot := false, place := place, line := 0, status := 0, data := [], held := held, group := none }],
           recs := [{ node := 0, die := 1, stream := 3, epoch := 0, key := .die 0 0, floor := 7, applied := [], last := 0, created := 0 }],
           ft := 2000000 }

theorem wit_Claspers :
    (((laneSt true ⟨0, false, 0x1000⟩ storeReq).die 0).inbound.find? fun e => e.id == 9).any (·.held) = true
    ∧ (((laneSt true ⟨0, false, 0x1000⟩ storeReq).die 0).findRec storeReq (requestKey 0 storeReq)).any (fun y => y.floor == storeReq.seq) = true
    ∧ ((laneSt true ⟨0, false, 0x1000⟩ storeReq).die 0).recs[0]?.any (fun y => y.applied == [] && y.last == 0) = true
    ∧ (laneSt true ⟨0, false, 0x1000⟩ storeReq).frozenDie 0 = false := by decide +kernel

def afxBytes (count n : Nat) : List Byte := leBytes 32 0 ++ leBytes 4 0 ++ leBytes 4 count ++ List.replicate 24 0 ++ List.replicate n 0

def laneB (s : State) (f : Inbound → Bool) : Bool := ((s.die 0).inbound.find? fun e => e.lane == 3 && !e.held).any fun e =>
  e.group.isNone && e.line == 0 && e.status == 0 && e.data == [] && !(s.die 0).lineBusy e && s.reaches 0 e.place.die && !s.frozenDie 0 && (s.die e.place.die).badIn e.place.sram e.place.off e.req.size == [] && f e

theorem wit_Lanes :
    laneB (laneSt false ⟨0, false, 0x103C⟩ (reqOf 2 0x103C 7 4 0 [1, 2, 3, 4]))
      (fun e => (gaddr e.req.target).space != 2 && decide (e.place.off % 64 + e.req.size ≤ 64) && e.req.payload.length == 4) = true
    ∧ laneB (laneSt false ⟨0, false, 0x103C⟩ (reqOf 2 0x103C 7 8 0 [1, 2, 3, 4, 5, 6, 7, 8])) (fun e => decide (64 < e.place.off % 64 + e.req.size)) = true
    ∧ laneB (laneSt false ⟨0, false, 0x1000⟩ (reqOf 0x0A 0x1000 7 64 0 (List.replicate 64 0))) (fun e => isReduce e.req.op && !isAfx e.req.op) = true
    ∧ laneB (laneSt false ⟨0, false, 0x1000⟩ (reqOf 0x0C 0x1000 7 128 0 (afxBytes 1 64)))
      (fun e => isAfx e.req.op && (afxMerge false (List.replicate 128 0) e.req.payload).isSome) = true
    ∧ laneB (laneSt false ⟨0, false, 0x1000⟩ (reqOf 0x0C 0x1000 7 128 0 (afxBytes 5000000 64)))
      (fun e => isAfx e.req.op && (afxMerge false (List.replicate 128 0) e.req.payload).isNone) = true
    ∧ laneB (laneSt false ⟨0, false, 0x1000⟩ (reqOf 7 0x1000 7 8 0 [0, 0, 0, 0, 9, 0, 0, 0])) (fun e => isAtomic e.req.op) = true
    ∧ laneB (laneSt false ⟨0, true, sramSize + 4 * 9⟩ (reqOf 8 (objAddr 9) 7 4 2000000 [9, 0, 0, 0])) (fun e => isSignal e.req.op && decide (e.req.release ≤ 2000000)) = true := by
  decide +kernel

/-- A reply of die 1 to sequence 3 of die 0's stream 0. -/
def repOf (seq st : Nat) (nk : Bool) (p : List Byte) : Reply :=
  let y : Reply := { tag := 1, replyFt := 0, node := 0, die := 0, stream := 0, key := .die 0 1, seq := seq, epoch := 0, status := st, hot := false, cached := false,
                     nk := nk, payload := p, crc := 0 }
  { y with crc := crc32c (replyBytes y) }

theorem wit_Replies :
    replyOk { repOf 3 0 false [] with crc := 1 } = false ∧ replyOk (repOf 3 0 false [1]) = true ∧ (sentSt 9 id id).combines = []
    ∧ (sentSt 9 id id).inCut 0 0 = false ∧ ((sentSt 9 id id).queue (qn 40)).started.all (fun e => e.done) = true ∧ up.reaches 0 0 = true ∧ (sentSt 9 id id).answered (srcOf 0) (repOf 9 0 false []) = none
    ∧ ((sentSt 9 id id).answered (srcOf 0) (repOf 3 0 true [])).any (fun o => decide (o.attempt + 1 < o.limit) && o.owner == .descriptor (qn 40) (.ring 0)) = true
    ∧ ((sentSt 9 (fun o => { o with sink := .place ⟨0, true, 0x5000⟩ }) id).answered (srcOf 0) (repOf 3 0 false [1, 2])).any
      (fun o => o.sink == .place ⟨0, true, 0x5000⟩) = true := by decide +kernel

/-- A packet from die 0 to die 7, on a channel or at its entry; the way X first, or every way, closed. -/
def hopSt (xs : List DieId) : State := xs.foldl (fun s d => s.updDie d fun x => { x with presence := .isolated }) up

def hopK (vc : Option Bool) (b : Body) : SpinePacket := { dst := 7, vc := vc, body := b }

theorem wit_Hops : up.pause = none ∧ up.pathClear false 7 0 7 = true ∧ (hopSt [1]).pathClear false 7 0 7 = false ∧ (hopSt [1]).pathClear true 7 0 7 = true
    ∧ (hopSt [1, 5]).pathClear true 7 0 7 = false ∧ (hopSt [1, 5]).pathClear false 7 0 7 = false ∧ ((hopSt [1, 5]).die 0).presence = .inService ∧ up.aged 0 (.request storeReq) = false
    ∧ (up.updDie 0 fun x => { x with ft := 2000000 }).aged 0 (.request storeReq) = true := by
  decide +kernel

/-! ### Ports, routing, the plan, the manager -/

def lit8 : PortOpt := { PortOpt.reset with fibre := .normal, slots := PortOpt.reset.slots.map fun k => { k with st := .inService } }

/-- Port 3 planned as a dimension link to port 5 of node n, in this state; elapsed time 200 ms. -/
def portSt (st : PortState) (kind n : Nat) : State := State.updPort { up with mono := 200000000 } 3 fun x =>
  { x with state := st, since := 100000000, opt := lit8, plan := { PortPlan.reset with a := { node := n, port := 5, kind := kind, dim := 0 }, shared := true } }

theorem wit_Ports : ((portSt .training 1 1).port 3).lit = true ∧ 8 ≤ ((portSt .training 1 1).port 3).inService ∧ (portSt .training 1 1).spinePath 3 = true
    ∧ ((portSt .training 1 1).port 3).state = .training ∧ ((portSt .unused 0 0).port 3).state = .unused ∧ ((portSt .up 1 1).port 3).trained = true
    ∧ ((portSt .training 1 1).port 3).exitPlan.kind ≠ 0 ∧ ((portSt .training 1 1).port 3).since + 10000000 ≤ (portSt .training 1 1).mono
    ∧ ((portSt .down 1 1).port 3).state = .down ∧ ((portSt .down 1 1).port 3).since + 100000000 ≤ (portSt .down 1 1).mono
    ∧ ((portSt .down 1 1).port 3).lit = true ∧ (portSt .down 1 1).spinePath 3 = true ∧ (portSt .down 1 1).fabricOn = true ∧ (portSt .down 1 1).pause = none
    ∧ ((portSt .held 1 1).port 3).state ≠ .up ∧ ((portSt .held 1 1).port 3).trained = true := by decide +kernel

/-- What the planned neighbour of port 3 says. -/
def wordOf (node plan : Nat) (shared : Bool) : DiscoveryWord :=
  { node := node, port := 5, exit := 0, kind := 1, dim := 0, shared := shared, plan := plan, tag := 0 }

theorem wit_Words : let s := portSt .discovery 1 1; let e := (s.port 3).exitPlan
    (s.port 3).state = .discovery ∧ (wordOf 1 (s.topo.plan.ident + 1) true).plan ≠ s.topo.plan.ident ∧ (wordOf 1 s.topo.plan.ident true).plan = s.topo.plan.ident
    ∧ ((portSt .discovery 0 0).port 3).exitPlan.kind = 0 ∧ e.kind ≠ 0 ∧ (wordOf 2 s.topo.plan.ident true).node ≠ e.node
    ∧ (wordOf 1 s.topo.plan.ident true).node = e.node ∧ (wordOf 1 s.topo.plan.ident true).port = e.port ∧ (wordOf 1 s.topo.plan.ident true).kind = e.kind
    ∧ (wordOf 1 s.topo.plan.ident true).dim = e.dim ∧ (wordOf 1 s.topo.plan.ident false).shared ≠ (s.port 3).plan.shared
    ∧ (wordOf 1 s.topo.plan.ident true).shared = (s.port 3).plan.shared := by decide +kernel

/-- Node 0 of three in D0 and three on the ring of D3, ports 3 and 7 up to nodes 1 and 2, and 9 to node 3 on the ring. -/
def fabSt : State :=
  let s := { up with topo := { up.topo with joined := true, plan := { ident := 5, node := 0, sizes := #v[3, 1, 1, 3], ring := true, mins := #v[1, 1, 1, 1] } } }
  let port (s : State) (p : PortId) (n d : Nat) : State := s.updPort p fun x =>
    { x with state := .up, opt := lit8, plan := { PortPlan.reset with a := { node := n, port := 5, kind := 1, dim := d }, shared := true } }
  port (port (port s 3 1 0) 7 2 0) 9 3 3

def fab (dst tag hops : Nat) (b : Body) : FabricPacket :=
  { dst := dst, tag := tag, hops := hops, vc := false, detour := false, ring := 0, wrap := false, body := b }

def nobody : Body := .reply { tag := 1, replyFt := 0, node := 0, die := 0, stream := 0, key := .die 0 0, seq := 0, epoch := 0, status := 0, hot := false, cached := false,
                              nk := false, payload := [], crc := 0 }

/-- Port 7 carries its own quire's tag only. -/
def fenced : State := fabSt.updPort 7 fun x => { x with plan := { x.plan with shared := false } }

def isNone (r : Route) : Bool := match r with
  | .none => true
  | _ => false

theorem wit_Routes : (fabSt.port 7).trained = true ∧ fenced.permits 7 9 = false ∧ fabSt.permits 7 9 = true ∧ fabSt.topo.joined = true
    ∧ fabSt.node = 0 ∧ 1 < fabSt.topo.plan.modules
    ∧ [0, 1, 2, 3].find? (fun d => fabSt.topo.plan.coord fabSt.node d ≠ fabSt.topo.plan.coord 1 d) = some 0 ∧ fabSt.topo.plan.isRing 0 = false
    ∧ fabSt.routeTo 0 1 9 = [3] ∧ (fabSt.port 3).queued ≤ 2 ^ 64
    ∧ fabSt.aged 2 nobody = false  ∧ fabSt.aged (portDie 7) (.request storeReq) = false ∧ fabSt.deliveryRoom storeReq = true
    ∧ fabSt.firmwareDie ≠ none ∧ fabSt.topo.plan.modules = 9 ∧ (fabSt.port 3).backlog = [] ∧ (fabSt.port 3).queued + packetBytes (formed nobody) ≤ 524288
    ∧ isNone (({ up with topo := { fabSt.topo with words := [] } } : State).route (fab 1 9 1 nobody)) = true := by decide +kernel

/-- Group 1's entry: valid, of ingress port 7, to ports 3 and 7 and no die. -/
def groupSt : State := fabSt.setSetting 0x4210 2 (2 ^ 63 + 7 * 2 ^ 48 + 2 ^ 7 + 2 ^ 3)

theorem wit_Groups : entryValid (groupSt.groupEntry 1) = true ∧ entryIngress (groupSt.groupEntry 1) = 7 ∧ bit (entryPorts (groupSt.groupEntry 1)) 3 = true
    ∧ groupSt.carries 3 1 = true ∧ requestOk storeReq = true ∧ entryValid (groupSt.groupEntry 2) = false := by decide +kernel

theorem wit_StateWords : (fabSt.topo.plan.isRing 0 = false ∧ 1 < fabSt.topo.plan.size 0) ∧ fabSt.topo.plan.ring = true
    ∧ fabSt.topo.ringSent ≠ some fabSt.ownRing ∧ (fabSt.port 3).state = .up ∧ (fabSt.port 3).exitPlan.kind = 1 ∧ (fabSt.port 3).exitPlan.dim = 0
    ∧ (9 : PortId) ∈ fabSt.upIn 3 ∧ 1 < fabSt.topo.plan.size 3 ∧ 1 ≠ fabSt.topo.plan.coord fabSt.node 3 ∧ SMap.get 0 fabSt.topo.ringBits 1 ≠ 3
    ∧ fabSt.now % 1000 = 0 ∧ fabSt.now % 100000 = 0 := by decide +kernel

theorem wit_PlanWrite :
    (∃ r, (dictW up 0x4300 0x0C 8 1000000).serves (.host 9) r ∧ (dictW up 0x4300 0x0C 8 1000000).passes r 1000000 ∧ r.write = true ∧ r.idx = 0x4300 ∧ r.sub = 0x0C)
    ∧ up.planOk up.stagedPlan up.stagedPorts = true ∧ up.reshapes up.stagedPlan = false ∧ up.now + 1000000 ≤ 1000000
    ∧ (up.setSetting 0x4300 2 77).planOk (up.setSetting 0x4300 2 77).stagedPlan (up.setSetting 0x4300 2 77).stagedPorts = false
    ∧ ((up.setSetting 0x4300 3 2).setSetting 0x4300 8 0).planOk ((up.setSetting 0x4300 3 2).setSetting 0x4300 8 0).stagedPlan up.stagedPorts = true
    ∧ up.reshapes ((up.setSetting 0x4300 3 2).setSetting 0x4300 8 0).stagedPlan = true ∧ quireRuns.allStopped = false := by
  refine ⟨own_of _ _ _ _ _ (by decide +kernel), by decide +kernel⟩

/-- A plan waits in a gutter at its FT. -/
def planWaits (ring : Bool) (running : Bool) : State :=
  let s := if running then quireRuns else up
  { s with topo := { s.topo with commit := some (50, { s.topo.plan with ring := ring }, []) },
           gut := { s.gut with now := some { once := false, start := 50, length := 100, guard := 10, ports := 0, opened := false, closed := false, running := [] } } }

theorem wit_PlanCommit : (planWaits true true).reshapes { (planWaits true true).topo.plan with ring := true } = true ∧ (planWaits true true).allStopped = false
    ∧ (planWaits true false).allStopped = true ∧ up.topo.plan.ring = false ∧ (planWaits false true).reshapes (planWaits false true).topo.plan = false := by
  decide +kernel

/-- The module is manager; its exchange of tag 7. -/
def mgrSt (f : Exchange → Exchange) : State := (up.setSetting 0x4350 1 1).setExchange (f (Exchange.empty 7))

/-- Every member of the partition but the recording one. -/
def restOf : List (Nat × Nat) := (Config.partitionRest 7).map fun n => (n, (0 : Nat))

/-- A node outside the partition. -/
def stranger : Nat := (Config.partition 7).foldr (fun n m => max n m) 0 + 1

theorem stranger_not (n : Nat) (h : n ∈ Config.partition 7) : n ≠ stranger := by
  have : ∀ (xs : List Nat), n ∈ xs → n ≤ xs.foldr (fun n m => max n m) 0 := by
    intro xs; induction xs with
    | nil => simp
    | cons x xs ih =>
      intro h
      simp only [List.mem_cons] at h
      simp only [List.foldr_cons]
      rcases h with rfl | h
      · omega
      · have := ih h; omega
  have := this _ h; unfold stranger; omega

theorem wit_Members : allMembers 7 ((restOf.filter (fun (x : Nat × Nat) => x.1 != Config.partitionFirst 7) ++ [(Config.partitionFirst 7, 9)]).map (fun (x : Nat × Nat) => x.1)) = true
    ∧ allMembers 7 [stranger] = false ∧ allMembers 7 (insertNew (Config.partitionRest 7) (Config.partitionFirst 7)) = true := by
  refine ⟨?_, ?_, ?_⟩
  · refine List.all_eq_true.mpr fun n hn => decide_eq_true ?_
    by_cases e : n = Config.partitionFirst 7
    · exact List.mem_map.mpr ⟨(Config.partitionFirst 7, 9), by simp, e.symm⟩
    · have hr : n ∈ Config.partitionRest 7 := by simpa [Config.partition, e] using hn
      exact List.mem_map.mpr ⟨(n, 0), by simp [restOf, e, hr], rfl⟩
  · have := stranger_not (Config.partitionFirst 7) (by simp [Config.partition])
    simp [allMembers, Config.partition, this]
  · refine List.all_eq_true.mpr fun n hn => decide_eq_true ?_
    by_cases e : n = Config.partitionFirst 7
    · unfold insertNew; split <;> simp_all
    · have hr : n ∈ Config.partitionRest 7 := by simpa [Config.partition, e] using hn
      unfold insertNew; split <;> simp_all

/-- A record from this node to the manager. -/
def mrec (type node seq result : Nat) : MgmtRecord :=
  sealed { type := type, tag := 7, node := node, seq := seq, identity := 9, ft := 5, count := 0, lastCommitted := 2, result := result,
           quireByte := 0, mgrEpoch := 0, leaseEpoch := 0, crc := 0 }

theorem wit_Manager : (mgrSt id).isManager = true ∧ ((mgrSt id).exchange 7).preparing = false ∧ ((mgrSt id).exchange 7).rolling = none
    ∧ ((mgrSt fun e => { e with preparing := true, prepared := 4 }).exchange 7).preparing = true
    ∧ ((mgrSt fun e => { e with committed := 4 }).exchange 7).committed ≠ 0 ∧ ((mgrSt id).exchange 7).committed = 0
    ∧ ((mgrSt fun e => { e with rolling := some 4 }).exchange 7).rolling = some 4
    ∧ mgmtOk (mrec 0x11 3 0 0) = true ∧ mgmtOk (mrec 0x13 3 4 0) = true ∧ mgmtOk (mrec 0x13 3 4 3) = true ∧ mgmtOk (mrec 0x17 3 0 0) = true
    ∧ mgmtOk (mrec 0x16 3 4 0) = true := by decide +kernel

theorem mem_foldl_insertNew (xs acc : List Nat) (n : Nat) : n ∈ xs.foldl insertNew acc ↔ n ∈ acc ∨ n ∈ xs := by
  induction xs generalizing acc with
  | nil => simp
  | cons x xs ih =>
    simp only [List.foldl_cons, ih, List.mem_cons]
    unfold insertNew
    split
    · grind
    · simp; grind

theorem length_of_range (n : Nat) (xs : List Nat) (h : ∀ i, i < n → i ∈ xs) : n ≤ xs.length := by
  induction n generalizing xs with
  | zero => omega
  | succ n ih =>
    have := ih (xs.erase n) fun i hi => (List.mem_erase_of_ne (by omega)).mpr (h i (by omega))
    rw [List.length_erase_of_mem (h n (by omega))] at this
    have := List.length_pos_of_mem (h n (by omega))
    omega

/-- A manager to which n modules reported. -/
def crowded (n : Nat) : State := { mgrSt id with mgr := { (mgrSt id).mgr with members := List.range n } }

theorem crowded_members (n : Nat) : (crowded n).mgr.members = List.range n := rfl

theorem members_full (s : State) (n : Nat) (h : s.mgr.members = List.range n) (hn : 512 ≤ n) : 512 ≤ s.members.length := by
  have := length_of_range n ((Config.domainMembers (s.setting 0x4350 2) ++ List.range n).foldl insertNew []) fun i hi =>
    (mem_foldl_insertNew _ _ _).mpr (.inr (List.mem_append_right _ (List.mem_range.mpr hi)))
  unfold State.members
  rw [h, List.length_take]
  omega

theorem fresh_node (xs : List Nat) : ∃ n, n ∉ xs := by
  refine ⟨xs.foldr (fun n m => max n m) 0 + 1, fun h => ?_⟩
  have : ∀ (xs : List Nat) (n : Nat), n ∈ xs → n ≤ xs.foldr (fun n m => max n m) 0 := by
    intro xs; induction xs with
    | nil => simp
    | cons x xs ih =>
      intro n h
      simp only [List.mem_cons] at h
      simp only [List.foldr_cons]
      rcases h with rfl | h
      · omega
      · have := ih n h; omega
  have := this _ _ h; omega

theorem wit_MemberReports : (∃ n, n ∉ (crowded 600).members ∧ 512 ≤ (crowded 600).members.length) ∧ (crowded 600).isManager = true
    ∧ (mgrSt id).members ++ [0] ≠ [] ∧ ∃ (s : State) (n : Nat), s.isManager = true ∧ (n ∈ s.members ∨ s.members.length < 512) := by
  refine ⟨(fresh_node (crowded 600).members).imp fun n h => ⟨h, members_full _ _ (crowded_members 600) (by omega)⟩, by decide +kernel, by simp, ?_⟩
  by_cases h : (mgrSt id).members.length < 512
  · exact ⟨mgrSt id, 0, by decide +kernel, .inr h⟩
  · cases e : (mgrSt id).members with
    | nil => simp [e] at h
    | cons n ns => exact ⟨mgrSt id, n, by decide +kernel, .inl (by simp [e])⟩

/-- A discovery outcome other than the domain plan's. -/
theorem wit_Discrepancy : ∃ out, out ≠ Config.domainOutcome 3 5 := ⟨Config.domainOutcome 3 5 + 1, by omega⟩

/-- Node 0 coordinates; a higher node does not where the domain plan names a lower manager. -/
theorem wit_Coordinates : (mgrSt id).coordinates 7 = true ∧ (mgrSt id).ctlPath (mgrSt id).holder = true
    ∧ ∀ (s : State) (n : Nat), n ∈ Config.foreignManagers 7 → n < s.node → s.coordinates 7 = false := by
  refine ⟨?_, by decide +kernel, fun s n hn hs => ?_⟩
  · have : ∀ xs : List Nat, xs.foldl Nat.min 0 = 0 := fun xs => by
      induction xs with
      | nil => rfl
      | cons x xs ih => simpa using ih
    have h : (mgrSt id).node = 0 := by decide +kernel
    simp [State.coordinates, State.coordinator, h, this]
  · have : ∀ (xs : List Nat) (a : Nat), xs.foldl Nat.min a ≤ a ∧ ∀ n ∈ xs, xs.foldl Nat.min a ≤ n := fun xs => by
      induction xs with
      | nil => simp
      | cons x xs ih =>
        intro a
        obtain ⟨h, k⟩ := ih (Nat.min a x)
        have : Nat.min a x ≤ a := Nat.min_le_left a x
        have : Nat.min a x ≤ x := Nat.min_le_right a x
        simp only [List.foldl_cons, List.mem_cons, forall_eq_or_imp]
        exact ⟨by omega, by omega, k⟩
    have := (this (Config.foreignManagers 7) s.node).2 n hn
    simp only [State.coordinates, State.coordinator, beq_eq_false_iff_ne]
    omega

theorem wit_ManagerRole : (mgrSt id).isManager = true ∧ (mgrSt id).mgr.heardAt + 1000000 ≤ ({ mgrSt id with mono := 1000000 } : State).mono
    ∧ (mgrSt id).mgrEpoch < 1 ∧ ({ mgrSt id with mgrEpoch := 2 } : State).mgrEpoch > 1
    ∧ (up.setSetting 0x4350 1 2).setting 0x4350 1 = 2 ∧ (up.setSetting 0x4350 1 2).mgr.claimed = false
    ∧ (up.setSetting 0x4350 1 2).mgr.heardAt + (up.setSetting 0x4350 1 2).setting 0x4350 5 * 1000000 ≤ 10000000000
    ∧ (mgrSt id).mgr.suggestions.length ≤ (mgrSt id).setting 0x5100 4
    ∧ ((mgrSt id).setSetting 0x5100 4 0).setting 0x5100 4 = 0 ∧ (mgrSt id).mgr.hourStart + 3600000000000 ≤ 3600000000000 := by decide +kernel

/-- R486: of three suggestions the lowest score stands first, ties to the lower node. -/
theorem test_SuggestionOrder :
    putSuggestion (putSuggestion (putSuggestion [] (40, 9)) (40, 3)) (12, 7) = [(12, 7), (40, 3), (40, 9)] := by decide

/-! ### The optical edge -/

/-- Port 3 up to node 1 with 16 slots in service, at elapsed time 100 h, slot 2 the most overdue; and one slot changed. -/
def optSt (k : Fin 18) (f : SlotSt → SlotSt) : State :=
  let s := { (portSt .up 1 1) with mono := 360000000000000 }
  let s := s.updOpt 3 fun o => { o with slots := o.slots.map fun x => { x with calAt := 300, st := if x.service then .inService else .spare } }
  (s.updSlot 3 2 fun x => { x with calAt := 200 }).updSlot 3 k f

theorem wit_Calibration : let s := optSt 2 id
    (s.port 3).state = .up ∧ (s.port 3).time.oneEnded = false ∧ s.mono ≤ 2 ^ 64 ∧ (allSlots.all fun j => !(s.slot 3 j).bars || (s.slot 3 j).passed) = true ∧ s.gut.waiting = [] ∧ s.gut.staged = none ∧ s.gut.oneOffs = []
    ∧ (s.slot 3 2).st = .inService ∧ (s.slot 3 2).calAt + s.setting 0x4500 2 * 1000000000 < s.mono
    ∧ (allSlots.all fun j => (s.slot 3 j).st != .inService || decide ((s.slot 3 2).calAt < (s.slot 3 j).calAt) || j == 2) = true ∧ 0 < s.gut.sched.period
    ∧ (s.slot 3 16).st = .spare ∧ (s.slot 3 16).calAt + s.setting 0x4500 2 * 1000000000 < s.mono ∧ s.gut.now = none
    ∧ (s.slot 3 2).staleTold = false ∧ (s.slot 3 2).line ≠ none ∧ (s.slot 3 2).calAt + s.setting 0x4500 3 * 3600000000000 < s.mono
    ∧ s.savedAt = 0 := by decide +kernel

def outSt : State := optSt 2 fun x => { x with st := .withdrawn, training := false }

theorem wit_Sweep : (outSt.slot 3 2).st = .withdrawn ∧ (outSt.slot 3 2).service = true ∧ (outSt.slot 3 2).passed = false
    ∧ (outSt.slot 3 2).training = false ∧ (outSt.slot 3 2).newLine = none := by decide +kernel

/-- A marker with its CRC. -/
def marker (node port slot line : Nat) : Word :=
  let v := node * 2 ^ 48 + port * 2 ^ 42 + slot * 2 ^ 36 + line * 2 ^ 31
  BitVec.ofNat 64 (v + crc8 ((leBytes 8 v).drop 1))

theorem wit_Markers : crc8 ((leBytes 8 (marker 1 5 2 2).toNat).drop 1) = bits (marker 1 5 2 2).toNat 7 0
    ∧ bits (marker 1 5 2 2).toNat 40 36 = 2 ∧ (outSt.slot 3 2).line = some (bits (marker 1 5 2 2).toNat 35 31)
    ∧ bits (marker 1 5 2 2).toNat 63 48 = (outSt.port 3).exitPlan.node ∧ bits (marker 1 5 2 2).toNat 47 42 = (outSt.port 3).exitPlan.port
    ∧ crc8 ((leBytes 8 (marker 9 5 2 2).toNat).drop 1) = bits (marker 9 5 2 2).toNat 7 0
    ∧ bits (marker 9 5 2 2).toNat 63 48 ≠ (outSt.port 3).exitPlan.node
    ∧ ((optSt 2 fun x => { x with st := .withdrawn, training := true, good := 1 }).slot 3 2).good = 1
    ∧ ((optSt 2 fun x => { x with bad := 1 }).slot 3 2).bad = 1 ∧ ((optSt 2 fun x => { x with badWords := 15, badFrames := 7 }).slot 3 2).badFrames = 7
    ∧ (optSt 2 id).pause = none ∧ (optSt 2 id).inCut 0 0 = false := by decide +kernel

/-- Slot 2 retired after some failed sweeps, or on its way to line 18. -/
def retiredSt (n : Nat) : State := optSt 2 fun x => { x with st := .retired, sweeps := n }

theorem wit_Retune : ((retiredSt 2).slot 3 2).st = .retired ∧ ((retiredSt 2).slot 3 2).newLine = none
    ∧ (allSlots.all fun j => !((retiredSt 2).slot 3 j).isOut) = true ∧ ((retiredSt 2).slot 3 2).sweeps = 2 ∧ ((retiredSt 1).slot 3 2).sweeps < 2
    ∧ ((optSt 2 fun x => { x with newLine := some 18, st := .withdrawn, service := false }).slot 3 2).newLine = some 18
    ∧ ((optSt 2 fun x => { x with st := .retired, service := false }).slot 3 2).service = false
    ∧ ((retiredSt 2).updOpt 3 fun o => { o with slots := o.slots.map fun x => { x with line := none } }).spareFor 3 = none
    ∧ (((optSt 2 id).updOpt 3 fun o => { o with slots := o.slots.map fun x => { x with st := .failed } }).port 3).inService = 0 := by decide +kernel

/-- Every line of comb 1 has a margin of 30, and port 3 a spare on line 16. -/
def lineSt : State :=
  let s := optSt 2 id
  { s with combs := s.combs.map fun c => { c with lines := c.lines.map fun _ => { margin := 30, failed := false, low := false, fellAt := none } } }

theorem wit_Lines : let th : Int := lineSt.setting 0x4500 1
    let min0 := lineSt.vendor.lineMin.getD (20 * 1 + 2) 0
    (1 : Int) < th ∧ th ≤ 1000 ∧ (min0 + 1 : Int) - min0 < th ∧ (lineSt.line 1 2).low = false ∧ (lineSt.slot 3 2).line = some 2 ∧ (lineSt.slot 3 2).st = .inService
    ∧ (allSlots.all fun i => i == 2 || (lineSt.slot 3 i).line != some 2) = true ∧ lineSt.spareFor 3 = some 16 ∧ lineSt.gut.waiting = []
    ∧ (allPorts.all fun p => allSlots.all fun k => (lineSt.slot p k).line != some 19) = true := by decide +kernel

theorem wit_EyeSafety : (lineSt.port 3).lit = true ∧ lineSt.steering 3 = false ∧ lineSt.pause = none ∧ (lineSt.slot 3 16).st = .spare ∧ lineSt.now < 5
    ∧ ((lineSt.updOpt 3 fun o => { o with fibre := .shutdown }).opt 3).fibre = .shutdown
    ∧ (lineSt.opt 3).probeAt + 1000000000 ≤ lineSt.mono ∧ ((lineSt.updOpt 3 fun o => { o with fibre := .probe, probeAt := lineSt.mono }).opt 3).fibre = .probe
    ∧ (lineSt.port 3).exitPlan.kind ≠ 0 ∧ lineSt.spinePath 3 = true ∧ lineSt.fabricOn = true ∧ (lineSt.port 4).exitPlan.kind = 0 ∧ (lineSt.port 4).state = .unused := by decide +kernel

/-- R352: the marker of slot 2 on line 5 of port 3 carries its fields under a CRC that holds. -/
theorem test_MarkerSent : markerOk (State.reset.marker 3 2 5) = true ∧ bits (State.reset.marker 3 2 5).toNat 47 31 = 3 * 2 ^ 11 + 2 * 2 ^ 5 + 5 := by
  decide +kernel

/-! ### Host transport and CAN FD -/

/-- A module in service with its link up and the module address 0x1234. -/
def hostSt : State :=
  let s := (up.setSetting 0x1400 1 0x1234).setSetting 0x1410 3 0
  let s := s.updDie 0 fun x => { x with quire := some (s.chanQuire 1) }
  { s with host := { s.host with linkUp := true }, power := { s.power with st := .run } }

/-- A packet from address 0x99, port 700. -/
def hpk (c : ChanId) (type seq : Nat) (pay : List Byte) : HostPacket :=
  let k : HostPacket := { srcAddr := 0x99, srcPort := 700, dstAddr := 0x1234, dstPort := hostSt.setting 0x1400 2, udpOk := true, plain := true, version := 1, type := type, channel := c, tagged := false, retrans := false, session := 5, seq := seq, ack := 90, gap := 0, senderTime := 8, echoTime := 0, payload := pay, crc := 0, hmac := [] }
  { k with crc := hostCrc k }

/-- Channel 1 open to that sender: sequence 20 is expected, 90 is sent next. -/
def hostOpen (f : Channel → Channel) : State :=
  hostSt.updChan 1 fun x => f { x with state := .opened, addr := 0x99, port := 700, session := 5, expect := 20, txNext := 90 }

/-- Whether the host's packet is let in to the machine that the link and the channel make of it. -/
def takes (s : State) (k : HostPacket) (type : Nat) : Bool :=
  s.hostIn k [type] && s.authentic k (s.chan k.channel).key && (s.chan k.channel).bound k

def sentPk : SentPacket := { seq := 89, type := 2, payload := [], sentAt := 0, timeout := 60000000, backedOff := false }
def hcmd (seq : Nat) (qws : List Nat) : HostCmd := cmdOf seq (qws ++ List.replicate (8 - qws.length) 0) []

theorem wit_HostLink : hostSt.host.linkUp = true ∧ up.host.linkUp = false ∧ 5 ≤ up.boot.stage ∧ hostSt.hostAddr = 0x1234
    ∧ hostSt.hostIn (hpk 1 5 0 []) [0x05] = true ∧ hostSt.openRefused 1 = false ∧ hostSt.openRefused 2 = true
    ∧ hostSt.hostIn (hpk 2 5 0 []) [0x05] = true
    ∧ hostSt.authentic (hpk 1 5 0 []) (hostSt.setting 0x7110 2) = true ∧ (hostSt.chan 1).state = .closed
    ∧ takes (hostOpen id) (hpk 1 7 0 []) 0x07 = true ∧ takes (hostOpen id) (hpk 1 4 0 []) 0x04 = true
    ∧ ((hostOpen fun x => { x with cmds := [hcmd 3 []] }).chan 1).cmds ≠ [] := by decide +kernel

theorem wit_HostTimers : let s := { (hostOpen fun x => { x with ackSince := some 0, sent := [sentPk] }) with mono := 2 ^ 40 }
    (s.chan 1).ackSince = some 0 ∧ 0 + s.setting 0x1420 2 * 1000 ≤ s.mono ∧ s.gov.warm = none
    ∧ (s.chan 1).sent.find? (fun x => x.seq == 89) = some sentPk ∧ sentPk.sentAt + sentPk.timeout ≤ s.mono
    ∧ (hostOpen id).hostIn (hpk 1 9 0 (leBytes 8 (2 ^ 1) ++ leBytes 4 7)) [0x09] = true ∧ hostSt.boot.paper = none
    ∧ hostSt.hmacOn 1 = false ∧ ((hostOpen fun x => { x with cmds := [hcmd 8 []], cache := [(7, 0)] }).chan 1).entriesFrom 7 = [7 * 2 ^ 32 + 2 ^ 24, 8 * 2 ^ 32] := by
  decide +kernel

theorem wit_Delivery : takes (hostOpen id) (hpk 1 1 20 (List.replicate 64 0)) 0x01 = true ∧ takes (hostOpen id) (hpk 1 3 20 []) 0x03 = true
    ∧ hostSt.hostIn (hpk 1 3 20 []) [0x03] = true ∧ hostSt.hostIn (hpk 1 1 20 []) [0x01] = true
    ∧ (hostOpen id).buffered + hostBytes (hpk 1 1 20 (List.replicate 64 0)) ≤ 67108864 ∧ ((hostOpen id).chan 1).cmd 20 = none
    ∧ (hostOpen id).windowFree 1 = true ∧ ((hostOpen fun x => { x with cache := [(19, 0)] }).chan 1).cache.reverse.find? (fun e => e.1 == 19) = some (19, 0)
    ∧ 19 ∈ ((hostOpen fun x => { x with past := [19] }).chan 1).past ∧ 2 ^ 31 ≤ (19 + 2 ^ 32 - 20) % 2 ^ 32
    ∧ (hcmd 5 [2 ^ 56, 0]).op = 0x01 ∧ ((hostOpen fun x => { x with cmds := [hcmd 5 [2 ^ 56, 0]] }).chan 1).cmd 5 = some (hcmd 5 [2 ^ 56, 0]) := by decide +kernel

/-- Channel 1 with a command in hand of this opcode and these last quadwords. -/
def hostRun (op : Nat) (a w : Nat) : State := hostOpen fun x => { x with cmds := [hcmd 5 [op * 2 ^ 56, 0, a, w, 9]] }

theorem wit_DataCommands : (hostRun 1 0 4096).ready 1 5 0x01 = some (hcmd 5 [2 ^ 56, 0, 0, 4096, 9])
    ∧ (hostRun 2 0 4096).ready 1 5 0x02 = some (hcmd 5 [2 * 2 ^ 56, 0, 0, 4096, 9])
    ∧ (hostRun 1 0 4096).hostPath = true ∧ (hostRun 1 0 4096).sizedStatus 1 (hcmd 5 [2 ^ 56, 0, 0, 4096, 9]) [0, 1] = 0
    ∧ (hostRun 1 2 4096).sizedStatus 1 (hcmd 5 [2 ^ 56, 0, 2, 4096, 9]) [0, 1] = 0x11 ∧ (hostRun 2 0 0).sizedStatus 1 (hcmd 5 [2 * 2 ^ 56, 0, 0, 0, 9]) [0, 1, 2] = 0 ∧ (hostRun 1 0 4096).frz.cut = none ∧ (hostRun 1 0 4096).power.st = .run
    ∧ ((hostRun 1 0 4096).hostTarget 1 0 [0, 1] true |>.isOk) = true ∧ ((hostRun 2 0 0).hostTarget 1 0 [0, 1, 2] true |>.isOk) = true
    ∧ (gaddr 0).node = (hostRun 1 0 0).node
    ∧ ((hostRun 3 (2 * 2 ^ 44) (2 ^ 60 + 7)).hostTarget 1 (2 * 2 ^ 44) [2] false |>.isOk) = true
    ∧ bits (2 ^ 60 + 7) 63 60 = 1 ∧ (gaddr (2 * 2 ^ 44)).node = (hostRun 3 0 0).node
    ∧ (match (onDie (hostRun 1 (2 ^ 37) 4096) 1 fun x => { x with quire := some 2 }).hostTarget 1 (2 ^ 37) [0, 1] true with | .error st => st == 0x13 | _ => false) = true
    ∧ ((hcmd 5 []).result = none) := by decide +kernel

/-- A CAN FD frame to node-ID 7. -/
def canFr (bs : List Nat) : CanFrame := { ident := 0x607, fd := true, data := bs.map (BitVec.ofNat 8) }

/-- Node-ID 7, and a transfer of 100 bytes. -/
def canSt (w : Bool) (total : Nat) : State :=
  { up with mono := 2 ^ 40, boot := { up.boot with claimed := true }, can := { up.can with nodeId := 7, transfer := some { write := w, index := 0x2060, sub := 1, total := total, data := List.replicate (if w then 56 else total) 1, nextSeg := 1, ready := false, lastAt := 0 } } }

theorem wit_Can : (canSt true 100).canTakes (canFr [0x20, 0x60, 0x20, 1, 8, 0, 0, 0]) 0x20 = true ∧ (canSt true 100).canTakes (canFr [0x40, 0x60, 0x20, 1]) 0x40 = true
    ∧ (canSt true 100).canTakes (canFr [0x60, 1]) 0x60 = true ∧ (canSt true 100).canTakes (canFr [0x61, 1]) 0x61 = true
    ∧ 0 + 100000000 ≤ (canSt true 100).mono ∧ (canSt true 100).governs = true
    ∧ 0 < ((canSt true 100).setSetting 0x1017 1 10).setting 0x1017 1
    ∧ ((canSt true 100).setSetting 0x1017 1 10).can.heartbeatAt + 10 * 1000000 ≤ (canSt true 100).mono
    ∧ ({ canSt true 100 with power := { (canSt true 100).power with st := .run } } : State).power.st ≠ .off ∧ (canSt true 100).canOn = true := by decide +kernel

/-! ### Boot and power -/

/-- A module in this supply state, powered off, node-ID 7. -/
def offSt (w : Supply) : State := { State.reset with power := { PowerSt.reset with st := .off, supply := w }, can := { State.reset.can with nodeId := 7 } }
def paper1 : Endpaper := up.capture 1

theorem wit_FullBoot : State.reset.flash.store = none ∧ ({ up with flash := { up.flash with store := some { vals := [], keysOk := true } } } : State).flash.store = some { vals := [], keysOk := true }
    ∧ up.flash.copy = none ∧ (offSt .absent).power.supply = .absent ∧ (offSt .tripped).power.supply = .tripped ∧ (offSt .waiting).power.supply = .waiting
    ∧ (offSt .off).power.supply = .off ∧ (offSt .off).flash.writing = none ∧ (offSt .off).can.nodeId ≠ 0 ∧ (offSt .off).canOn = true
    ∧ up.power.supply ≠ .off := by decide +kernel

/-- The reset module at a boot step, 200 s after its start. -/
def bootAt (k : Nat) : State := { State.reset with mono := 200000000000, boot := { BootSt.reset with stage := k } }
def badImage : State := { bootAt 1 with flash := { FlashSt.reset with image := { Image.shipped with valid := false } } }

theorem wit_Boot : (bootAt 1).boot.recovery = false ∧ (bootAt 1).ctlLost 0 = false ∧ (bootAt 1).ctlLost 1 = false
    ∧ (bootAt 1).imageOk (bootAt 1).flash.image = true ∧ (bootAt 1).boot.claimed = false ∧ badImage.imageOk badImage.flash.image = false ∧ badImage.boot.stage = 1
    ∧ (bootAt 3).flash.field = some FieldPart.empty ∧ (bootAt 3).vendor.badChannels = [] ∧ (bootAt 3).vendor.map = [] ∧ (bootAt 8).can.nodeId = 0 ∧ (bootAt 1).gov.ctl[(0 : Fin 2)].failed = false ∧ (bootAt 6).joinMet = true
    ∧ ({ bootAt 6 with topo := fabSt.topo } : State).joinMet = false ∧ (bootAt 7).time.firstLocked = false ∧ (atFt (bootAt 7) 5).time.firstLocked = true
    ∧ (bootAt 8).flash.image.security ≤ (bootAt 8).flash.floor ∧ (bootAt 5).boot.stepAt + bootLimit 5 ≤ (bootAt 5).mono
    ∧ State.reset.mono < State.reset.boot.stepAt + bootLimit 1 ∧ (bootAt 7).boot.told = false ∧ (bootAt 7).boot.stepAt + 60000000000 ≤ (bootAt 7).mono
    ∧ (bootAt 1).boot.startAt + 5000000000 ≤ (bootAt 1).mono := by decide +kernel

/-- R508 to R511: wire 5 of section 3, direction 1 of bridge 2 (index 5), open low; lane 36 of group 0 of channel 66 of stack 19 marginal
beside an edge-marginal clock bond. -/
def wireNet : NetObs := { bond := false, unit := 5, middle := 3, net := 5, low := true, high := false, partner := some (true, 31, 272), middlePass := true, outerPass := true }
def bondNet : NetObs := { bond := true, unit := 19, middle := 66, net := 36, low := false, high := false, partner := none, middlePass := false, outerPass := false }
def edgeNet : NetObs := { bondNet with net := 300, middlePass := true }

theorem test_MapEntries : netEntry wireNet true = 0x6214605FE2080000
    ∧ newEntries [] [bondNet, edgeNet, bondNet] = [netEntry bondNet true, netEntry edgeNet true]
    ∧ mapBonds (newEntries [] [bondNet, edgeNet]) = [(19, 66, 36)] ∧ newEntries [netEntry bondNet false] [bondNet] = [] := by decide +kernel

theorem wit_MapEntry : netKnown bondNet = true ∧ bondNet.partner = none ∧ netKnown { wireNet with partner := none } = true
    ∧ ({ bootAt 3 with boot := { BootSt.reset with stage := 3, extended := true } } : State).flash.field.isSome = true := by decide +kernel

/-- A power command in hand. -/
def powSt (st : PowerState) (n : Nat) : State := withCmd { up with power := { PowerSt.reset with st := st } } 0 9 [0x10 * 2 ^ 56, 0, n * 2 ^ 60, 0, 0, 0, 0, 0] []
def entering (e : PowerState) : State := (fun s => { s with power := { s.power with entering := some (e, 4) } }) (withCmd (powSt .run 0) 0 4 [0x10 * 2 ^ 56, 0, 1, 0, 0, 0, 0, 0] [] |>.startCmd 0 4)
def runningQuire : State := State.updCtx (powSt .run 2) 0 0 fun x => { x with state := .running }

theorem wit_Power : ((powSt .run 2).ready 0 9 0x10).isSome = true ∧ bits (2 * 2 ^ 60) 63 60 = 2 ∧ (powSt .run 2).boot.stage = 9 ∧ (powSt .run 2).hostPath = true
    ∧ (powSt .run 2).power.entering = none ∧ (powSt .run 2).power.leaving = [] ∧ (powSt .idle 1).power.st.code = 1 ∧ (powSt .run 4).refusers (powerOf 4) = []
    ∧ runningQuire.quireState 0 = 2 ∧ runningQuire.refusers (powerOf 2) ≠ [] ∧ ((entering .sleep).ready 0 9 0x10).isSome = true
    ∧ ((entering .sleep).chan 0).cmd 4 ≠ none ∧ (entering .sleep).entryDone .sleep = true ∧ (entering .off).entryDone .off = true
    ∧ (powSt .idle 0).power.leaving = [] ∧ (powSt .run 2).pause = none ∧ 11000 < 12000 := by decide +kernel

theorem wit_PowerLost : up.power.st ≠ .off ∧ up.power.entering = none ∧ up.flash.writing = none
    ∧ (entering .off).power.entering = some (.off, 4) ∧ up.power.supply ≠ .absent ∧ up.gov.gens[(1 : Fin 2)] = true ∧ up.gov.gens[(0 : Fin 2)] = true
    ∧ up.gov.gen = 0 ∧ up.gov.ctl[(0 : Fin 2)].failed = false := by decide +kernel

/-! ### The lease and firmware commands -/

/-- The lease: CTL-A holds it at epoch 1, elapsed time 1 s. -/
def leaseSt : State :=
  let s := { up with mono := 1000000000, boot := { up.boot with claimed := true }, leaseEpoch := 1, power := { up.power with st := .run } }
  s.updDie 0 fun x => { x with leaseEpoch := 1, leaseLimit := 2000000, quire := some 0 }
def claimB : Claim := { who := 1, epoch := 1, askedAt := 0, canAt := 0 }
def claiming : State := { leaseSt with gov := { leaseSt.gov with claim := some claimB } }
def confirmRec (s : State) : MgmtRecord := sealed { s.mgmtBase 0x18 0 with leaseEpoch := 2 }

theorem wit_Lease : leaseSt.boot.claimed = true ∧ leaseSt.governs = true ∧ leaseSt.power.st ≠ .off ∧ leaseSt.ctlPath leaseSt.holder = true ∧ (leaseSt.die 0).intakeFrozen = false
    ∧ (leaseSt.die 0).renewedAt + (leaseSt.die 0).leaseLimit ≤ leaseSt.mono ∧ ({ leaseSt with mono := 1 } : State).mono < (leaseSt.die 0).renewedAt + (leaseSt.die 0).leaseLimit
    ∧ 1 ≠ leaseSt.holder ∧ leaseSt.ctlLost 1 = false ∧ leaseSt.gov.ctl[(1 : Fin 2)].heardAt + 4000000 ≤ leaseSt.mono ∧ leaseSt.gov.warm = none
    ∧ leaseSt.gov.claim = none ∧ leaseSt.boot.recovery = false ∧ leaseSt.boot.stage = 9 ∧ (mgrSt id).mgrTakes (confirmRec (mgrSt id)) 0x18 = true
    ∧ SMap.get 0 leaseSt.gov.traffic 0 = 0 ∧ claiming.gov.claim = some claimB ∧ claiming.ctlLost claimB.who = false
    ∧ claimB.askedAt + 1000000000 ≤ claiming.mono ∧ (leaseSt.die 0).leaseEpoch < 2 ∧ 0 ≠ (1 : CtlId) ∧ (leaseSt.die 0).leaseHolder = 0
    ∧ leaseSt.gov.ctl[(1 : Fin 2)].epoch ≤ 2 ∧ leaseSt.leaseEpoch < 2 ∧ 0 < claimB.epoch := by decide +kernel

/-- A command in hand of channel 0, with these body quadwords and data. -/
def fwSt (op a b : Nat) (data : List Byte) : State := withCmd leaseSt 0 9 [op * 2 ^ 56, 0, a, b, 0, 0, 0, 0] data

/-- An image without a body, signed by the key of private value 1 with nonce 2 (computed by hand from GB/T 32918). -/
def image1 : List Byte := leBytes 192 0x76e4dc8f635ba54baec7e5f6ea3ab4bb13c93a8d84af03702522e4e2f582c8e3aa60fe3247c03fee1308e84f977b04c9c86d9ae4e6a1f90fb5ba3639f4fa7e3a0f03921e532df0240472ac67c87a9d05321696be3cebd599c77f6f4a23637bcc7744c3389455a71e10b66f2bf0be38f94c9396a4604995f1981191f2caec4322baa8250eb35d07e74fbfe28c7c8be228f1ae8314819618e7fa1cf55831db21a0000000000000000000000020050000100010003000000000000000148494c50
def key1 : List Byte := beBytes 32 sm2Gx ++ beBytes 32 sm2Gy
def withRom (s : State) : State := { s with rom := { keyDigest := sm3 key1, unlockId := [0x41] } }
def commitSt : State := (fun s => withRom { s with flash := { s.flash with staged := splice [] 0 image1 } }) (fwSt 0x31 (2 ^ 60) 0 [])

/-- The signed part of an image comes from the standard, so this tests SM3 and SM2 as well. -/
theorem wit_Image : commitSt.imageCheck = 0 := by decide +kernel

def part1 : VendorPart :=
  { VendorPart.reset with vendorKey := key1, sigR := beBytes 32 0xb69ea9076c4e578bac02f23f2ff1be67632f2602ae9ee82ad2111d8139611f6a, sigS := beBytes 32 0xa4b0ab7b49d8d43a29fe86e0680720cbc06c4c69ca769115eab365489d24b16f }

theorem wit_Part : (withRom (fwSt 0x34 0 0 [])).partCheck part1 = 0 ∧ part1.serial = (withRom (fwSt 0x34 0 0 [])).vendor.serial ∧ (fwSt 0x34 0 0 []).vendor.disabled = []
    ∧ slice (fwSt 0x34 0 0 []).flash.staged 0 (min (bits 0 31 0) part1.raw.length) = part1.raw ∧ (fwSt 0x34 0 0 []).flash.copy = none
    ∧ (withRom (fwSt 0x34 0 0 [])).partCheck VendorPart.reset ≠ 0 := by decide +kernel

/-- What a firmware command needs of its state. -/
def fwReadyB (s : State) (op : Nat) : Bool :=
  (s.ready 0 9 op).isSome && !s.boot.recovery && s.hostPath && decide (5 ≤ s.boot.stage) && s.governs

theorem wit_Firmware : fwReadyB (fwSt 0x30 4 8 [1, 2, 3, 4, 5, 6, 7, 8]) 0x30 = true ∧ fwReadyB commitSt 0x31 = true ∧ fwReadyB (fwSt 0x32 0 0 []) 0x32 = true
    ∧ fwReadyB (fwSt 0x33 (2 ^ 60) 0 []) 0x33 = true ∧ fwReadyB (fwSt 0x34 0 0 []) 0x34 = true ∧ (fwSt 0x30 4 8 []).flash.copy = none
    ∧ (fwSt 0x30 4 8 []).flash.written = [] ∧ SMap.wf 0 (fwSt 0x30 4 8 []).flash.staged = true ∧ slice (fwSt 0x31 (2 ^ 60) 0 []).flash.staged 0 4 ≠ [0x50#8, 0x4C#8, 0x49#8, 0x48#8]
    ∧ (fwSt 0x32 0 0 []).identityKey = true ∧ (fwSt 0x33 (2 ^ 60) 0 []).allStopped = true
    ∧ (State.updCtx (fwSt 0x33 (2 ^ 60) 0 []) 0 0 fun x => { x with state := .running }).allStopped = false := by decide +kernel

/-! ### Heat, stacks, dies, clocks, warm restarts -/

/-- A running module at elapsed time 1,000 s, its hot spots at this reading. -/
def hotSt (h : Int) : State :=
  { leaseSt with mono := 1000000000000, power := { leaseSt.power with hot := .replicate 20 h, average := 9007 } }
def throttled (th : Nat) : State := { hotSt 990 with power := { (hotSt 990).power with throttling := true, thermal := th, coolSince := some 0 } }

theorem wit_Heat : (hotSt 900).power.st ≠ .off ∧ (hotSt 900).boot.stage ≠ 0 ∧ (hotSt 900).server 0 ≠ none ∧ (hotSt 900).power.excluded = [] ∧ ((985 : Int) - 980).natAbs ≤ 100
    ∧ (hotSt 900).power.throttling = false ∧ (∀ e : DieId, (hotSt 900).power.hot[e] < 980) ∧ (throttled 1920).power.throttling = true
    ∧ 980 ≤ (throttled 1920).hottest.1 ∧ (throttled 1920).power.stepAt + 1000000 ≤ (throttled 1920).mono ∧ (throttled 1920).power.coolSince = some 0
    ∧ max 0 (throttled 1920).power.stepAt + 10000000 ≤ (throttled 1920).mono ∧ 9000 + 480 < 9600 ∧ ¬ (9200 + 480 < 9600)
    ∧ ((hotSt 900).die 0).band ≤ 2 ∧ ((hotSt 900).die 0).step ≤ 3 ∧ (hotSt 900).power.overAt = 0 := by decide +kernel

def stackSt (f : Die → Die) : State := onDie (bootAt 3 |>.trainStack 0 [] [] [] []) 0 f

theorem wit_Stacks : 32 * 5 < ((stackSt id).die 0).capacity ∧ (stackSt id).setting 0x2121 1 ≠ 0 ∧ SMap.sorted ((stackSt id).die 0).memCounts 0 = true
    ∧ (stackSt id).regionOf 0 (32 * 5) = none ∧ 7 ∈ ((stackSt id).die 0).served ∧ (stackSt id).setting 0x2120 3 < 10000 ∧ (stackSt id).setting 0x2120 2 < (stackSt id).setting 0x2120 3
    ∧ ((stackSt id).die 0).retrain = none ∧ ((stackSt fun x => { x with retrain := some (3, false), retrainWait := [9] }).die 0).retrain = some (3, false)
    ∧ SMap.sorted ((stackSt id).die 0).trainFails 0 = true ∧ SMap.sorted ((stackSt id).die 0).trainAt 0 = true ∧ SMap.sorted ((stackSt id).die 0).lanes 0 = true ∧ (stackSt id).spareTaken 0 3 2 = false := by decide +kernel

/-- A module whose die 3 resets. -/
def resetting : State := onDie leaseSt 3 fun x => { x with presence := .resetting }
/-- Die 3 lost engine 1 of folio 0; folio 1 of die 5 is the reserve. -/
def folioSt : State := { (onDie leaseSt 3 fun x => { x with mx := x.mx.set 1 { x.mx[1] with removed := true } }) with disabled := [(11, true)] }

theorem wit_Dies : (leaseSt.die 3).presence = .inService ∧ leaseSt.power.st ≠ .off ∧ leaseSt.governs = true ∧ leaseSt.validSensors 3 = 64
    ∧ ({ leaseSt with power := { leaseSt.power with excluded := (List.range 17).map (192 + ·) } } : State).validSensors 3 < 48
    ∧ (leaseSt.die 3).resetAt = none ∧ (allPorts.all fun p => (leaseSt.port p).egress == [] && (leaseSt.port p).backlog == []) = true ∧ (resetting.die 3).presence = .resetting ∧ (resetting.die 3).heldDown = false ∧ leaseSt.gov.gen = 0
    ∧ leaseSt.gov.gens[(0 : Fin 2)] = true ∧ leaseSt.gov.gens[(1 : Fin 2)] = true ∧ ({ leaseSt with pause := some 5 } : State).pause ≠ none
    ∧ folioSt.removedFolios = [(3, 0)] ∧ folioSt.reserveFor 3 = some (2 * 5 + 1) ∧ (folioSt.die 5).quire = some 0 ∧ folioSt.quireStopped 0 = true := by decide +kernel

/-- A warm restart that command 9 asked for, and one whose freeze is in force and reported. -/
def warmWaits : State := { fwSt 0x33 (3 * 2 ^ 60) 0 [] with gov := { leaseSt.gov with warmWait := [(1, 9)] } }
def warmUp : State := { fwSt 0x33 (3 * 2 ^ 60) 0 [] with
  gov := { leaseSt.gov with warm := some { cause := 1, startAt := 0, freezeFt := 5, cmd := some 9 } },
  frz := { pending := [], thaws := [], cut := some { ft := 5, since := 0, absent := [], reported := true, named := false, unusable := false, paused := false, rollback := false } } }
def twice : State := { leaseSt with gov := { leaseSt.gov with ctl := leaseSt.gov.ctl.map fun x => { x with restarts := [900000000, 950000000] } } }

theorem wit_Warm : warmWaits.flash.copy = none ∧ warmWaits.governs = true ∧ warmWaits.gov.warmWait.find? (fun w => w.1 == 1) = some (1, 9)
    ∧ leaseSt.ctlLost 0 = false ∧ leaseSt.ctlLost 1 = false ∧ leaseSt.gov.warm = none ∧ 2 ≤ leaseSt.boot.stage ∧ leaseSt.boot.recovery = false
    ∧ (leaseSt.gov.ctl[(0 : Fin 2)].restarts.filter fun t => decide (leaseSt.mono < t + 600000000000)) = []
    ∧ 2 ≤ (twice.gov.ctl[(0 : Fin 2)].restarts.filter fun t => decide (twice.mono < t + 600000000000)).length
    ∧ ({ twice with gov := { twice.gov with ctl := twice.gov.ctl.set 1 { twice.gov.ctl[(1 : Fin 2)] with failed := true } } } : State).ctlLost (otherCtl 0) = true
    ∧ warmUp.gov.warm.isSome = true ∧ 5 ∉ warmUp.frz.pending ∧ (∀ d, (warmUp.die d).cutHold = []) ∧ (∀ d, (warmUp.die d).inbound = []) ∧ ((warmUp.chan 0).cmd 9).isSome = true := by decide +kernel

/-! ### Observation -/

def goodHealth : HealthObs := { slack := 50, spine := 250, dram := 250, logRate := 3000 }

/-- The module's die 0 traces: on, all classes and units, with n records in its buffer. -/
def traceSt (s : State) (n : Nat) (f : TraceSt → TraceSt) : State :=
  onDie s 0 fun x => { x with trace := f { x.trace with on := true, classes := 15, units := 0xFFFFFF, mode := 0, buf := List.replicate n { type := 1, cls := 0, unit := 23, ctx := 0, ft := 5, cycle := 6, payload := 7 } } }

/-- An observation command in hand. -/
def obsSt (op a b c e : Nat) : State := withCmd leaseSt 0 9 [op * 2 ^ 56, 0, a, b, c, e, 0, 0] []

theorem wit_Observe : leaseSt.power.st ≠ .off ∧ leaseSt.boot.stage = 9 ∧ leaseSt.health.state = 0 ∧ goodHealth.slack = 50
    ∧ ({ leaseSt with mono := 2 ^ 60, health := { leaseSt.health with state := 1, belowSince := some 0 } } : State).setting 0x5100 3 * 60000000000 ≤ 2 ^ 60
    ∧ leaseSt.worstMargin ≤ 2 ^ 64
    ∧ 0 < leaseSt.occ.period ∧ (atFt leaseSt (60 * leaseSt.occ.period)).now % leaseSt.occ.period = 0 ∧ (atFt leaseSt (60 * leaseSt.occ.period)).occ.sampledAt ≠ some (60 * leaseSt.occ.period)
    ∧ (atFt leaseSt (60 * leaseSt.occ.period)).calm 3 = true ∧ SMap.sorted leaseSt.occ.bins 0 = true ∧ 0 < leaseSt.occ.window
    ∧ (atFt leaseSt leaseSt.occ.window).now % leaseSt.occ.window = 0 ∧ (atFt leaseSt leaseSt.occ.window).occ.start ≠ (atFt leaseSt leaseSt.occ.window).now
    ∧ leaseSt.histLive 0 0 = true ∧ leaseSt.histLive 0 109 = false ∧ fwReadyB (obsSt 0x20 (2 ^ 60) 100 6553500 0) 0x20 = true
    ∧ 100 ≤ 100 ∧ 6553500 % 100 = 0 ∧ 6553500 / 100 ≤ 65535 ∧ fwReadyB (obsSt 0x20 (2 * 2 ^ 60) 1 7 0) 0x20 = true := by decide +kernel

theorem wit_Trace : (traceSt leaseSt 5 id).traceOn 0 = true ∧ 4 ≤ (traceSt leaseSt 5 id).traceCapacity ∧ ((traceSt leaseSt 5 id).die 0).trace.mode = 0
    ∧ 4 ≤ ((traceSt leaseSt 5 id).die 0).trace.buf.length ∧ ((traceSt leaseSt 3 id).die 0).trace.buf.length = 3 ∧ ((traceSt leaseSt 3 id).die 0).ft % 2 ^ 30 = 0
    ∧ ((atFt leaseSt 3).die 0).ft % 2 ^ 30 ≠ 0
    ∧ fwReadyB (traceSt (obsSt 0x21 (2 ^ 46 + 2 * 2 ^ 42) 0 4 0) 0 id) 0x21 = true ∧ bits (2 ^ 46 + 2 * 2 ^ 42) 47 46 = 1 ∧ bits (2 ^ 46 + 2 * 2 ^ 42) 45 42 = 2
    ∧ ((traceSt leaseSt 3 id).die 0).quire ≠ none ∧ ((traceSt leaseSt 3 id).die 0).presence = .inService ∧ 2 * 4 ≤ (traceSt leaseSt 3 id).traceCapacity
    ∧ fwReadyB (traceSt (obsSt 0x22 3 0 0 0) 0 id) 0x22 = true := by decide +kernel

def armed (k : Nat) (spread : Bool) : Ribbon := { Ribbon.reset with st := .armed, kind := k, spread := spread, post := 4, left := 4 }
def ribbonSt (b : Ribbon) : State := traceSt leaseSt 2 fun t => { t with ribbons := t.ribbons.set 1 b }

theorem wit_Ribbons : ((ribbonSt (armed 6 true)).ribbon 0 1).st = .armed ∧ (ribbonSt (armed 6 true)).matches_ 0 ((ribbonSt (armed 6 true)).ribbon 0 1) .once = true
    ∧ 1 ∈ (ribbonSt (armed 6 true)).diesOf 0 ∧ ((ribbonSt (armed 6 true)).die 0).quire = some 0
    ∧ ((ribbonSt { armed 6 true with st := .fired, left := 0 }).die 0).trace.reached = true ∧ ((ribbonSt { armed 6 true with st := .fired, left := 0 }).die 0).trace.frozen = false := by
  decide +kernel

def entry1 : DumpEntry := { tag := 3, step := 1, sram := false, off := 4096, len := 0, count := 0, due := some (qn 8, .ring 0) }
def pmSt (cmd : Option Nat) : State := { leaseSt with
  pm := some { cause := none, ft := 5, later := 0, writing := true, cmd := cmd }, frz := warmUp.frz }
def fatalSt : State := leaseSt.raise { code := 0x0812, unit := uDie 0 }

theorem wit_Dumps : fwReadyB (obsSt 0x23 (2 ^ 43) 3 4096 128) 0x23 = true ∧ bit (2 ^ 43) 43 = true ∧ bits (2 ^ 43) 47 44 = 0 ∧ 4096 + 128 ≤ (obsSt 0x23 0 0 0 0).localSize 0
    ∧ fwReadyB (obsSt 0x24 (2 ^ 60 + 2 ^ 47) 64 16 0) 0x24 = true ∧ 64 + 16 ≤ (obsSt 0x24 0 0 0 0).setting 0x6010 1 * mib ∧ ((obsSt 0x24 0 0 0 0).die 0).channels ≠ 0
    ∧ ((obsSt 0x24 0 0 0 0).die 0).badDram = [] ∧ ((obsSt 0x24 0 0 0 0).die 0).latent = [] ∧ fwReadyB (obsSt 0x25 0 0 0 0) 0x25 = true ∧ leaseSt.pm = none ∧ leaseSt.frz.cut = none ∧ leaseSt.running = true
    ∧ leaseSt.frozenDie 0 = false ∧ (pmSt none).pm.isSome = true ∧ (pmSt none).frz.cut.any (·.reported) = true ∧ (∀ d, ((pmSt none).die d).cutHold = [] ∧ ((pmSt none).die d).inbound = [])
    ∧ fwReadyB ({ obsSt 0x25 0 0 0 0 with pm := (pmSt none).pm.map fun p => { p with writing := false } } : State) 0x25 = true
    ∧ (fatalSt.log.recs.reverse.find? (fun e => e.code == 0x0812 && !e.old)).isSome = true := by decide +kernel

/-! ### The test access port, reset, memory, events, the step -/

def tapSt (ch : Option (List Byte)) (un : Bool) : State :=
  withRom { leaseSt with vendor := { VendorPart.reset with vendorKey := key1 }, tap := { TapSt.reset with select := 0xFFFF }, sec := { SecSt.reset with challenge := ch, unlocked := un } }
def sigR1 : List Byte := beBytes 32 0x6f4e6ffe9c418271e0d2a6c403ce6ec37e2d135aad416149995dce6255f59c18
def sigV1 : List Byte := beBytes 32 0xc858c7ffb1df3ec70f96ac9dfe18c89db2ed55bdcb255486870d0cd80eda7318
def chal : List Byte := List.replicate 32 0

theorem wit_Tap : (tapSt none true).power.supply ≠ .absent ∧ (offSt .absent).power.supply = .absent ∧ (tapSt none true).sec.unlocked = true ∧ (tapSt none true).power.st = .run ∧ (tapSt none true).power.st ≠ .off
    ∧ (tapSt none true).tap.select.getLsbD 5 = true ∧ ((tapSt none true).die 3).presence ≠ .resetting ∧ 2 ≤ (tapSt none true).boot.stage
    ∧ (tapSt none true).ctlLost (tapSt none true).holder = false ∧ (tapSt (some chal) false).sec.challenge = some chal
    ∧ 0x77 < 256 ∧ 0x77 ≠ 0x12 := by decide +kernel

theorem wit_Unlock : sm2Verify (tapSt none true).rom.unlockId (tapSt none true).vendor.vendorKey (chal ++ (tapSt none true).vendor.serial) sigR1 sigV1 = true := by
  decide +kernel

theorem wit_BadUnlock : sm2Verify (tapSt none true).rom.unlockId (tapSt none true).vendor.vendorKey (chal ++ (tapSt none true).vendor.serial) sigR1 [] = false := by
  decide +kernel

/-- A channel map with a spare, distinct. -/
theorem wit_Placement : 0 < ((stackSt id).die 0).channels ∧ ((stackSt id).die 0).served.Nodup ∧ 5 * 4096 < ((stackSt id).die 0).capacity
    ∧ 70000 < ((State.reset.setSetting 0x2100 1 1).windowSize 0) ∧ ((stackSt id).die 0).localChannel 160 ≠ none := by decide +kernel

/-- Dies 1 and 5, the neighbours of die 0, are away, and die 7 cannot be reached from it; the window of quire 0 lies on the dies in service. -/
def islandSt : State := State.setSetting (hopSt [1, 5]) 0x2100 1 1

theorem wit_Unreachable : islandSt.localOk 0 false (windowBase + 8 * 4096) 16 = true ∧ (islandSt.lostRun 0 (islandSt.localRuns 0 false (windowBase + 8 * 4096) 16)).isSome = true := by
  decide +kernel

theorem wit_LocalMemory : (State.reset.localRuns 0 false 4096 8).all (fun r => State.reset.reaches 0 r.1.die) = true ∧
    ((State.reset.setSetting 0x2100 1 1).localRuns 0 false (windowBase + 4090) 16).all (fun r => (State.reset.setSetting 0x2100 1 1).reaches 0 r.1.die) = true ∧ State.reset.localOk 0 false 4096 8 = true ∧ badRuns State.reset (State.reset.localRuns 0 false 4096 8) = none
    ∧ (State.reset.setSetting 0x2100 1 1).localOk 0 false (windowBase + 4090) 16 = true ∧ State.reset.localOk 0 true sramSize 1 = false
    ∧ (onDie State.reset 0 fun x => { x with badDram := [128] }).localOk 0 false 4096 8 = true
    ∧ badRuns (onDie State.reset 0 fun x => { x with badDram := [128] }) ((onDie State.reset 0 fun x => { x with badDram := [128] }).localRuns 0 false 4096 8) ≠ none := by
  decide +kernel

def evt (code sev born : Nat) : Event :=
  { code := code, sev := sev, ctx := none, stream := none, old := false, unit := uModule, ft := 0, quire := none, rep := 0, seq := 0, detail := 0, born := born }

theorem wit_Events : (leaseSt.raise { code := 0x0104, unit := uModule }).log.recs.length = 1 ∧ severity 0x0104 ≠ 2 ∧ severity 0x0304 = 2 ∧ (0x0304 : Nat) ≠ 0x0815
    ∧ leaseSt.log.recs = [] ∧ leaseSt.unitQuire (uDie 0) = some 0 ∧ (leaseSt.quire 0).invalid = false ∧ (evt 5 0 0).sev < 3 ∧ leaseSt.mono < (evt 5 0 leaseSt.mono).born + 1000000 := by
  decide +kernel

theorem wit_CanAbort : (canSt true 100).can.nodeId ≠ 0 ∧ (canSt true 100).canOn = true ∧ 0x53 ≠ 0 := by decide +kernel

/-! ### The step -/

/-- A waiting command runs, the rest of the queue stays; and the empty queue of the reset module lets time pass. -/
theorem test_step_front : (nx (step { leaseSt with pending := [.tapReset, .wakePin] })).pending = [.wakePin]
    ∧ (nx (step { leaseSt with pending := [.tapReset, .wakePin] })).tap.ir = 3 := by decide +kernel

theorem wit_EmptyQueue : State.reset.pending = [] := rfl
theorem test_step_tick : (nx (step State.reset)).mono = 1 := by decide +kernel
theorem test_decode : decodeTableWord 32 7 = none := rfl

/-- A log full of fatal records, and one with a single lesser record at its front. -/
theorem wit_FullLog : let full := List.replicate 8192 (evt 5 3 0)
    let mixed := evt 5 0 0 :: List.replicate 8191 (evt 5 3 0)
    full.length = 8192 ∧ (∀ r ∈ full, 3 ≤ r.sev) ∧ mixed.length = 8192 ∧ (evt 5 0 0).sev < 3 ∧ (∀ r ∈ List.replicate 8191 (evt 5 3 0), (evt 5 0 0).sev ≤ r.sev)
    ∧ (∀ r ∈ full, r.code ≠ 0x0104) := by
  refine ⟨List.length_replicate, fun r h => ?_, congrArg (· + 1) List.length_replicate, by decide, fun r h => ?_, fun r h => ?_⟩ <;>
    rw [List.eq_of_mem_replicate h] <;> decide

/-- A degraded event's paths: a node-ID, contacts, a governing control die and a manager to tell. -/
theorem wit_EventPaths : (leaseSt.setSetting 0x4350 3 9).governs = true ∧ (leaseSt.setSetting 0x4350 3 9).manager ≠ 0xFFFF
    ∧ (leaseSt.setSetting 0x4350 3 9).ctlPath 0 = true ∧ (canSt true 100).can.nodeId ≠ 0 ∧ (canSt true 100).canOn = true ∧ severity 0x0303 = 1
    ∧ leaseSt.log.canTimes = [] := by decide +kernel

end Sys2Proof.Tests
end

section
/-! One nanosecond of time: what a tick corrects, counts and sends, each with its frame (O2). -/

namespace Sys2Proof.Machine

/-! ### What a tick's correction is (R39) -/

theorem slewOne_cases (left : Int) : slewOne left = -1 ∨ slewOne left = 0 ∨ slewOne left = 1 := by
  unfold slewOne; split
  · exact .inr (.inr rfl)
  · split
    · exact .inl rfl
    · exact .inr (.inl rfl)

/-- What a tick does to the corrections that remain: nothing but the phase, or at the 50,000th tick one step of the module's own slew
for all counters, or without one a step of each counter's own. -/
theorem TimeSt.slewStep_cases (t : TimeSt) :
    (∃ n, t.slewStep = ({ t with slewPhase := n }, fun _ => 0))
    ∨ 49999 ≤ t.slewPhase ∧
      (t.slewStep = ({ t with slew := t.slew - slewOne t.slew, slewPhase := 0 }, fun _ => slewOne t.slew)
       ∨ t.slew = 0 ∧ t.slewStep = ({ t with devs := t.devs.map fun (d : Int) => d - slewOne d, slewPhase := 0 },
           fun i => slewOne t.devs[i])) := by
  unfold TimeSt.slewStep
  split
  · exact .inl ⟨0, rfl⟩
  · split
    · exact .inl ⟨t.slewPhase + 1, rfl⟩
    · next late =>
      refine .inr ⟨by omega, ?_⟩
      split
      · exact .inl rfl
      · next h => exact .inr ⟨Decidable.not_not.mp h, rfl⟩

/-- A correction is at most 1 ns, comes at the 50,000th tick alone, is taken off the module's own slew while that lasts, and of the
time state only what remains to correct changes. -/
theorem TimeSt.slewStep_spec (t : TimeSt) :
    (∀ i, (t.slewStep.2 i = -1 ∨ t.slewStep.2 i = 0 ∨ t.slewStep.2 i = 1)
      ∧ (t.slewStep.2 i ≠ 0 → 49999 ≤ t.slewPhase ∧ t.slewStep.1.slewPhase = 0))
    ∧ (t.slew ≠ 0 → ∀ i, t.slewStep.1.slew = t.slew - t.slewStep.2 i)
    ∧ t.slewStep.1 = { t with slew := t.slewStep.1.slew, slewPhase := t.slewStep.1.slewPhase, devs := t.slewStep.1.devs } := by
  rcases t.slewStep_cases with ⟨n, h⟩ | ⟨late, h | ⟨none, h⟩⟩ <;> rw [h]
  · exact ⟨fun _ => ⟨.inr (.inl rfl), fun h => absurd rfl h⟩, fun _ _ => (Int.sub_zero _).symm, rfl⟩
  · exact ⟨fun _ => ⟨slewOne_cases _, fun _ => ⟨late, rfl⟩⟩, fun _ _ => rfl, rfl⟩
  · exact ⟨fun _ => ⟨slewOne_cases _, fun _ => ⟨late, rfl⟩⟩, fun some => absurd none some, rfl⟩

/-! ### What the ports send in a tick (R54, R300, R306) -/

/-- t is s after some of the ports that may send have sent: of the ports only queues and regulators change, and the wire grows. -/
def State.Injects (s t : State) : Prop :=
  t = { s with ports := t.ports, wire := t.wire }
    ∧ (∀ p, t.port p = { s.port p with egress := (t.port p).egress, backlog := (t.port p).backlog, reg := (t.port p).reg })
    ∧ (∀ p, s.portSends p = false → t.port p = s.port p) ∧ s.wire <+: t.wire

theorem State.Injects.refl (s : State) : s.Injects s := ⟨rfl, fun _ => rfl, fun _ _ => rfl, List.prefix_rfl⟩

theorem State.Injects.portSends {s t : State} (h : s.Injects t) (p : PortId) : t.portSends p = s.portSends p := by
  obtain ⟨hs, hp, -, -⟩ := h
  unfold State.portSends
  rw [hp p, hs]

theorem State.Injects.trans {s t u : State} (h : s.Injects t) (g : t.Injects u) : s.Injects u := by
  obtain ⟨hs, hp, hn, hw⟩ := id h
  obtain ⟨gs, gp, gn, gw⟩ := g
  refine ⟨?_, fun p => ?_, fun p no => ?_, hw.trans gw⟩
  · rw [gs, hs]
  · rw [gp, hp]
  · rw [gn p (h.portSends p ▸ no), hn p no]

theorem Port.accept_frame (ks : List FabricPacket) (x : Port) :
    x.accept ks = { x with egress := (x.accept ks).egress, backlog := (x.accept ks).backlog } := by
  induction ks generalizing x with
  | nil => rfl
  | cons k ks ih =>
    unfold Port.accept
    split <;> rw [ih]

theorem Port.sent_frame (x : Port) (t : Nat) (c : Fin 6) (k : FabricPacket) :
    x.sent t c k = { x with egress := (x.sent t c k).egress, backlog := (x.sent t c k).backlog, reg := (x.sent t c k).reg } := by
  unfold Port.sent
  dsimp only
  rw [Port.accept_frame]

theorem State.port_send (s : State) (o : Out) (p : PortId) : (s.send o).port p = s.port p := rfl

theorem State.sendNext_injects (s : State) (p : PortId) : s.Injects (s.sendNext p) := by
  unfold State.sendNext
  split
  · exact .refl s
  · split
    · next may =>
      split
      · next k _ =>
        refine ⟨rfl, fun r => ?_, fun r no => ?_, List.prefix_append ..⟩
        · simp only [State.port_send, State.port_updPort]
          split
          · next h => rw [h]; exact Port.sent_frame ..
          · rfl
        · have other : r ≠ p := fun h => by simp [h, may] at no
          simp only [State.port_send, State.port_updPort, if_neg other]
      · exact .refl s
    · exact .refl s

theorem State.sendAllPorts_injects (s : State) (ps : List PortId) : s.Injects (ps.foldl State.sendNext s) :=
  List.foldlRecOn ps State.sendNext (motive := s.Injects) (.refl s) fun t h p _ => h.trans (t.sendNext_injects p)

/-! ### Held cycles (R332) -/

/-- t is s but for the counts 0x5150 of the dies. -/
def State.Counts (s t : State) : Prop :=
  t = { s with dies := t.dies } ∧ ∀ d, t.die d = { s.die d with collCounts := (t.die d).collCounts }

theorem State.Counts.trans {s t u : State} (h : s.Counts t) (g : t.Counts u) : s.Counts u := by
  obtain ⟨hs, hd⟩ := h
  obtain ⟨gs, gd⟩ := g
  exact ⟨by rw [gs, hs], fun d => by rw [gd, hd]⟩

theorem State.updDie_counts (s : State) (d : DieId) (f : Die → Vector Nat 7) :
    s.Counts (s.updDie d fun x => { x with collCounts := f x }) := by
  refine ⟨rfl, fun e => ?_⟩
  simp only [State.die_updDie]
  split
  · next h => rw [h]
  · rfl

theorem State.countHeld_counts (s : State) (before : Vector Nat 20) : s.Counts (s.countHeld before) := by
  unfold State.countHeld
  refine List.foldlRecOn allDies _ (motive := s.Counts) ⟨rfl, fun _ => rfl⟩ fun t h d _ => h.trans ?_
  extract_lets n
  split
  · exact ⟨rfl, fun _ => rfl⟩
  · exact t.updDie_counts d _

/-! ### The nanosecond -/

/-- A tick in its parts: the counters advance and upsets strike, held cycles are counted, the ports send. -/
theorem State.tick_parts (s : State) : ∃ (u : State) (before : Vector Nat 20),
    s.tick = allPorts.foldl State.sendNext (u.countHeld before)
      ∧ u = { s with mono := s.mono + 1, time := s.time.slewStep.1, dies := u.dies, ctlFt := u.ctlFt, edgeFt := u.edgeFt }
      ∧ (∀ d : DieId, u.die d = { s.die d with
          ft := addInt ((s.die d).ft + 1) (s.time.slewStep.2 ⟨d.val, by omega⟩) % 2 ^ 64, cycles := (u.die d).cycles,
          cyclePhase := (u.die d).cyclePhase, latent := (u.die d).latent, badSram := (u.die d).badSram,
          badDram := (u.die d).badDram })
      ∧ (∀ c : CtlId, u.ctlFt[c] = addInt (s.ctlFt[c] + 1) (s.time.slewStep.2 ⟨20 + c.val, by omega⟩) % 2 ^ 64)
      ∧ (∀ e : Fin 9, u.edgeFt[e] = addInt (s.edgeFt[e] + 1) (s.time.slewStep.2 ⟨22 + e.val, by omega⟩) % 2 ^ 64) := by
  unfold State.tick
  cases s.time.slewStep
  refine ⟨_, _, rfl, rfl, fun d => ?_, fun c => ?_, fun e => ?_⟩
  · simp only [State.die, Fin.getElem_fin, Vector.getElem_ofFn, Die.struck, Die.clockTick]
  · simp only [Fin.getElem_fin, Vector.getElem_ofFn]
  · simp only [Fin.getElem_fin, Vector.getElem_ofFn]

/-- Settles O2: a tick advances the counters, then counts held cycles, then lets the ports send; each part has its own frame. -/
theorem idleStepsAndSpelling : Obligations.IdleStepsAndSpelling := by
  unfold Obligations.IdleStepsAndSpelling
  refine ⟨fun s empty => ?_, fun nbits w => ⟨rfl, fun _ => rfl⟩⟩
  have tick : step s = .next s.tick := by unfold step; rw [empty]
  obtain ⟨small, ofSlew, timeFrame⟩ := s.time.slewStep_spec
  obtain ⟨u, before, parts, adv, dies, ctls, edges⟩ := s.tick_parts
  obtain ⟨counted, counts⟩ := u.countHeld_counts before
  obtain ⟨sent, ports, quiet, wire⟩ := (u.countHeld before).sendAllPorts_injects allPorts
  rw [← parts] at sent ports quiet wire
  generalize u.countHeld before = v at *
  generalize s.tick = t at *
  have time : t.time = s.time.slewStep.1 := by rw [sent, counted, adv]
  have die : ∀ d, t.die d = v.die d := fun d => by rw [sent]; rfl
  have port : ∀ p, v.port p = s.port p := fun p => by rw [counted, adv]; rfl
  have sends : ∀ p, v.portSends p = s.portSends p := fun p => by rw [counted, adv]; rfl
  refine ⟨t, s.time.slewStep.2, tick, ?_, ?_, ?_, fun d => ?_, fun c => ?_, fun e => ?_, fun d => ?_, fun p => ?_, fun p no => ?_,
    ?_, ?_⟩
  · rw [sent, counted, adv]
  · rw [time]; exact small
  · rw [time]; exact ofSlew
  · rw [die, counts, dies]
  · rw [← ctls, sent, counted]
  · rw [← edges, sent, counted]
  · rw [die, counts, dies]
  · rw [ports, port]
  · rw [quiet p (sends p ▸ no), port]
  · rwa [counted, adv] at wire
  · rw [time, ← timeFrame, sent, counted, adv]

end Sys2Proof.Machine
end

section
/-! Alignment and time symbols: what they carry, what they teach a port, which parent is taken (O4). -/

namespace Sys2Proof.Machine

theorem exec_ftAlignmentSymbol (s : State) : exec .ftAlignmentSymbol s = execFtAlignmentSymbol s := rfl
theorem exec_timeSymbolSend (p : PortId) (s : State) : exec (.timeSymbolSend p) s = execTimeSymbolSend p s := rfl
theorem exec_timeSymbolReceive (p : PortId) (sym : TimeSymbol) (s : State) :
    exec (.timeSymbolReceive p sym) s = execTimeSymbolReceive p sym s := rfl

/-! ### Alignment (R38, R39) -/

theorem agrees_iff (k ft : Nat) : agrees k ft = true ↔ ft ≤ k + 1 ∧ k ≤ ft + 1 := by
  simp only [agrees, Bool.and_eq_true, decide_eq_true_eq]

theorem ftLack_of_agrees {k ft : Nat} (h : agrees k ft = true) : ftLack k ft = 0 := if_pos h

theorem ftLack_of_not_agrees {k ft : Nat} (h : ¬ agrees k ft = true) : ftLack k ft = (k : Int) - ft := if_neg h

/-- The entries of `ftLacks` are the counters' lacks, dies first, then control dies, then edge dies. -/
theorem State.ftLacks_die (s : State) (k : Nat) (d : DieId) : (s.ftLacks k)[d.val] = ftLack k (s.die d).ft := by
  simp only [State.ftLacks, Vector.getElem_ofFn, State.die, Fin.getElem_fin, d.isLt, dif_pos]

theorem State.ftLacks_ctl (s : State) (k : Nat) (c : CtlId) : (s.ftLacks k)[20 + c.val] = ftLack k s.ctlFt[c] := by
  have h1 : ¬ 20 + c.val < 20 := by omega
  have h2 : 20 + c.val < 22 := by omega
  simp only [State.ftLacks, Vector.getElem_ofFn, Fin.getElem_fin, dif_neg h1, dif_pos h2, Nat.add_sub_cancel_left]

theorem State.ftLacks_edge (s : State) (k : Nat) (e : Fin 9) : (s.ftLacks k)[22 + e.val] = ftLack k s.edgeFt[e] := by
  have h1 : ¬ 22 + e.val < 20 := by omega
  have h2 : ¬ 22 + e.val < 22 := by omega
  simp only [State.ftLacks, Vector.getElem_ofFn, Fin.getElem_fin, dif_neg h1, dif_neg h2, Nat.add_sub_cancel_left]

/-- What a counter of FT ft becomes at an alignment symbol of keeper's FT k before the first lock. -/
def aligned (k ft : Nat) : Nat := (if agrees k ft then ft else k) % 2 ^ 64

theorem aligned_of_agrees {k ft : Nat} (h : agrees k ft = true) (small : ft < 2 ^ 64) : aligned k ft = ft := by
  rw [aligned, if_pos h, Nat.mod_eq_of_lt small]

theorem aligned_of_not_agrees {k ft : Nat} (h : ¬ agrees k ft = true) (small : k < 2 ^ 64) : aligned k ft = k := by
  rw [aligned, if_neg h, Nat.mod_eq_of_lt small]

/-- Before the first lock an alignment symbol steps the counters. -/
theorem execFtAlignmentSymbol_unlocked {s : State} (h : s.time.firstLocked = false) :
    execFtAlignmentSymbol s = .next { s with
      dies := s.dies.map (fun x => { x with ft := aligned s.now x.ft }), ctlFt := s.ctlFt.map (aligned s.now),
      edgeFt := s.edgeFt.map (aligned s.now), wire := s.wire ++ [.align s.now] } := by
  simp only [execFtAlignmentSymbol, h, Bool.false_eq_true, if_false]; rfl

/-- After the first lock an alignment symbol only notes what each counter lacks (log 146). -/
theorem execFtAlignmentSymbol_locked {s : State} (h : s.time.firstLocked = true) :
    execFtAlignmentSymbol s = .next { s with
      time := { s.time with devs := s.ftLacks s.now }, wire := s.wire ++ [.align s.now] } := by
  simp only [execFtAlignmentSymbol, h, if_true]; rfl

/-! ### Time symbols out (R41) -/

theorem State.timePort_of_up {s : State} {p : PortId} (fabric : p.val < 44) (up : (s.port p).state = .up) : s.timePort p = true := by
  simp only [State.timePort, fabric, up, decide_true, Bool.true_and, beq_self_eq_true]

theorem execTimeSymbolSend_timePort {s : State} {p : PortId} (h : s.timePort p = true) :
    execTimeSymbolSend p s = .next { s with
      ports := s.ports.set p { s.port p with time := { (s.port p).time with sent := some s.now } },
      wire := s.wire ++ [.timeSymbol p (s.symbolOf p)] } := by
  simp only [execTimeSymbolSend, h, if_true]; rfl

/-! ### What time-keeping may change -/

/-- t is s but for the time state and what recording an event may change. -/
def State.Retimes (s t : State) : Prop := State.Quiet { s with time := t.time } t

theorem State.Retimes.trans {s t u : State} (h : s.Retimes t) (g : t.Retimes u) : s.Retimes u := by
  obtain ⟨hs, hd, hq⟩ := h
  obtain ⟨gs, gd, gq⟩ := g
  refine ⟨by rw [gs, hs], fun d => ?_, fun k => ?_⟩
  · exact (gd d).trans (by rw [show State.die { t with time := u.time } d = t.die d from rfl, hd d]; rfl)
  · exact (gq k).trans (by rw [show State.quire { t with time := u.time } k = t.quire k from rfl, hq k]; rfl)

theorem State.retimes_time (s : State) (x : TimeSt) : s.Retimes { s with time := x } := .refl _

theorem State.Quiet.time {s t : State} (h : s.Quiet t) : t.time = s.time := by rw [h.1]

theorem State.Quiet.retimes {s t : State} (h : s.Quiet t) : s.Retimes t := by
  unfold State.Retimes; rw [h.time]; exact h

theorem State.timeEvent_quiet (s : State) (code : Nat) : s.Quiet (s.timeEvent code) := s.raise_quiet _

@[simp] theorem State.timeEvent_time (s : State) (code : Nat) : (s.timeEvent code).time = s.time := (s.timeEvent_quiet code).time

theorem State.timeEvent_retimes (s : State) (x : TimeSt) (code : Nat) : s.Retimes (State.timeEvent { s with time := x } code) :=
  (s.retimes_time x).trans (State.timeEvent_quiet _ code).retimes

theorem State.Retimes.port {s t : State} (h : s.Retimes t) (p : PortId) : t.port p = s.port p := by rw [h.1]; rfl

theorem State.Retimes.byteAt {s t : State} (h : s.Retimes t) (a : Place) : t.byteAt a = s.byteAt a := (State.Quiet.byteAt h a :)

theorem State.Retimes.now {s t : State} (h : s.Retimes t) : t.now = s.now := (State.Quiet.now h :)

/-! ### The parent (R42, R43) -/

/-- Whether a port is a candidate rests on its port and on the time epoch alone. -/
theorem State.candidate_congr {s t : State} (ports : ∀ p, t.port p = s.port p) (epoch : t.time.epoch = s.time.epoch) (p : PortId) :
    t.candidate p = s.candidate p := by
  simp only [State.candidate, State.timePort, ports, epoch]

theorem foldl_min_le (xs : List Nat) (b : Nat) : xs.foldl Nat.min b ≤ b ∧ ∀ x ∈ xs, xs.foldl Nat.min b ≤ x := by
  induction xs generalizing b with
  | nil => simp
  | cons y ys ih =>
    obtain ⟨start, rest⟩ := ih (Nat.min b y)
    refine ⟨Nat.le_trans start (Nat.min_le_left b y), fun x hx => ?_⟩
    rcases List.mem_cons.mp hx with rfl | hx
    · exact Nat.le_trans start (Nat.min_le_right b x)
    · exact rest x hx

/-- The first element of a rising list that passes a test is the least of those that pass. -/
theorem find?_least {n : Nat} {xs : List (Fin n)} (rising : xs.Pairwise (· ≤ ·)) {f : Fin n → Bool} {q r : Fin n}
    (found : xs.find? f = some q) (hr : r ∈ xs) (passes : f r = true) : q ≤ r := by
  obtain ⟨-, as, bs, rfl, before⟩ := List.find?_eq_some_iff_append.mp found
  rcases List.mem_append.mp hr with early | late
  · have fails := before r early
    rw [passes] at fails
    exact absurd fails (by decide)
  · rcases List.mem_cons.mp late with rfl | late
    · exact Fin.le_refl _
    · exact List.rel_of_pairwise_cons (List.pairwise_append.mp rising).2.1 late

/-- The parent taken is a candidate, and under its master none has fewer hops, or as many and a lower port. -/
theorem State.pickParent_best {s : State} {q : PortId} (h : s.pickParent = some q) :
    s.candidate q = true ∧ ∀ r, s.candidate r = true → (s.port r).time.node = (s.port q).time.node →
      (s.port q).time.hops < (s.port r).time.hops ∨ ((s.port q).time.hops = (s.port r).time.hops ∧ q ≤ r) := by
  unfold State.pickParent at h
  extract_lets cs m cs' low at h
  have hq := List.mem_of_find?_eq_some h
  have hops : (s.port q).time.hops = low := by simpa using List.find?_some h
  obtain ⟨cand, node⟩ := List.mem_filter.mp hq
  refine ⟨(List.mem_filter.mp cand).2, fun r hr same => ?_⟩
  have member : r ∈ cs' :=
    List.mem_filter.mpr ⟨List.mem_filter.mpr ⟨List.mem_finRange r, hr⟩, by rw [same]; exact node⟩
  have le : low ≤ (s.port r).time.hops := (foldl_min_le _ _).2 _ (List.mem_map.mpr ⟨r, member, rfl⟩)
  rcases Nat.lt_or_eq_of_le le with lt | eq
  · exact .inl (hops ▸ lt)
  · have rising : cs'.Pairwise (· ≤ ·) := ((List.pairwise_le_finRange 48).filter _).filter _
    exact .inr ⟨hops.trans eq, find?_least rising h member (by simp [eq])⟩

/-! ### The parts of a time symbol's receipt (R41, R43, R45, R47) -/

@[simp] theorem State.followEpoch_port (s : State) (sym : TimeSymbol) (p : PortId) : (s.followEpoch sym).port p = s.port p := by
  unfold State.followEpoch; split <;> rfl

theorem State.followEpoch_retimes (s : State) (sym : TimeSymbol) : s.Retimes (s.followEpoch sym) := by
  unfold State.followEpoch; split
  · exact s.retimes_time _
  · exact s.retimes_time s.time

/-- A higher epoch is followed and takes the master role away. -/
theorem State.followEpoch_higher {s : State} {sym : TimeSymbol} (h : s.time.epoch < sym.epoch) :
    (s.followEpoch sym).time.epoch = sym.epoch ∧ (s.followEpoch sym).time.master = false := by
  simp only [State.followEpoch, h, decide_true, Bool.true_or, if_true, and_self]

/-- Excluding a port marks it and may raise an event. -/
theorem State.exclude_quiet (s : State) (p : PortId) (two no : Bool) :
    State.Quiet (s.updPort p fun x => { x with time := { x.time with oneEnded := two, noParent := (s.port p).time.noParent || no } })
      (s.exclude p two no) := by
  unfold State.exclude
  dsimp only
  split
  · exact State.raise_quiet ..
  · exact .refl _

/-- Taking the parent afresh changes the time state and may raise an event; epoch and role stay, and a module that is not the master
has the parent that it picks. -/
theorem State.reparent_spec (s : State) :
    s.Retimes s.reparent ∧ s.reparent.time.epoch = s.time.epoch ∧ s.reparent.time.master = s.time.master
      ∧ s.reparent.time.parent = if s.time.master then none else s.pickParent := by
  unfold State.reparent
  split
  · exact ⟨s.retimes_time _, rfl, rfl, rfl⟩
  · dsimp only
    split
    · refine ⟨s.timeEvent_retimes _ _, ?_, ?_, ?_⟩ <;> rw [State.timeEvent_time]
    · exact ⟨s.retimes_time _, rfl, rfl, rfl⟩

/-- Discipline changes the time state and may raise an event; epoch, role and parent stay. -/
theorem State.discipline_spec (s : State) (th : Int) :
    s.Retimes (s.discipline th) ∧ (s.discipline th).time.epoch = s.time.epoch ∧ (s.discipline th).time.master = s.time.master
      ∧ (s.discipline th).time.parent = s.time.parent := by
  unfold State.discipline
  dsimp only
  split
  · exact ⟨s.retimes_time _, rfl, rfl, rfl⟩
  · split
    · split
      · exact ⟨s.retimes_time _, rfl, rfl, rfl⟩
      · refine ⟨s.timeEvent_retimes _ _, ?_, ?_, ?_⟩ <;> rw [State.timeEvent_time]
    · split
      · exact ⟨s.retimes_time _, rfl, rfl, rfl⟩
      · split
        · exact ⟨s.retimes_time _, rfl, rfl, rfl⟩
        · refine ⟨s.timeEvent_retimes _ _, ?_, ?_, ?_⟩ <;> rw [State.timeEvent_time]

/-- What a port holds after a symbol, whatever marks it then gets (R41). -/
theorem State.learn_port (s : State) (p : PortId) (sym : TimeSymbol) :
    let x := s.port p
    let d := linkDelay sym.rxDepart sym.rxArrive sym.depart s.now (s.asym p)
    ((s.learn p sym).port p).time = { x.time with
      rxDepart := sym.depart, rxArrive := s.now, locked := sym.locked, epoch := sym.epoch, hops := sym.hops,
      node := sym.node, schedule := sym.schedule,
      delay := if x.time.sent.isSome then some d else x.time.delay,
      theta := if x.time.sent.isSome then some (offsetOf sym.rxDepart sym.rxArrive d) else x.time.theta,
      remeasure := x.time.remeasure && !x.time.sent.isSome } := by
  simp only [State.learn, State.port_updPort_self]

/-- The machine once a symbol is learnt, its epoch followed and its port marked, before the parent is taken afresh. -/
def State.taught (s : State) (p : PortId) (sym : TimeSymbol) (two no : Bool) : State :=
  ((s.learn p sym).followEpoch sym).exclude p two no

/-- A symbol's receipt takes the parent afresh, and may then discipline the clock by the offset from it. -/
theorem execTimeSymbolReceive_cases {s : State} {p : PortId} (sym : TimeSymbol) (h : s.timePort p = true) :
    ∃ two no t, execTimeSymbolReceive p sym s = .next t
      ∧ (t = (s.taught p sym two no).reparent ∨ ∃ th, t = State.discipline (s.taught p sym two no).reparent th) := by
  unfold execTimeSymbolReceive
  rw [h, Bool.not_true, if_neg Bool.false_ne_true]
  extract_lets u x far stray v
  refine ⟨far || sym.schedule != u.gut.sched.ident, stray, ?_⟩
  split
  · refine ⟨_, rfl, ?_⟩
    split
    · exact .inr ⟨_, rfl⟩
    · exact .inl rfl
  · exact ⟨v, rfl, .inl rfl⟩

/-- What a port holds after a symbol, marked or not (R41). -/
theorem State.taught_port (s : State) (p : PortId) (sym : TimeSymbol) (two no : Bool) :
    ((s.taught p sym two no).port p).time = { ((s.learn p sym).port p).time with
      oneEnded := two, noParent := ((s.learn p sym).port p).time.noParent || no } := by
  rw [State.taught, (State.exclude_quiet ..).retimes.port, State.port_updPort_self, State.followEpoch_port]

@[simp] theorem State.taught_time (s : State) (p : PortId) (sym : TimeSymbol) (two no : Bool) :
    (s.taught p sym two no).time = ((s.learn p sym).followEpoch sym).time := by
  rw [State.taught, (State.exclude_quiet ..).time]; rfl

@[simp] theorem State.taught_byteAt (s : State) (p : PortId) (sym : TimeSymbol) (two no : Bool) (a : Place) :
    (s.taught p sym two no).byteAt a = s.byteAt a := by
  rw [State.taught, (State.exclude_quiet ..).byteAt]
  exact (State.followEpoch_retimes ..).byteAt a

@[simp] theorem State.taught_now (s : State) (p : PortId) (sym : TimeSymbol) (two no : Bool) : (s.taught p sym two no).now = s.now := by
  rw [State.taught, (State.exclude_quiet ..).now]
  exact (State.followEpoch_retimes ..).now

/-- What holds after a symbol's receipt, disciplined or not: but for the time state and events the machine is the taught one, with the
epoch and role that it followed, and a parent taken is the one it picks. -/
theorem execTimeSymbolReceive_spec {s : State} {p : PortId} (sym : TimeSymbol) (h : s.timePort p = true) :
    ∃ two no t, execTimeSymbolReceive p sym s = .next t ∧ (s.taught p sym two no).Retimes t
      ∧ t.time.epoch = (s.taught p sym two no).time.epoch ∧ t.time.master = (s.taught p sym two no).time.master
      ∧ t.time.parent = if (s.taught p sym two no).time.master then none else (s.taught p sym two no).pickParent := by
  obtain ⟨two, no, t, run, end_⟩ := execTimeSymbolReceive_cases sym h
  refine ⟨two, no, t, run, ?_⟩
  obtain ⟨retimes, epoch, master, parent⟩ := (s.taught p sym two no).reparent_spec
  rcases end_ with rfl | ⟨th, rfl⟩
  · exact ⟨retimes, epoch, master, parent⟩
  · obtain ⟨dRetimes, dEpoch, dMaster, dParent⟩ := State.discipline_spec (s.taught p sym two no).reparent th
    exact ⟨retimes.trans dRetimes, dEpoch.trans epoch, dMaster.trans master, dParent.trans parent⟩

/-- Settles O4: alignment by the two forms of its row, a symbol sent by `symbolOf`, a symbol received by the machine that it teaches. -/
theorem timeSymbolsCarryAndTeachExchanges : Obligations.TimeSymbolsCarryAndTeachExchanges := by
  unfold Obligations.TimeSymbolsCarryAndTeachExchanges
  refine ⟨fun s => ⟨fun free => ⟨aligned s.now, ?_, fun ft hft hk => ?_⟩, fun locked => ⟨s.ftLacks s.now, ?_, ?_⟩⟩,
    fun p s fabric up => ⟨s.symbolOf p, ?_, rfl, rfl, rfl, rfl, rfl⟩, fun p sym s fabric up => ?_⟩
  · exact (exec_ftAlignmentSymbol s).trans (execFtAlignmentSymbol_unlocked free)
  · simp only [← agrees_iff]
    exact ⟨fun near => aligned_of_agrees near hft, fun far => aligned_of_not_agrees far hk⟩
  · exact (exec_ftAlignmentSymbol s).trans (execFtAlignmentSymbol_locked locked)
  · simp only [← agrees_iff, State.ftLacks_die, State.ftLacks_ctl, State.ftLacks_edge]
    exact ⟨fun _ => ⟨ftLack_of_agrees, ftLack_of_not_agrees⟩, fun _ => ⟨ftLack_of_agrees, ftLack_of_not_agrees⟩,
      fun _ => ⟨ftLack_of_agrees, ftLack_of_not_agrees⟩⟩
  · exact (exec_timeSymbolSend p s).trans (execTimeSymbolSend_timePort (State.timePort_of_up fabric up))
  · obtain ⟨two, no, t, run, retimes, epoch, master, parent⟩ := execTimeSymbolReceive_spec sym (State.timePort_of_up fabric up)
    refine ⟨t, run, ?_, fun higher => ?_, fun q hq role => ?_, fun a => ?_, ?_⟩
    · rw [retimes.port, State.taught_port, State.learn_port]
      refine ⟨rfl, rfl, rfl, rfl, rfl, rfl, fun sent => ?_⟩
      have measured := Option.isSome_iff_ne_none.mpr sent
      exact ⟨if_pos measured, if_pos measured⟩
    · rw [epoch, master, State.taught_time]
      exact State.followEpoch_higher higher
    · rw [parent, ← master, role] at hq
      obtain ⟨cand, best⟩ := State.pickParent_best hq
      simp only [State.candidate_congr retimes.port epoch, retimes.port]
      exact ⟨cand, best⟩
    · exact (State.Retimes.byteAt retimes a).trans (s.taught_byteAt ..)
    · exact (State.Retimes.now retimes).trans (s.taught_now ..)

end Sys2Proof.Machine
end

section
/-! The first lock, the timing states and the FT step (O5). -/

namespace Sys2Proof.Machine

theorem exec_firstLock (s : State) : exec .firstLock s = execFirstLock s := rfl
theorem exec_degradedHoldoverEntry (s : State) : exec .degradedHoldoverEntry s = execDegradedHoldoverEntry s := rfl
theorem exec_masterLossTimeout (s : State) : exec .masterLossTimeout s = execMasterLossTimeout s := rfl
theorem exec_ftStep (seq : Nat) (s : State) : exec (.ftStep seq) s = execFtStep seq s := rfl

/-! ### Start-up pairs (R40) -/

/-- t is s but for trace records of the dies. -/
def State.Traces (s t : State) : Prop :=
  t = { s with dies := t.dies } ∧ ∀ d, t.die d = { s.die d with trace := (t.die d).trace }

theorem State.Traces.trans {s t u : State} (h : s.Traces t) (g : t.Traces u) : s.Traces u := by
  obtain ⟨hs, hd⟩ := h
  obtain ⟨gs, gd⟩ := g
  exact ⟨by rw [gs, hs], fun d => by rw [gd, hd]⟩

theorem State.emit_traces (s : State) (d : DieId) (type cls unit ctx payload : Nat) :
    s.Traces (s.emit d type cls unit ctx payload) := by
  obtain ⟨-, dies, -⟩ := s.emit_quiet d type cls unit ctx payload
  refine ⟨?_, dies⟩
  unfold State.emit
  split <;> rfl

theorem State.traceTime_traces (s : State) (d : DieId) : s.Traces (s.traceTime d) :=
  (s.emit_traces ..).trans (State.emit_traces ..)

/-- t is s but for traces and for the start-up pairs of the dies of a list, which are their core cycles and FT. -/
def State.Paired (ds : List DieId) (s t : State) : Prop :=
  t = { s with dies := t.dies }
    ∧ (∀ d, t.die d = { s.die d with startPair := (t.die d).startPair, trace := (t.die d).trace })
    ∧ ∀ d, (t.die d).startPair = if d ∈ ds then ((s.die d).cycles, (s.die d).ft) else (s.die d).startPair

theorem State.Paired.append {ds es : List DieId} {s t u : State} (h : State.Paired ds s t) (g : State.Paired es t u) :
    State.Paired (ds ++ es) s u := by
  obtain ⟨hs, hd, hp⟩ := h
  obtain ⟨gs, gd, gp⟩ := g
  refine ⟨by rw [gs, hs], fun d => by rw [gd, hd], fun d => ?_⟩
  have cycles : (t.die d).cycles = (s.die d).cycles := by rw [hd]
  have ft : (t.die d).ft = (s.die d).ft := by rw [hd]
  rw [gp, hp, cycles, ft]
  by_cases late : d ∈ es <;> simp [late]

/-- The start-up pair of one die, with its trace records. -/
def State.recordPair (s : State) (d : DieId) : State :=
  (s.updDie d fun x => { x with startPair := (x.cycles, x.ft) }).traceTime d

theorem State.recordPair_paired (s : State) (e : DieId) : State.Paired [e] s (s.recordPair e) := by
  obtain ⟨frame, dies⟩ := State.traceTime_traces (s.updDie e fun x => { x with startPair := (x.cycles, x.ft) }) e
  refine ⟨frame, fun d => ?_, fun d => ?_⟩
  · rw [State.recordPair, dies, State.die_updDie]
    split
    · next same => rw [same]
    · rfl
  · rw [State.recordPair, dies, State.die_updDie]
    by_cases same : d = e
    · rw [if_pos same, if_pos (List.mem_singleton.mpr same), same]
    · rw [if_neg same, if_neg (mt List.mem_singleton.mp same)]

theorem State.recordPair_foldl (ds : List DieId) (s : State) : State.Paired ds s (ds.foldl State.recordPair s) := by
  induction ds generalizing s with
  | nil => exact ⟨rfl, fun _ => rfl, fun _ => rfl⟩
  | cons e ds ih => exact (s.recordPair_paired e).append (ih _)

/-- Every die's start-up pair becomes its core cycles and FT; but for it and the traces nothing changes. -/
theorem State.recordPairs_spec (s : State) :
    s.recordPairs = { s with dies := s.recordPairs.dies }
      ∧ ∀ d, s.recordPairs.die d = { s.die d with
          startPair := ((s.die d).cycles, (s.die d).ft), trace := (s.recordPairs.die d).trace } := by
  obtain ⟨frame, dies, pairs⟩ : State.Paired allDies s s.recordPairs := s.recordPair_foldl allDies
  refine ⟨frame, fun d => (dies d).trans ?_⟩
  have member : d ∈ allDies := List.mem_finRange d
  rw [pairs d, if_pos member]

/-! ### The first lock (R40, R48, R280) -/

/-- The machine that starts fabric time: every counter becomes what f makes of it, the time state is locked, each die's epoch boundary
and start-up pair are taken. -/
def State.startTime (s : State) (f : Nat → Nat) (m : Bool) : State :=
  let u := s.mapFt f
  State.recordPairs { u with
    time := { u.time with lock := .locked, firstLocked := true, master := m, offset := 0, slew := 0,
                          masterNode := if m then u.node else u.time.masterNode }
    dies := u.dies.map fun (x : Die) => { x with boundary := (x.ft : Int) } }

theorem State.startTime_frame (s : State) (f : Nat → Nat) (m : Bool) :
    s.startTime f m = { s with
      dies := (s.startTime f m).dies, ctlFt := s.ctlFt.map fun ft => f ft % 2 ^ 64, edgeFt := s.edgeFt.map fun ft => f ft % 2 ^ 64,
      time := { s.time with lock := .locked, firstLocked := true, master := m, offset := 0, slew := 0,
                            masterNode := if m then s.node else s.time.masterNode } } :=
  (State.recordPairs_spec _).1

theorem State.startTime_die (s : State) (f : Nat → Nat) (m : Bool) (d : DieId) :
    (s.startTime f m).die d = { s.die d with
      ft := f (s.die d).ft % 2 ^ 64, startPair := ((s.die d).cycles, f (s.die d).ft % 2 ^ 64),
      boundary := ((f (s.die d).ft % 2 ^ 64 : Nat) : Int), trace := ((s.startTime f m).die d).trace } := by
  refine ((State.recordPairs_spec _).2 d).trans ?_
  simp only [State.startTime, State.die, State.mapFt, Fin.getElem_fin, Vector.getElem_map]

/-- A time master starts FT at the later of the endpaper's FT + 1 s and 0x4101:03. -/
theorem execFirstLock_master {s : State} (first : s.time.firstLocked = false) (role : s.setting 0x4101 1 = 1) :
    execFirstLock s = .next ((s.startTime
      (fun _ => max (if s.endValid then s.endFt + 1000000000 else 0) (s.setting 0x4101 3)) true).timeEvent 0x0601) := by
  simp only [execFirstLock, first, role, Bool.false_eq_true, if_true, if_false]; rfl

/-- A module that is not the master moves its counters by the offset from its parent. -/
theorem execFirstLock_follower {s : State} {p : PortId} {th : Int} (first : s.time.firstLocked = false)
    (role : s.setting 0x4101 1 ≠ 1) (parent : s.time.parent = some p) (offset : (s.port p).time.theta = some th) :
    execFirstLock s = .next ((s.startTime (fun ft => addInt ft (th / 1000)) false).timeEvent 0x0601) := by
  simp only [execFirstLock, first, role, parent, offset, Bool.false_eq_true, if_false]; rfl

theorem State.timeEvent_startTime (s : State) (f : Nat → Nat) (m : Bool) :
    (s.startTime f m).timeEvent 0x0601 = (s.startTime f m).raise { code := 0x0601, unit := uCtl s.holder } := by
  rw [State.timeEvent, show (s.startTime f m).holder = s.holder by rw [State.startTime_frame]]

/-! ### Timing states (R45, R47) -/

theorem execDegradedHoldoverEntry_holdover {s : State} (h : s.time.lock = .holdover)
    (late : s.gut.sched.guard < 2 * (20 + (s.mono - s.time.lostAt + 999999) / 1000000)) :
    execDegradedHoldoverEntry s = .next (State.timeEvent { s with time := { s.time with lock := .degraded } } 0x0603) := by
  have bound : s.errorBound = 20 + (s.mono - s.time.lostAt + 999999) / 1000000 := by rw [State.errorBound, h]
  rw [execDegradedHoldoverEntry, bound, if_pos ⟨h, late⟩]

theorem execMasterLossTimeout_claims {s : State} {t : Nat} (lost : s.time.noPathSince = some t) (standby : s.setting 0x4101 1 = 2)
    (role : s.time.master = false) (first : s.time.firstLocked = true) (due : t + s.setting 0x4101 2 * 1000000 ≤ s.mono) :
    execMasterLossTimeout s = .next (State.timeEvent { s with time := { s.time with
      master := true, epoch := s.time.epoch + 1, masterNode := s.node, lock := .locked, parent := none, noPathSince := none,
      slew := 0 } } 0x0606) := by
  simp only [execMasterLossTimeout, lost, standby, role, first, due, Bool.not_false, and_self, if_true]

/-! ### The FT step (R46) -/

/-- A TIME command of this operation in hand runs while the host port has its spine path. -/
theorem State.timeCommand_runs {s : State} {seq op : Nat} {x : HostCmd} (run : HostCmd → State) (hand : s.ready 0 seq 0x07 = some x)
    (operation : bits (x.qw 2) 63 60 = op) (known : 0 < op ∧ op ≤ 3) (path : s.hostPath = true) :
    s.timeCommand seq op run = .next (run x) := by
  have valid : ¬ (op = 0 ∨ 3 < op) := by omega
  simp only [State.timeCommand, hand, operation, valid, path, ne_eq, not_true, Bool.not_true, Bool.false_eq_true, if_false]

/-- The machine with everything that is compared with FT moved, before the new start-up pairs are taken. -/
def State.ftMoved (s : State) (t : Nat) : State :=
  let δ : Int := (t : Int) - s.now
  let u := s.moveSchedules δ
  State.mapFt { u with dies := u.dies.map fun (x : Die) => x.moveFt δ
                       ports := u.ports.map fun (x : Port) => { x with time := { x.time with sent := none } } }
    fun ft => addInt ft δ

theorem State.stepFt_eq (s : State) (t : Nat) : s.stepFt t = (s.ftMoved t).recordPairs := rfl

/-- But for the dies an FT step leaves the moved machine as it is. -/
theorem State.stepFt_frame (s : State) (t : Nat) : s.stepFt t = { s.ftMoved t with dies := (s.stepFt t).dies } :=
  (s.ftMoved t).recordPairs_spec.1

/-- After an FT step a die holds what it compares with FT moved by the same amount as its counter, and a new pair. -/
theorem State.stepFt_die (s : State) (t : Nat) (d : DieId) :
    let δ : Int := (t : Int) - s.now
    (s.stepFt t).die d = { (s.die d).moveFt δ with
      ft := addInt (s.die d).ft δ % 2 ^ 64, startPair := ((s.die d).cycles, addInt (s.die d).ft δ % 2 ^ 64),
      trace := ((s.stepFt t).die d).trace } := by
  refine ((s.ftMoved t).recordPairs_spec.2 d).trans ?_
  simp only [State.stepFt_eq, State.ftMoved, State.die, State.mapFt, State.moveSchedules, State.setSetting, Die.moveFt,
    Fin.getElem_fin, Vector.getElem_map]

theorem State.stepFt_byteAt (s : State) (t : Nat) (a : Place) : (s.stepFt t).byteAt a = s.byteAt a := by
  simp only [State.byteAt, Die.mem]
  rw [State.stepFt_die]
  rfl

theorem execFtStep_running {s : State} {seq : Nat} {x : HostCmd} (hand : s.ready 0 seq 0x07 = some x)
    (operation : bits (x.qw 2) 63 60 = 3) (path : s.hostPath = true) (running : s.allStopped = false) :
    execFtStep seq s = .next (s.finish 0 seq 0x06 []) := by
  rw [execFtStep, State.timeCommand_runs _ hand operation (by decide) path, running]; rfl

theorem execFtStep_stopped {s : State} {seq : Nat} {x : HostCmd} (hand : s.ready 0 seq 0x07 = some x)
    (operation : bits (x.qw 2) 63 60 = 3) (path : s.hostPath = true) (stopped : s.allStopped = true) :
    execFtStep seq s = .next ((s.stepFt (x.qw 3)).finish 0 seq 0 []) := by
  rw [execFtStep, State.timeCommand_runs _ hand operation (by decide) path, stopped]; rfl

/-- Settles O5: the first lock by `startTime`, holdover and the master's loss by their rows, the FT step by `stepFt`. -/
theorem fabricTimeStartsAndSteps : Obligations.FabricTimeStartsAndSteps := by
  unfold Obligations.FabricTimeStartsAndSteps
  refine ⟨fun s first => ⟨fun role => ?_, fun p th role parent offset => ?_⟩, fun s holdover late => ?_,
    fun s t lost standby role first due => ?_, fun s seq x hand operation path => ⟨fun stopped => ?_, fun running => ?_⟩⟩
  · exact ⟨_, by rw [exec_firstLock, execFirstLock_master first role, State.timeEvent_startTime], s.startTime_die _ _,
      s.startTime_frame _ _⟩
  · exact ⟨_, by rw [exec_firstLock, execFirstLock_follower first role parent offset, State.timeEvent_startTime],
      s.startTime_die _ _, s.startTime_frame _ _⟩
  · rw [exec_degradedHoldoverEntry, execDegradedHoldoverEntry_holdover holdover late]; rfl
  · rw [exec_masterLossTimeout, execMasterLossTimeout_claims lost standby role first due]; rfl
  · refine ⟨s.stepFt (x.qw 3), (exec_ftStep seq s).trans (execFtStep_stopped hand operation path stopped), ?_,
      s.stepFt_byteAt _, ?_, ?_⟩
    · refine ⟨fun d => ?_, fun c => ?_, fun e => ?_, ?_, ?_, ?_, ?_⟩
      · rw [State.stepFt_die]
        exact ⟨rfl, rfl, rfl, rfl, rfl, rfl, rfl⟩
      · rw [State.stepFt_frame]; exact Vector.getElem_map ..
      · rw [State.stepFt_frame]; exact Vector.getElem_map ..
      all_goals rw [State.stepFt_frame]; rfl
    · rw [State.stepFt_frame]; rfl
    · rw [State.stepFt_frame]; rfl
  · exact (exec_ftStep seq s).trans (execFtStep_running hand operation path running)

end Sys2Proof.Machine
end
